-- ==== Sys2Proof/Word.lean ====
section
/-! DEFINITION. Word.lean: the bit-vector and index types of the N32 (R8, R9, R20, R287, R290, R411). -/
namespace Sys2Proof

/-- One byte. -/
abbrev Byte := BitVec 8

/-- One 64-bit scalar or instruction word (R287, R313). -/
abbrev W64 := BitVec 64

/-- One 32-byte line (R261). -/
abbrev Line := BitVec 256

/-- One vector register, 64 lanes of 32 bits (R287). -/
abbrev VecReg := BitVec 2048

/-- A core number, 0 to 31 (R20). -/
abbrev CoreId := Fin 32

/-- A stream context, 0 to 255 (R290). -/
abbrev CtxId := Fin 256

/-- A partition, P0 to P3 (R411). -/
abbrev PartId := Fin 4

/-- A local arrival counter of a core (R277). -/
abbrev CtrId := Fin 64

/-- A synchronisation object (R295). -/
abbrev SoId := Fin 16384

/-- An agent that makes CSR and memory accesses (R15): a hart of the application cluster, a stream context through
the csr instruction, or a PCIe function. Each has read latches of its own. -/
inductive Agent where
  | hart (h : Fin 8)
  | ctx (c : CtxId)
  | fn (f : Fin 8)
  deriving DecidableEq, Repr

/-- How a 64-bit register word is written (R15): whole, or one of its 32-bit halves. -/
inductive Half where
  | whole | lower | upper
  deriving DecidableEq, Repr

/-- Where a memory access comes from, for the windows of a scratchpad and SPM_STATUS (R274, Table 10-4). -/
inductive Src where
  | core (n : CoreId)
  | app
  | pcie (port : Fin 2)
  | fabric
  deriving DecidableEq, Repr

/-- The regions of Table 19-1 (R477), with the offset in the region. -/
inductive Region where
  | dram (off : Nat)
  | vault (off : Nat)
  | spm (n : CoreId) (off : Nat)
  | csr (off : Nat)
  | tcm (off : Nat)
  | host (p : PartId) (off : Nat)
  | unmapped
  deriving DecidableEq, Repr

/-- What the decoder of the word code makes of a stored codeword (R383, Table 15-3), as the bits by which the data it delivers
differ from the data written: no error, one bit corrected, poisoned, uncorrectable. -/
inductive Decoded where
  | clean (err : BitVec 256)
  | fixed (bit : Nat) (err : BitVec 256)
  | poisoned
  | bad
  deriving DecidableEq, Repr, Inhabited

/-- Why an access is not performed (R274, R279, R362, R408, R412, R478). -/
inductive Denial where
  | map
  | table
  | window (n : CoreId) (win : Option (Fin 8))
  | bell (n : CoreId) (win : Fin 8) (isOpen : Bool)
  | chunk
  | unmapped
  deriving DecidableEq, Repr

/-- The classes of compute instructions that keep an order of their own (R344). -/
inductive UnitClass where
  | array | grid | select | sort | table
  deriving DecidableEq, Repr

/-- What an inbound PCIe request reaches beside CSR space (R410, R418): the partition aperture, BAR4, or the control word of the
function's MSI-X capability. -/
inductive PcieTarget where
  | bar2 (off : BitVec 33)
  | bar4 (off : BitVec 16)
  | control (v : BitVec 16)
  deriving DecidableEq, Repr

/-- The PCIe events that reset a partition (R416): a Function Level Reset, and a hot reset or link-down of a port. -/
inductive PcieReset where
  | flr (f : Fin 8)
  | hot (port : Fin 2)
  | linkDown (port : Fin 2)
  deriving DecidableEq, Repr

/-- The binding a management packet arrives on (R427): vendor-defined messages of a PCIe port, or SMBus. -/
inductive MctpBinding where
  | vdm (port : Fin 2)
  | smbus
  deriving DecidableEq, Repr

/-- Words of SRAM that no device address reaches (R383, Table 15-6): of a core's accumulator (word `k` holds entries 8k to 8k + 7), of its
weight staging buffer (64 words a slot) and of its instruction cache (by the device word it holds a copy of); of the application cluster's
L2 (likewise); of the safety monitor; a row in the replica set in a vault bank, a row in the table engine's cache and an entry of its update
buffer (by table, bank and row); of the front end's staging store; of a channel's metadata cache. -/
inductive Sram where
  | acc (n : CoreId) (k : Nat)
  | stage (n : CoreId) (k : Nat)
  | icache (n : CoreId) (word : Nat)
  | l2 (word : Nat)
  | monitor (k : Nat)
  | replica (vault : Fin 32) (tab bank row : Nat)
  | rowLine (tab bank row : Nat)
  | sums (tab bank row : Nat)
  | store (k : Nat)
  | metadata (c : Fin 16) (k : Nat)
  deriving DecidableEq, Repr

/-- What patrol scrub visits (R399): the block or line at a device address, or a word of another SRAM. -/
inductive ScrubPlace where
  | device (addr : BitVec 48)
  | sram (k : Sram)
  deriving DecidableEq, Repr

/-- Bits of a codeword that have flipped by the time scrub visits it, or that flip once it has passed, so that they await a reader. -/
structure Upset where
  bits  : BitVec 272
  after : Bool
  deriving DecidableEq, Repr

/-- Reads of a DMA channel that land in its staging buffer (R360): how many, and the bytes that those of host memory return, in order. -/
structure DmaRead where
  chan  : Fin 32
  reads : Fin 64
  host  : List Byte
  deriving DecidableEq, Repr

end Sys2Proof
end

