-- ==== Sys2Proof/Syntax.lean ====
section
/-! DEFINITION. Syntax.lean: the commands the N32 takes, one constructor for each row of the table of operations and
events. The table gives its rows no fields; the operands are the model's (assumption 1, DESIGN CHOICE): the register offset and value
of a write, the core and words of a Shaos instruction, the time that passes before an event (dt, in TCLK edges), and
the physical inputs an event depends on. -/
namespace Sys2Proof

/-- The commands of the N32. -/
inductive Instr where
  /-- A CSR write to a register with no row of its own sets RW fields, clears W1C bits and stages or discards RWT fields under the access codes (R12). -/
  | registerWrite (a : Agent) (off bytes : Nat) (v : W64)
  /-- A C2 packet that has waited 256 FCLK at a router output is sent in the next free slot ahead of C0 and C1 traffic (R24). -/
  | meshC2Age (dt : Nat)
  /-- The slice timer reaches the end of a slice; the next slice begins and the early-close check is made (R34). -/
  | sliceBoundary (dt : Nat)
  /-- With enable set and exposures idle, the first exposure opens at the first phase-aligned local time (R36). -/
  | exposureFirstOpen (dt : Nat)
  /-- The deadline close + D of an incomplete exposure passes; from then on lag grows and lagging reads 1 (R51). -/
  | exposureDeadline (dt : Nat)
  /-- Once the last slice is sealed and written, the front end writes the descriptor, updates FE_PBUF_STATUS, delivers zone counts and sets close_so (boundary step 6) (R111). -/
  | exposureDescriptorWrite (dt : Nat)
  /-- The front end commits the header-only Print of an overrun exposure to every enabled ring once each ring has room (R368). -/
  | frontEndHeaderPrint (dt : Nat) (p : PartId)
  /-- The running context uses up its quantum and the core rotates to the longest-waiting ready context of equal priority (R55). -/
  | quantumExpiry (dt : Nat) (n : CoreId)
  /-- A context of higher priority becomes ready and the core switches to it at the next instruction boundary or pass end (R56). -/
  | contextSwitch (n : CoreId)
  /-- A ready non-resident context is made resident, in a free slot or by swapping out a chosen resident context (R57). -/
  | contextSwap (c : CtxId)
  /-- A frame arrives at an Ethernet port; it is stamped, checked and steered to a receive queue, the front end or discarded (R64). -/
  | frameReceive (dt : Nat) (port : Fin 8) (sub : Fin 262144) (bs : List Byte)
  /-- A port gains or loses link; link_up follows and, without link, transmit descriptors complete with status 3 (R66). -/
  | ethLinkChange (dt : Nat) (port : Fin 8) (up anDone : Bool)
  /-- Writing start in ETH_MDIO begins one Clause 22 or Clause 45 operation on the bus (R65). -/
  | mdioStart (a : Agent) (b : Fin 2) (h : Half) (v : W64)
  /-- The MDIO operation ends; busy clears and a read result appears in data (R65). -/
  | mdioComplete (dt : Nat) (b : Fin 2) (v : BitVec 16)
  /-- Software advances the tail of a transmit or receive ring and hands descriptors to the N32 (R79). -/
  | queueTailWrite (a : Agent) (port : Fin 8) (tx : Bool) (h : Half) (v : W64)
  /-- The descriptor at the head is sent, at once or when its launch time arrives, or is completed unsent with status 2, 3 or 4 (R81). -/
  | txFrameSend (dt : Nat) (port : Fin 8) (sub : Fin 262144)
  /-- Writing the upper half of PTP_INCR sets the clock increment at the next TCLK edge, clamped to ±500 ppm (R69). -/
  | ptpIncrWrite (a : Agent) (h : Half) (v : W64)
  /-- Writing the upper half of PTP_STEP applies the step at once or refuses it and holds it pending (R72). -/
  | ptpStepRequest (a : Agent) (h : Half) (v : W64)
  /-- Writing confirm applies the pending step at the next TCLK edge and increments step_gen (R73). -/
  | ptpStepConfirm (a : Agent) (h : Half) (v : W64)
  /-- Writing discard drops the pending step (R73). -/
  | ptpStepDiscard (a : Agent) (h : Half) (v : W64)
  /-- A read of PTP_TIME_NS returns nanoseconds and latches the seconds of that TCLK edge for the requester (R70). -/
  | ptpTimeNsRead (a : Agent) (h : Half)
  /-- A read of PTP_TIME_SEC returns and consumes the latched seconds, or the live seconds when no latch is held (R70). -/
  | ptpTimeSecRead (a : Agent) (h : Half)
  /-- Writing arm schedules a pulse output, or is refused with cfg_err when width or period is invalid (R84). -/
  | pulseArm (a : Agent) (k : Fin 4) (v : BitVec 32)
  /-- The clock reaches a scheduled start and the pulse output goes active; the next periodic edge is scheduled (R83). -/
  | pulseLeadingEdge (dt : Nat) (k : Fin 4)
  /-- width_ns after the leading edge the output returns inactive, and arm clears for a single pulse (R83). -/
  | pulseTrailingEdge (dt : Nat) (k : Fin 4)
  /-- A selected edge on CAPT0 or CAPT1 is stamped into that input's FIFO, or is counted in capt_ovf when the FIFO is full (R86). -/
  | captureEdge (dt : Nat) (c : Fin 2) (falling : Bool)
  /-- A read of PTP_CAPT_FIFO returns and removes the oldest stamp, or all ones when the FIFO is empty (R86). -/
  | captFifoRead (a : Agent) (c : Fin 2) (h : Half)
  /-- An IMU_DRDY edge or a scheduled pulse edge takes the next seq and starts a read, is held, or is dropped as imu_overrun (R88). -/
  | imuTrigger (dt : Nat) (falling : Bool)
  /-- A trigger held during a read starts its SPI command and read once the previous read ends (R87). -/
  | imuReadStart (dt : Nat)
  /-- A completed IMU read is written as a 256-bit record into the ring and wr_seq is updated (R89). -/
  | imuReadComplete (dt : Nat) (bs : List Byte)
  /-- Writing start in FE_IMU_XFER while sampling is disabled begins a full-duplex transfer of 1 to 4 bytes (R90). -/
  | imuXferStart (a : Agent) (h : Half) (v : W64)
  /-- The firmware IMU transfer ends, the received bytes replace data and busy clears (R90). -/
  | imuXferComplete (dt : Nat) (bs : List Byte)
  /-- A frame steered to the front end is decoded by its program into points that are timed and staged or dropped (R92). -/
  | frameDecode (dt : Nat) (port : Fin 8)
  /-- seal_us after a slice ends, its pose is formed, its staged points are transformed, zone-counted and written to the point buffer (R102). -/
  | sliceSeal (dt : Nat)
  /-- A compute instruction starts in its unit 2 CCLK after issue, or when the ordering of its class lets it (R343). -/
  | computeStart (dt : Nat) (n : CoreId) (u : UnitClass)
  /-- An array-class instruction has written all its results and advances its counter, or raises a completion exception (R342). -/
  | arrayClassComplete (dt : Nat) (n : CoreId)
  /-- A grid-class instruction has written all its results and advances its counter (R342). -/
  | gridClassComplete (dt : Nat) (n : CoreId)
  /-- A top-k, threshold or merge instruction completes and advances its counter (R342). -/
  | selectionClassComplete (dt : Nat) (n : CoreId)
  /-- A sort finishes its histogram and scatter passes and advances its counter (R136). -/
  | sortComplete (dt : Nat) (n : CoreId)
  /-- A table-class instruction reaches its completion point and advances its counter (R342). -/
  | tableClassComplete (dt : Nat) (n : CoreId) (j : Nat)
  /-- The active and shadow weights of all cells swap to begin a pass once the shadow load and the previous pass's drain allow (R151). -/
  | weightSwap (dt : Nat) (n : CoreId)
  /-- 2,048 CCLK after a pass's first entry the pass ends, giving a pre-emption point (R160). -/
  | arrayPassLimit (dt : Nat) (n : CoreId)
  /-- After ramp_step CCLK the shared array issue limit moves one step up or down (R162). -/
  | rampStep (dt : Nat) (n : CoreId)
  /-- A merge participant's partner list arrives and it merges the list at that level, or sends its own list up (R218). -/
  | mergeLevel (dt : Nat) (n : CoreId)
  /-- merge_timeout_us passes without the partner's list; the participant passes its own list up with INCOMPLETE set (R220). -/
  | mergeTimeout (dt : Nat) (n : CoreId)
  /-- A lookup request is resolved from a replica or by the table engine, and acc is counted (R235). -/
  | tableRequest (dt : Nat) (n : CoreId) (dirHit rowHit : Bool)
  /-- A directory or row line missing from the engine cache arrives from DRAM and the waiting requests proceed (R238). -/
  | rowCacheFill (dt : Nat) (j : Nat) (rowHit : Bool)
  /-- A gradient pair reaches the update buffer; it is summed into its entry, takes a new entry, or is dropped (R248). -/
  | tableGradientPair (dt : Nat) (n : CoreId)
  /-- A replace request writes a row's value, allocates or frees its slot, and may clear its optimiser state (R256). -/
  | tableReplaceRequest (dt : Nat) (n : CoreId)
  /-- A step operation starts after any running step, closes the open update-buffer half and opens the other (R249). -/
  | tableStepStart (dt : Nat)
  /-- The closed half's rows are optimised and written back, steps increments, and the named object advances by 1 (R250). -/
  | tableStepDone (dt : Nat)
  /-- The sweep visits a directory entry and decides replication and migration, then halves acc (R245). -/
  | sweepVisit (dt : Nat)
  /-- The copy of a migrating row lands in its new slot (R246). -/
  | migrationCopyDone (dt : Nat) (j : Nat)
  /-- Replicas are invalidated, any buffered update is replayed, and the directory entry points to the new tier and slot (R246). -/
  | migrationFlip (dt : Nat) (j : Nat)
  /-- Once every read of the old slot has completed, the old slot returns to its free stack (R246). -/
  | migrationSlotRelease (dt : Nat) (j : Nat)
  /-- When no operation is bound to the old bank, it is written back and retired, draining clears and ver increments (R255). -/
  | bankRetire (dt : Nat) (t : Fin 16)
  /-- Writing start in TBL_REBUILD starts copying a table into its inactive bank, or sets rb_err (R257). -/
  | rebuildStart (a : Agent) (v : BitVec 32)
  /-- Writing stop ends mirroring into the rebuild target (R258). -/
  | rebuildStop (a : Agent) (v : BitVec 32)
  /-- The last row has been copied and rb_done is set; mirroring continues (R258). -/
  | rebuildDone (dt : Nat)
  /-- A read or write by another agent reaches a scratchpad line and is permitted through an open window, or denied (R274). -/
  | remoteAccess (a : Agent) (n : CoreId) (off : BitVec 22) (k : Nat) (bs : List Byte)
  /-- A non-core agent's write to a window doorbell ends its transfer and advances the window's arrival counter (R275). -/
  | doorbellWrite (a : Agent) (n : CoreId) (w : Fin 8) (v : W64)
  /-- A line carrying the last mark ends a core-sourced transfer and the window's arrival counter advances (R275). -/
  | remoteTransferEnd
  /-- A line access reaches a vault bank and is performed, or denied in the table region or by the partition map (R278). -/
  | vaultAccess (a : Agent) (off : BitVec 26) (n : Nat) (bs : List Byte) (upset : BitVec 272)
  /-- A gather-buffer entry that has held a partial mask for 64 CCLK is written back by read-modify-write (R270). -/
  | gatherWriteback (dt : Nat) (n : CoreId)
  /-- A DMA or window request that has waited steal_age CCLK takes its bank slot and the core's units hold issue for one CCLK (R269). -/
  | stealStall (n : CoreId)
  /-- A write to SPM_CHUNK_OWN reassigns a chunk, or is ignored with own_err when it would strip a valid handle (R268). -/
  | chunkOwnWrite (a : Agent) (n : CoreId) (c : Fin 48) (v : BitVec 32)
  /-- Writing close in SPM_WIN closes the window (R276). -/
  | windowCloseWrite (a : Agent) (n : CoreId) (w : Fin 8) (h : Half) (v : W64)
  /-- A P0 write of SO_CTX_CFG binds a context to a core and partition while it is disabled, unbound or halted; otherwise it is ignored (R290). -/
  | ctxCfgWrite (a : Agent) (c : CtxId) (h : Half) (v : W64)
  /-- Writing bind sets pc to prog, clears registers, sets the priority, makes the context ready and is a task boundary (R292). -/
  | ctxBind (a : Agent) (c : CtxId) (h : Half) (v : W64)
  /-- Writing kill stops the context's issue and makes it halted once issued counted instructions complete (R292). -/
  | ctxKill (a : Agent) (c : CtxId) (h : Half) (v : W64)
  /-- Writing resume to a faulted context makes it ready at pc_next (R309). -/
  | ctxResume (a : Agent) (c : CtxId) (h : Half) (v : W64)
  /-- A write of CORE_CTR_GRP assigns a counter group, or is ignored when it would remove a counter under an open window (R294). -/
  | ctrGrpWrite (a : Agent) (n : CoreId) (g : Fin 8) (v : BitVec 32)
  /-- A CSR write of SO_VALUE performs a signal at the object's home (R297). -/
  | soValueWrite (a : Agent) (o : SoId) (h : Half) (v : W64)
  /-- A CSR read of SO_VALUE performs a read operation at the home and returns the value (R297). -/
  | soValueRead (a : Agent) (o : SoId) (h : Half)
  /-- Writing reset in SO_CTRL sets an object to 0 and clears arm, or sets reset_err while a wait is registered (R295). -/
  | soReset (a : Agent) (h : Half) (v : W64)
  /-- A write of SO_ATTR sets ownership, sharing or arming, and raises the vector at once if armed with the value already reached (R296). -/
  | soAttrWrite (a : Agent) (o : SoId) (v : BitVec 32)
  /-- An add, signal or read reaches the object's home slice and executes, after its release's writes are performed (R295). -/
  | soOpExecute (j : Nat)
  /-- A wait registration reaches the home slice and is answered at once or held (R298). -/
  | soWaitRegister (c : CtxId)
  /-- The home's answer to wait.so reaches the core; issue continues or the context waits (R339). -/
  | soWaitAnswer (c : CtxId)
  /-- The result of so.read or so.add reaches the core's s register and issue resumes (R297). -/
  | soResultArrive (c : CtxId)
  /-- A wait's timeout expires, the context becomes ready and its s register receives 1 (R299). -/
  | waitTimeout (dt : Nat) (c : CtxId)
  /-- The line of an instruction-cache miss arrives and issue on the core resumes (R282). -/
  | icacheFill (dt : Nat) (n : CoreId)
  /-- A global load or store completes, or is denied, and its counter advances (R329). -/
  | globalAccessComplete (j : Nat) (host : BitVec 2048)
  /-- Every access and transfer issued before a fence is performed and the fence's counter advances (R301). -/
  | fenceComplete (j : Nat)
  /-- The register access of a csr instruction is done; the read value is written and the counter advances (R337). -/
  | csrAccessComplete (j : Nat)
  /-- Does nothing (R323). -/
  | nop (n : CoreId) (w : W64)
  /-- The context enters halted at the next boundary (R323). -/
  | halt (n : CoreId) (w : W64)
  /-- Raises the trap exception with the immediate as info (R323). -/
  | trap (n : CoreId) (w : W64)
  /-- Ends the running context's quantum and leaves it ready (R323). -/
  | yield (n : CoreId) (w : W64)
  /-- Performs a task boundary and then yields (R324). -/
  | yieldTaskEnd (n : CoreId) (w : W64)
  /-- Issues a fence whose counter advances when earlier accesses are performed (R323). -/
  | fence (n : CoreId) (w : W64)
  /-- Reads a system value of Table 12-4 into an s register (R323). -/
  | sysr (n : CoreId) (w : W64)
  /-- Sends a stage mark for stages 2 to 15 to the safety monitor (R325). -/
  | stage (n : CoreId) (w : W64)
  /-- Branches on a comparison of two s registers (R323). -/
  | br (n : CoreId) (w : W64)
  /-- Jumps relative and links (R323). -/
  | jal (n : CoreId) (w : W64)
  /-- Jumps to a register target and links (R323). -/
  | jalr (n : CoreId) (w : W64)
  /-- Branches on the bits of a predicate register (R323). -/
  | bp (n : CoreId) (w : W64)
  /-- Scalar register-register arithmetic or logic (R326). -/
  | alu (n : CoreId) (w : W64)
  /-- Scalar arithmetic with an immediate (R326). -/
  | alui (n : CoreId) (w : W64)
  /-- Loads a 64-bit immediate (R326). -/
  | li (n : CoreId) (w x : W64)
  /-- Scalar multiply, low or high half (R326). -/
  | mul (n : CoreId) (w : W64)
  /-- Scalar divide or remainder (R326). -/
  | div (n : CoreId) (w : W64)
  /-- Conditional select (R326). -/
  | csel (n : CoreId) (w : W64)
  /-- Handle-relative scalar load from the own scratchpad (R327). -/
  | ldH (n : CoreId) (w : W64)
  /-- Handle-relative scalar store through the gather buffer (R327). -/
  | stH (n : CoreId) (w : W64)
  /-- Counted global scalar load (R327). -/
  | ldG (n : CoreId) (w : W64)
  /-- Global scalar store, optionally counted and with the last mark (R327). -/
  | stG (n : CoreId) (w : W64)
  /-- Handle-relative vector load of 8 blocks in a chosen shape (R327). -/
  | vldH (n : CoreId) (w : W64)
  /-- Handle-relative vector store of 8 blocks (R327). -/
  | vstH (n : CoreId) (w : W64)
  /-- Counted global vector load of 256 bytes (R327). -/
  | vldG (n : CoreId) (w : W64)
  /-- Global vector store of 256 bytes, optionally counted (R327). -/
  | vstG (n : CoreId) (w : W64)
  /-- Vector integer arithmetic (R332). -/
  | valu (n : CoreId) (w : W64)
  /-- Vector integer compare into a predicate (R332). -/
  | vcmp (n : CoreId) (w : W64)
  /-- Vector floating-point arithmetic (R333). -/
  | vfalu (n : CoreId) (w : W64)
  /-- Vector floating-point compare into a predicate (R332). -/
  | vfcmp (n : CoreId) (w : W64)
  /-- Converts one part of a vector between formats (R334). -/
  | vcvt (n : CoreId) (w : W64)
  /-- Reduces the active lanes of a vector to a scalar (R332). -/
  | vred (n : CoreId) (w : W64)
  /-- Broadcasts, extracts, inserts, permutes, shifts or packs lanes (R332). -/
  | vperm (n : CoreId) (w : W64)
  /-- Returns 64 random draws (R332). -/
  | vdraw (n : CoreId) (w : W64)
  /-- Predicate logic and predicate-scalar moves (R332). -/
  | pop (n : CoreId) (w : W64)
  /-- Loads a tile descriptor from a scratchpad line (R335). -/
  | tld (n : CoreId) (w : W64)
  /-- Stores a tile descriptor to a scratchpad line (R335). -/
  | tst (n : CoreId) (w : W64)
  /-- Sets one quarter of a tile descriptor (R335). -/
  | tset (n : CoreId) (w : W64)
  /-- Reads one quarter of a tile descriptor (R335). -/
  | tget (n : CoreId) (w : W64)
  /-- Writes a handle entry, checked under R265, closing any window on it (R335). -/
  | hset (n : CoreId) (w : W64)
  /-- Reads half of a handle entry (R335). -/
  | hget (n : CoreId) (w : W64)
  /-- Invalidates a handle entry (R335). -/
  | hinv (n : CoreId) (w : W64)
  /-- Opens a remote window on a handle (R336). -/
  | winOpen (n : CoreId) (w : W64)
  /-- Closes a window opened by this context (R336). -/
  | winClose (n : CoreId) (w : W64)
  /-- Counted CSR read by a stream context (R337). -/
  | csrRead (n : CoreId) (w : W64)
  /-- Counted CSR write by a stream context, checked against the register's rules at issue (R337). -/
  | csrWrite (n : CoreId) (w : W64)
  /-- Reads a synchronisation object (R338). -/
  | soRead (n : CoreId) (w : W64)
  /-- Adds to a synchronisation object (R338). -/
  | soAdd (n : CoreId) (w : W64)
  /-- Signals a synchronisation object as a release (R338). -/
  | soSig (n : CoreId) (w : W64)
  /-- Waits until an object reaches a target (R339). -/
  | waitSo (n : CoreId) (w : W64)
  /-- Waits until a local arrival counter meets a target (R338). -/
  | waitCtr (n : CoreId) (w : W64)
  /-- Sets a local arrival counter (R338). -/
  | ctrSet (n : CoreId) (w : W64)
  /-- Reads a local arrival counter (R338). -/
  | ctrRead (n : CoreId) (w : W64)
  /-- Loads and starts a core DMA channel (R340). -/
  | dma (n : CoreId) (w x : W64)
  /-- Prepares and shadow-loads a held weight set (R347). -/
  | wld (n : CoreId) (w : W64)
  /-- Swaps the active and shadow weights and the held sets (R347). -/
  | wswap (n : CoreId) (w : W64)
  /-- Matrix instruction on the arrays, or the masked weight-gradient form (R155). -/
  | mm (n : CoreId) (w : W64)
  /-- Matrix instruction on the matrix-vector path (R163). -/
  | mv (n : CoreId) (w : W64)
  /-- Gather-form matrix instruction over one kernel-map list (R350). -/
  | mmG (n : CoreId) (w : W64)
  /-- Test strip pass that writes a site mask (R202). -/
  | strip (n : CoreId) (w : W64)
  /-- Forms the union of one group of a stored matrix (R353). -/
  | dun (n : CoreId) (w x : W64)
  /-- Intersection dot product of two index lists (R354). -/
  | dint (n : CoreId) (w x : W64)
  /-- Clears a grid table (R124). -/
  | gridClear (n : CoreId) (w x : W64)
  /-- Inserts points into grid cells and accumulates statistics (R130). -/
  | gridIns (n : CoreId) (w x : W64)
  /-- Looks up cell ids for keys (R126). -/
  | gridLook (n : CoreId) (w x : W64)
  /-- Ages a grid table into a new table (R131). -/
  | gridAge (n : CoreId) (w x : W64)
  /-- Exports band cells as one remote transfer (R133). -/
  | haloExp (n : CoreId) (w x : W64)
  /-- Imports received halo records (R134). -/
  | haloImp (n : CoreId) (w x : W64)
  /-- Converts cell keys to Morton keys (R135). -/
  | morton (n : CoreId) (w x : W64)
  /-- Writes the Morton keys and ids of a whole table (R355). -/
  | mortonTab (n : CoreId) (w x : W64)
  /-- Writes sorted positions into the rank array (R135). -/
  | rankw (n : CoreId) (w x : W64)
  /-- Builds a kernel map (R138). -/
  | kmap (n : CoreId) (w x : W64)
  /-- Runs ball queries (R140). -/
  | ball (n : CoreId) (w x : W64)
  /-- Keeps elements by deterministic random draws (R356). -/
  | sample (n : CoreId) (w x : W64)
  /-- Top-k selection into the slot's live list (R211). -/
  | topk (n : CoreId) (w x : W64)
  /-- Threshold compaction into a result list (R215). -/
  | thr (n : CoreId) (w x : W64)
  /-- Collective merge of top-k lists across cores (R217). -/
  | merge (n : CoreId) (w x : W64)
  /-- Radix sort or histogram (R222). -/
  | sort (n : CoreId) (w x : W64)
  /-- Table lookup of rows into a destination (R234). -/
  | tlook (n : CoreId) (w x : W64)
  /-- Sends gradient pairs to the update buffer (R248). -/
  | tgrad (n : CoreId) (w x : W64)
  /-- Requests an optimiser step for a table mask (R249). -/
  | tstep (n : CoreId) (w : W64)
  /-- Replaces table rows (R256). -/
  | trepl (n : CoreId) (w x : W64)
  /-- Prefetches the rows of a slice's key list (R242). -/
  | tpf (n : CoreId) (w : W64)
  /-- Writing perf_clr in ARR_CTRL clears ARR_PERF and the ACC_STATUS counters (R172). -/
  | arrPerfClr (a : Agent) (n : CoreId) (v : BitVec 32)
  /-- Writing perf_clr in DVL_CTRL clears the Developer counters (R206). -/
  | dvlPerfClr (a : Agent) (n : CoreId) (v : BitVec 32)
  /-- Writing perf_clr in SEL_CTRL clears the selection counters (R226). -/
  | selPerfClr (a : Agent) (n : CoreId) (v : BitVec 32)
  /-- Writing perf_clr in SRT_CTRL clears nan_keys and SRT_PERF (R226). -/
  | srtPerfClr (a : Agent) (n : CoreId) (v : BitVec 32)
  /-- Writing perf_clr in SPM_CTRL clears SPM_PERF and denied_count (R281). -/
  | spmPerfClr (a : Agent) (n : CoreId) (v : BitVec 32)
  /-- Writing perf_clr in TBL_CTRL clears TBL_PERF and the TBL_STATUS counters (R260). -/
  | tblPerfClr (a : Agent) (v : BitVec 32)
  /-- The owner writes start in DMA_CTRL; the fabric channel starts, or cfg_err is set (R361). -/
  | fabricDmaStart (a : Agent) (k : Fin 32) (h : Half) (v : W64)
  /-- A granted channel with enough credit begins a burst of up to 32 beats (R370). -/
  | dmaBurst (dt : Nat) (e : Option CoreId) (reads : List DmaRead) (run : Fin 33)
  /-- A channel's transfer is performed; its counter or object advances and busy clears (R371). -/
  | dmaChannelComplete (dt : Nat) (e : Option CoreId) (k : Fin 32)
  /-- A write of DMA_OWN assigns a fabric channel's owner, and is ignored while the channel is busy (R377). -/
  | dmaOwnWrite (a : Agent) (k : Fin 32) (v : BitVec 32)
  /-- A write of DMA_PRINT_RING configures a ring, changing only en while the ring is enabled (R377). -/
  | printRingWrite (a : Agent) (p : PartId) (h : Half) (v : W64)
  /-- The consumer advances tail in DMA_PRINT_PTR and frees ring slots for held Prints (R367). -/
  | printRingTailWrite (a : Agent) (p : PartId) (h : Half) (v : W64)
  /-- Once the comparison and a free slot allow, the Print's header is filled, its payload and header are written, head advances and print_so is signalled (R367). -/
  | printCommit (dt : Nat) (n : CoreId)
  /-- The zone counts and the protective Print's mask have been compared, and the Print's agreement is known (R439). -/
  | checkerCompareEnd (dt : Nat) (n : CoreId)
  /-- A stage mark reaches the safety monitor and may complete its stage, or is counted as stray (R433). -/
  | stageMarkArrive (dt : Nat) (j : Nat)
  /-- The elapsed time of an incomplete judged stage reaches max_us and a late fault is detected (R434). -/
  | stageLate (dt : Nat) (j : Nat) (st : Fin 16)
  /-- The proof output comparison ends; a wrong header or failing output is detected, or a pass may enter running (R437). -/
  | proofCompareEnd (dt : Nat)
  /-- A proof comparison not ended within cmp_max_us is detected at that tick (R437). -/
  | proofCompareTimeout (dt : Nat)
  /-- No protective Print is compared by close + prot_max_us and fault 0x31 is detected (R440). -/
  | protPrintMissing (dt : Nat) (j : Nat)
  /-- kick_ms passes without a kick and fault 0x03 is detected (R441). -/
  | keepaliveExpiry (dt : Nat)
  /-- The monitor's two lockstep channels disagree and fault 0x50 is detected (R441). -/
  | lockstepMismatch (dt : Nat)
  /-- At the end of a 10 µs window, TCLK found more than 1 % off its REFCLK-derived rate is detected as fault 0x52 (R441). -/
  | clockMonitorWindow (dt : Nat) (off : Bool)
  /-- The safety owner writes restart with key 0xA55A; the monitor enters restarting or refuses (R449). -/
  | safeRestart (a : Agent) (v : BitVec 32)
  /-- Writing force detects cause 0x02 (R441). -/
  | safeForce (a : Agent) (v : BitVec 32)
  /-- Writing kick restarts the keep-alive interval (R441). -/
  | safeKick (a : Agent) (v : BitVec 32)
  /-- At least every 1 ms the status frame is updated and seq increments (R446). -/
  | frameUpdateTimer (dt : Nat)
  /-- A fall of SAFE_CS_N latches the current status frame for shifting out (R446). -/
  | safeCsFall (dt : Nat)
  /-- In the running state SAFEB changes level every 500 µs (R444). -/
  | safebToggle (dt : Nat)
  /-- Writing start in SAFE_STEST marks a core pending for self-test (R450). -/
  | selfTestRequest (a : Agent) (v : BitVec 32)
  /-- A core taken out, with no counted work outstanding and its contexts swapped out, begins its self-test (R450). -/
  | selfTestStart (dt : Nat) (n : CoreId)
  /-- The self-test ends; the core is held on a pass, or fails with cause 0x43 (R451). -/
  | selfTestEnd (dt : Nat) (n : CoreId) (pass : Bool)
  /-- Writing release lets a held core rejoin at the next boundary (R451). -/
  | selfTestRelease (a : Agent) (v : BitVec 32)
  /-- A host request at BAR2 is translated through the partition map and performed or refused (R412). -/
  | pcieInboundRequest (f : Fin 8) (t : PcieTarget) (n : Nat) (bs : List Byte) (host : BitVec 256)
  /-- Writing reset in HOST_PART_CTRL starts a partition reset of P1 to P3 (R416). -/
  | partitionResetWrite (a : Agent) (p : PartId) (v : BitVec 32)
  /-- A Function Level Reset, hot reset or link-down of a bound function starts its partition's reset (R416). -/
  | pcieResetEvent (dt : Nat) (e : PcieReset)
  /-- The partition reset finishes within 100 µs and stopped clears (R416). -/
  | partitionResetEnd (dt : Nat) (p : PartId)
  /-- A write of a partition map entry takes effect for later checks, or is ignored with map_err (R413). -/
  | hostMapWrite (a : Agent) (p : PartId) (k : BitVec 12) (h : Half) (v : W64)
  /-- A write binding a function to a partition, ignored with bind_err if the partition is already bound (R410). -/
  | fnBindWrite (a : Agent) (f : Fin 8) (v : BitVec 32)
  /-- A write of a partition's time share, ignored with share_err if the shares would exceed 64 (R415). -/
  | partShareWrite (a : Agent) (p : PartId) (v : BitVec 32)
  /-- Each 1 ms period ends and the partitions' core time shares renew (R415). -/
  | sharePeriod (dt : Nat)
  /-- A host unmasks a vector whose PBA bit is set and the message is sent (R418). -/
  | msixUnmask (f : Fin 8) (v : Fin 64)
  /-- Writing begin opens a configuration transaction, or sets status 6 (R419). -/
  | cfgBegin (a : Agent) (v : BitVec 32)
  /-- A write to RWT fields while a transaction is open is staged, or marks the transaction overflowed or not permitted (R420). -/
  | cfgStageWrite (a : Agent) (off : BitVec 26) (wide : Bool) (v : W64)
  /-- Writing commit closes staging and starts validation with status 1 (R421). -/
  | cfgCommit (a : Agent) (v : BitVec 32)
  /-- Writing rollback discards the open transaction with status 4 (R424). -/
  | cfgRollback (a : Agent) (v : BitVec 32)
  /-- Validation ends; the commit fails with a status, or passes, takes a seq and is applied or made pending (R421). -/
  | cfgValidateEnd (dt : Nat) (p : PartId)
  /-- MCTP control command that assigns the endpoint ID (R428). -/
  | setEndpointId
  /-- MCTP control command that returns the endpoint ID (R428). -/
  | getEndpointId
  /-- MCTP control command that returns the UUID derived from the identity key (R428). -/
  | getEndpointUuid
  /-- MCTP control command that returns the supported versions (R428). -/
  | getMctpVersionSupport
  /-- MCTP control command that returns the supported message types (R428). -/
  | getMessageTypeSupport
  /-- MCTP control command that returns the vendor-defined message support (R428). -/
  | getVendorDefinedMsgSupport
  /-- Any other MCTP control command completes with ERROR_UNSUPPORTED_CMD (R428). -/
  | unsupportedControlCommand
  /-- Olwirin command that returns device status (R429). -/
  | getStatus
  /-- Olwirin command that forms and signs an attestation report, or returns a fragment of it (R475). -/
  | getAttest (dt : Nat)
  /-- Olwirin command that returns one ECC_LOG entry (R429). -/
  | getLog
  /-- Olwirin command that returns a fragment of the identity public key (R429). -/
  | getIdentity
  /-- Olwirin command that places image data in the push buffer; with no data it ends the push, and the ROM verifies and starts the image (R466). -/
  | pushImage (dt : Nat) (trains : BitVec 16)
  /-- A DRAM word read is decoded: clean, single-bit corrected, poisoned, or uncorrectable (R383). -/
  | dramRead (a : Agent) (addr : BitVec 48) (n : Nat) (upset : BitVec 272) (recurs : Bool)
  /-- A DRAM write is applied with its check field and parity update (R387). -/
  | dramWrite (a : Agent) (addr : BitVec 48) (bs : List Byte) (upset : BitVec 272)
  /-- An uncorrectable DRAM word is recovered through the page code, or returned and written back poisoned (R388). -/
  | dramRecovery (crcA crcB recurs : Bool)
  /-- A DRAM or vault merge-buffer entry held partial for 64 FCLK is written back by read-modify-write (R394). -/
  | mergeBufferWriteback (dt : Nat) (b : Fin 48)
  /-- A write of MEM_CFG sets the DRAM configuration, or is ignored with cfg_err (R379). -/
  | memCfgWrite (a : Agent) (v : BitVec 32) (trains : BitVec 16)
  /-- Writing start in MEM_ZERO requests that a range of blocks be cleared (R392). -/
  | memZeroStart (a : Agent) (h : Half) (v : W64)
  /-- Once accepted accesses complete, the blocks' valid bits clear and busy clears (R392). -/
  | memZeroDone (dt : Nat)
  /-- A write of a remap entry copies the location into or out of its spare (R404). -/
  | remapWrite (a : Agent) (dram : Bool) (g : Fin 613) (k : Fin 32) (h : Half) (v : W64)
  /-- Patrol scrub visits a block or line, checks its codes and writes back corrections (R399). -/
  | scrubVisit (dt : Nat) (p : ScrubPlace) (upset : Upset) (recurs : Bool)
  /-- Every leak_ms each non-zero error bucket loses 1 (R401). -/
  | bucketLeak (dt : Nat)
  /-- Every zq_ms a ZQ latch becomes pending on each channel (R406). -/
  | zqLatchDue (dt : Nat)
  /-- Every retrain_ms an oscillator readout becomes pending on each channel (R406). -/
  | retrainDue (dt : Nat)
  /-- A pending pause starts on one channel inside a maintenance slot, or while exposures are idle, and holds its requests (R53). -/
  | maintPauseStart (dt : Nat) (c : Fin 16)
  /-- A maintenance pause ends within 1.5 µs and held requests proceed (R53). -/
  | maintPauseEnd (dt : Nat) (c : Fin 16)
  /-- Safelight supply and REFCLK become valid; every register resets, including retained ones, and fuses load (R455). -/
  | powerOnReset
  /-- RST_N held low causes a cold reset, and SAFEA_N goes low (R455). -/
  | rstNFall (dt : Nat)
  /-- RST_N rises, BOOTSEL is sampled and the cold reset ends (R493). -/
  | rstNRise (sel : Fin 4)
  /-- Writing sw_reset with key 0xC33C causes a cold reset (R455). -/
  | softwareReset (a : Agent) (h : Half) (v : W64)
  /-- The boot ROM runs: it counts the start, derives the identity key, then selects, verifies and starts an image or enters minimal mode (R464). -/
  | bootRomEntry (dt : Nat) (imgA imgB rec : Option (List Byte)) (trains : BitVec 16)
  /-- done is not written within 10 s of ROM entry and a cold reset follows with reset_cause 2 (R468). -/
  | startWatchdogExpiry (dt : Nat)
  /-- Writing done after boot lock clears start_count and disarms the start watchdog (R468). -/
  | bootDone (a : Agent) (h : Half) (v : W64)
  /-- Writing lock freezes RWL fields, OTP and the measurement list until cold reset (R472). -/
  | bootLock (a : Agent) (v : BitVec 32)
  /-- Writing advance blows anti-rollback bits up to the target, or sets otp_err (R471). -/
  | rollbackAdvance (a : Agent) (h : Half) (v : W64)
  /-- Writing revoke blows a key slot's revoked bit, or sets otp_err (R472). -/
  | keyRevoke (a : Agent) (k : Fin 4) (v : BitVec 32)
  /-- Writing extend adds or extends a measurement entry before boot lock, or sets otp_err (R474). -/
  | measureExtend (a : Agent) (h : Half) (v : W64)
  /-- A write of PWR_CORE_GATE powers cores down or up, or is ignored with gate_err (R456). -/
  | coreGateWrite (a : Agent) (h : Half) (v : W64)
  /-- Within 20 µs of ungating, a core's ready bit rises (R456). -/
  | coreReady (dt : Nat) (n : CoreId)
  /-- Writing sleep starts device-sleep entry, or sets sleep_err (R457). -/
  | sleepRequest (a : Agent) (h : Half) (v : W64)
  /-- Sleep entry finishes, every domain except Safelight is off and PWREN_MAIN falls (R457). -/
  | sleepEntryComplete (dt : Nat)
  /-- An enabled wake event (WAKE_N, alarm or PERST0_N) starts a wake, deferred if sleep entry or the 2 ms low time is still running (R458). -/
  | wakeEvent (dt : Nat) (e : Fin 3)
  /-- PLLs lock, DRAM leaves self-refresh, bitmap and remaps are restored, and the ROM resumes or starts in full (R458). -/
  | wakeComplete (dt : Nat)
  /-- Every 100 µs average power is compared with the limit and the issue cap is adjusted (R459). -/
  | governorEvaluate (dt : Nat) (mw : BitVec 32)
  /-- Every 100 µs the junction sensors are sampled and throttle, trip and shutdown thresholds are applied (R460). -/
  | tjSample (dt : Nat) (tj : BitVec 16)
  /-- A core's supply falls 40 mV below target and that core starts suppressing every second CCLK edge (R462). -/
  | droopTrip (dt : Nat) (n : CoreId)
  /-- The droop detector releases and the core's clock stretch ends (R462). -/
  | droopRelease (dt : Nat) (n : CoreId)
  /-- A detector tripped for 10 µs steps CCLK to 675 MHz, or from 675 to 450 MHz, detecting cause 0x41 (R463). -/
  | droopStep (dt : Nat)
  /-- After 100 µs without a trip, CCLK returns to 900 MHz (R463). -/
  | droopRecover (dt : Nat)
  /-- The rebuild copies one row, with its acc and state, into the target bank and advances its copy cursor, demoting or dropping the row when pools are full (R257). -/
  | rebuildRowCopy (dt : Nat)
  /-- A read of the lower half of a 64-bit register, or of word 0 of a wider one, latches the upper part for its requester, and a later upper read consumes that latch (R15). -/
  | registerRead (a : Agent) (off bytes : Nat)
  /-- The issue of a word with a reserved opcode, an unlisted fn, a non-zero reserved field or a wrong w bit raises exception 0x01 precisely (R317). -/
  | illegalInstruction (n : CoreId) (w : W64)
  /-- A PCIe port completes link training, link_up of its bound partitions rises, and host-window access and MSI-X delivery become possible again (R413). -/
  | pcieLinkUp (dt : Nat) (port : Fin 2)
  /-- An MCTP packet arrives on a PCIe VDM or SMBus binding and is reassembled into its message, or the message is discarded when packets arrive out of sequence (R427). -/
  | mctpPacketReceive (b : MctpBinding) (bs : List Byte)
  /-- Supplies leave their ranges or are removed; pad isolation holds SAFEA_N and SAFEB low while VDDIO_SL is valid, and both pins lose drive when it is lost (R494). -/
  | powerDown (vddio : Bool)
  deriving DecidableEq, Repr

end Sys2Proof
end

