-- ==== Sys2Proof/Config.lean ====
section
/-! DEFINITION. Config.lean: what one part fixes and what the manual leaves open, as constants without a body, so that
no proof can see a value. -/
namespace Sys2Proof

/-- The value of a result the manual calls undefined, or states no result for, by the number of free values drawn before it
(assumption 2, DESIGN CHOICE). -/
opaque Config.freeBits (w : Nat) : Nat → BitVec w

/-- The byte at an address of memory whose contents the manual calls undefined (R266, R267), by the number of the event that
made them undefined (assumption 2, DESIGN CHOICE). -/
opaque Config.freeByte (event addr : Nat) : BitVec 8

/-- The check field of the (272,256) word code over 32 data bytes; the manual gives its strength (R384), not the code. -/
opaque Config.wordCheck : BitVec 256 → BitVec 16

/-- The 16-bit syndrome of an error pattern; R383 fixes only that no error gives 0x0000 and poison 0xFFFF. -/
opaque Config.wordSyndrome : BitVec 272 → BitVec 16

/-- What the word decoder makes of an error pattern that R384 does not decide. -/
opaque Config.wordBeyond (p : BitVec 272) : Decoded

/-- Whether min (true) or max (false) of two zeros of unlike sign is -0; R333 does not say. -/
opaque Config.zeroPick (small : Bool) : Bool

/-- The binary32 value that the sine unit offers; it stands where it lies within R98's error of 2^-22. -/
opaque Config.sin32 : BitVec 32 → BitVec 32

/-- The binary32 value that the cosine unit offers; it stands where it lies within R98's error of 2^-22. -/
opaque Config.cos32 : BitVec 32 → BitVec 32

/-- What the front end makes of a binary32 or binary64 pattern that names no number where it needs an integer; no rule states it. -/
opaque Config.noNumber : Nat → Int

/-- A front-end integer of `w` bits whose value does not fit; no rule states it. -/
opaque Config.noFit (w : Nat) : Int → Int

/-- A binary64 value that no rule states: the body rate before the first IMU record (0 to 2), a reserved gyro source (3), the
elevation to which a step adds where none is stored (4). -/
opaque Config.noRule : Nat → BitVec 64

/-- The ML-DSA-87 public key of FIPS 204 from the seed of R473 (2,592 bytes, the first lowest). -/
opaque Config.mldsaKey (xi : BitVec 256) : BitVec 20736

/-- An ML-DSA-87 signature of FIPS 204 under the key of a seed, over bytes, with a context string (4,627 bytes). FIPS 204 leaves its
randomness open: the last argument numbers the signature. -/
opaque Config.mldsaSign (xi : BitVec 256) (ctx msg : List (BitVec 8)) (n : Nat) : BitVec 37016

/-- Whether an ML-DSA-87 signature verifies under a public key (FIPS 204). -/
opaque Config.mldsaVerify (key ctx msg sig : List (BitVec 8)) : Bool

/-- The MCTP versions that the endpoint reports for a message type, and the version of its vendor-defined command set; R428 gives
neither. -/
opaque Config.mctpVersions (type : Nat) : List (BitVec 32)

/-- The version of the vendor-defined command set; R428 does not give it. -/
opaque Config.mctpVendorVersion : BitVec 16

end Sys2Proof
end

