-- ==== Sys2Proof/Machine/Regs.lean ====
section
/-! DEFINITION. Machine/Regs.lean: every register of Table 19-3, field by field, as the register tables of the
chapters give them: offset, layout, access code (Table 0-5), reset value, clock domain, reset class (Table 19-4), and
who may write and read it. -/
namespace Sys2Proof.Machine

/-- Access codes of Table 0-5 (R12). -/
inductive Acc where
  | ro | rw | w1c | wo | rwt | rwl
  deriving DecidableEq, Repr

/-- The reset value of a field: one value, a value for instance 0 and another for the rest, or the instance number
scaled (Tables 5-10 and 6-10). -/
inductive Rst where
  | const (v : Nat)
  | first (v w : Nat)
  | linear (a : Nat)
  deriving DecidableEq, Repr

/-- One field of a register: the offset of the register's first instance in CSR space (bytes), the strides of its
instance indices (bytes), the field's lowest bit in the register, its width, its access code and reset value. -/
structure Fld where
  base    : Nat
  strides : List Nat
  lo      : Nat
  width   : Nat
  acc     : Acc
  rst     : Rst
  deriving DecidableEq, Repr

/-- Who may write a register (R67, R119, R144, R172, R206, R226, R260, R281, R290, R294, R296, R377, R407, R430,
R453, R476); `any` where the manual names no writer. -/
inductive Writer where
  | any | none | p0 | safetyOwner | p0OrSafetyOwner | posePart | channelOwner | p0OrPart | ctxOwner | soRule
  deriving DecidableEq, Repr

/-- Who may read a register (R290, R296, R377, R407, R430); to others it reads zero. -/
inductive Reader where
  | all | ctxOwnerOrP0 | ownPart | p0OrSafetyOwner | p0OrPart | soRule
  deriving DecidableEq, Repr

/-- Reset classes of Table 19-4 (R484). -/
inductive RstClass where
  | retained | safelight | device | remap | core
  deriving DecidableEq, Repr

/-- The registers of Table 19-3, by name. -/
inductive RegName where
  | DEV_ID | FE_EXP_CTRL | FE_EXP_PERIOD | FE_EXP_PHASE | FE_EXP_DEADLINE | FE_EXP_CORE_MASK | FE_EXP_ACTIVE 
  | FE_EXP_NUMBER | FE_EXP_STATUS | CORE_SCHED | PTP_TIME_NS | PTP_TIME_SEC | PTP_INCR | PTP_STEP 
  | PTP_STEP_CTRL | PTP_PULSE_CTRL | PTP_PULSE_START | PTP_PULSE_SHAPE | PTP_CAPT_CTRL | PTP_CAPT_FIFO 
  | ETH_CTRL | ETH_TS_LAT | ETH_STATUS | ETH_STEER | ETH_TXQ_BASE | ETH_RXQ_BASE | ETH_TXQ_PTR | ETH_RXQ_PTR 
  | ETH_MDIO | FE_IMU_CTRL | FE_IMU_RING | FE_IMU_STATUS | FE_IMU_XFER | FE_ACQ_CTRL | FE_PBUF_BASE 
  | FE_PBUF_STATUS | FE_POSE_CTRL | FE_POSE_HEAD | FE_ACQ_STATUS | FE_DROP_CNT | FE_IMU_GYRO | FE_SENS_CFG 
  | FE_SENS_RANGE | FE_SENS_EXT | FE_DEC_PROG | FE_DEC_STEP | FE_RING | FE_ZONE_CFG | FE_ZONE_VTX 
  | FE_ZONE_COUNT | VOX_GEOM | VOX_LEVEL | VOX_ORIGIN | VOX_SEED | VOX_SALT | VOX_CNT | VOX_STATUS | ARR_CTRL 
  | ARR_STATUS | ARR_PERF | ACC_SLOT | ACC_STATUS | DVL_CTRL | DVL_STATUS | DVL_STRIP_CNT | DVL_STRIP_MISS 
  | DVL_PERF | SEL_CTRL | SEL_STATUS | SEL_PERF | SRT_CTRL | SRT_STATUS | SRT_PERF | TBL_CTRL | TBL_VAULT 
  | TBL_STATUS | TBL_PF_BASE | TBL_REBUILD | TBL_PERF | TBL_TAB_CTL | TBL_TAB_OPT | TBL_TAB_STATUS 
  | TBL_TAB_STEPS | TBL_TAB_CFG | TBL_TAB_HASH | TBL_TAB_BASE | TBL_TAB_POOL | SPM_CTRL | SPM_STATUS 
  | SPM_CHUNK_OWN | SPM_WIN | SPM_ARRIVAL | SPM_PERF | SO_VALUE | SO_CTRL | SO_ATTR | SO_ARM | SO_CTX_CFG 
  | SO_CTX_BIND | SO_CTX_STATE | SO_CTX_EXC | SO_CTX_INFO | CORE_STATUS | CORE_CTR_GRP | CDMA_CTRL | CDMA_SRC 
  | CDMA_DST | CDMA_CNT | DMA_SRC | DMA_DST | DMA_CNT | CDMA_STATUS | DMA_STATUS | DMA_OWN | DMA_PRINT_RING 
  | DMA_CTRL | DMA_PRINT_PTR | DMA_PRINT_SO | MEM_CFG | MEM_CLASS | MEM_MAINT | MEM_STATUS | MEM_ZERO 
  | ECC_CTRL | ECC_STATUS | ECC_BUCKET | ECC_LOG_PTR | ECC_LOG | ECC_DIAG | ECC_DIAG_CHK | ECC_REMAP_DRAM 
  | ECC_REMAP_SRAM | CFG_TXN | CFG_TXN_STATUS | CFG_STATUS | HOST_PCIE_CFG | HOST_PCI_ID | HOST_FN_BIND 
  | HOST_SAFETY | HOST_MCTP | HOST_PART_CTRL | HOST_HWIN | HOST_PART_STATUS | HOST_MAP | SAFE_CTRL 
  | SAFE_STATUS | SAFE_TDET | SAFE_FAULT_EN | SAFE_PF_CFG | SAFE_CHK | SAFE_STEST | SAFE_STEST_STATUS 
  | SAFE_STEST_RESULT | SAFE_PF_RESULT | SAFE_COUNT | SAFE_FRAME | SAFE_WDG | SAFE_ZCHK | SAFE_PF_TAB 
  | PWR_LIMIT | PWR_STATUS | PWR_DROOP | PWR_THERM | PWR_CORE_GATE | PWR_SLEEP | PWR_ALARM | BOOT_STATUS 
  | BOOT_CTRL | BOOT_RESUME | BOOT_RETAIN | SEC_LOCK | SEC_KEY | SEC_ROLLBACK | SEC_MEASURE | SEC_MEASURE_DATA 
  deriving DecidableEq, Repr

/-- One row of the register index: a register, its first offset, the (count, stride) of each instance index from
the outermost, its width in bytes, whether it is banked per partition (R419), its fields, and its access classes. -/
structure RegRow where
  name   : RegName
  base   : Nat
  dims   : List (Nat × Nat)
  bytes  : Nat
  banked : Bool
  fields : List Fld
  cls    : RstClass
  wr     : Writer
  rd     : Reader
  deriving DecidableEq, Repr

namespace Reg

def DEV_ID.part_number : Fld := ⟨0x0, [], 16, 16, .ro, .const 0xe32⟩
def DEV_ID.grade : Fld := ⟨0x0, [], 8, 4, .ro, .const 1⟩
def DEV_ID.stepping_major : Fld := ⟨0x0, [], 4, 4, .ro, .const 1⟩
def DEV_ID.stepping_minor : Fld := ⟨0x0, [], 0, 4, .ro, .const 0⟩

def FE_EXP_CTRL.close_so : Fld := ⟨0x700000, [], 16, 14, .rwt, .const 0⟩
def FE_EXP_CTRL.mnt_max_defer : Fld := ⟨0x700000, [], 8, 4, .rwt, .const 4⟩
def FE_EXP_CTRL.pbuf_count : Fld := ⟨0x700000, [], 4, 2, .rwt, .const 2⟩
def FE_EXP_CTRL.enable : Fld := ⟨0x700000, [], 0, 1, .rwt, .const 0⟩

def FE_EXP_PERIOD.slice_ns : Fld := ⟨0x700004, [], 0, 22, .rwt, .const 0x17d784⟩

def FE_EXP_PHASE.phase_ns : Fld := ⟨0x700008, [], 0, 28, .rwt, .const 0⟩

def FE_EXP_DEADLINE.deadline_us : Fld := ⟨0x70000C, [], 0, 18, .rwt, .const 0x186a0⟩

def FE_EXP_CORE_MASK.core_en : Fld := ⟨0x700010, [], 0, 32, .rwt, .const 0xffffffff⟩

def FE_EXP_ACTIVE.active : Fld := ⟨0x700014, [], 0, 32, .ro, .const 0⟩

def FE_EXP_NUMBER.open_number : Fld := ⟨0x700018, [], 0, 64, .ro, .const 0⟩

def FE_EXP_STATUS.lag_ns : Fld := ⟨0x700020, [], 32, 32, .ro, .const 0⟩
def FE_EXP_STATUS.late_count : Fld := ⟨0x700020, [], 16, 16, .ro, .const 0⟩
def FE_EXP_STATUS.overrun_count : Fld := ⟨0x700020, [], 8, 8, .ro, .const 0⟩
def FE_EXP_STATUS.mnt_forced_count : Fld := ⟨0x700020, [], 4, 4, .ro, .const 0⟩
def FE_EXP_STATUS.time_step : Fld := ⟨0x700020, [], 3, 1, .w1c, .const 0⟩
def FE_EXP_STATUS.lagging : Fld := ⟨0x700020, [], 2, 1, .ro, .const 0⟩
def FE_EXP_STATUS.open : Fld := ⟨0x700020, [], 0, 1, .ro, .const 0⟩

def CORE_SCHED.quantum_us : Fld := ⟨0x1000080, [0x100000], 0, 16, .rw, .const 0x3e8⟩

def PTP_TIME_NS.ns : Fld := ⟨0x500000, [], 32, 30, .ro, .const 0⟩
def PTP_TIME_NS.frac : Fld := ⟨0x500000, [], 0, 16, .ro, .const 0⟩

def PTP_TIME_SEC.sec : Fld := ⟨0x500008, [], 0, 48, .ro, .const 0⟩

def PTP_INCR.incr_clamped : Fld := ⟨0x500010, [], 63, 1, .w1c, .const 0⟩
def PTP_INCR.incr_ns : Fld := ⟨0x500010, [], 32, 8, .rw, .const 4⟩
def PTP_INCR.incr_frac : Fld := ⟨0x500010, [], 0, 32, .rw, .const 0⟩

def PTP_STEP.step_ns : Fld := ⟨0x500018, [], 0, 64, .wo, .const 0⟩

def PTP_STEP_CTRL.step_gen : Fld := ⟨0x500020, [], 56, 8, .ro, .const 0⟩
def PTP_STEP_CTRL.refused_count : Fld := ⟨0x500020, [], 48, 8, .ro, .const 0⟩
def PTP_STEP_CTRL.pending : Fld := ⟨0x500020, [], 47, 1, .ro, .const 0⟩
def PTP_STEP_CTRL.refused : Fld := ⟨0x500020, [], 46, 1, .w1c, .const 0⟩
def PTP_STEP_CTRL.confirm : Fld := ⟨0x500020, [], 45, 1, .wo, .const 0⟩
def PTP_STEP_CTRL.discard : Fld := ⟨0x500020, [], 44, 1, .wo, .const 0⟩
def PTP_STEP_CTRL.threshold_ns : Fld := ⟨0x500020, [], 0, 30, .rw, .const 0xc350⟩

def PTP_PULSE_CTRL.missed_count : Fld := ⟨0x500100, [0x20], 16, 16, .ro, .const 0⟩
def PTP_PULSE_CTRL.cfg_err : Fld := ⟨0x500100, [0x20], 3, 1, .w1c, .const 0⟩
def PTP_PULSE_CTRL.active_low : Fld := ⟨0x500100, [0x20], 2, 1, .rw, .const 0⟩
def PTP_PULSE_CTRL.periodic : Fld := ⟨0x500100, [0x20], 1, 1, .rw, .const 0⟩
def PTP_PULSE_CTRL.arm : Fld := ⟨0x500100, [0x20], 0, 1, .rw, .const 0⟩

def PTP_PULSE_START.start_sec : Fld := ⟨0x500108, [0x20], 30, 34, .rw, .const 0⟩
def PTP_PULSE_START.start_ns : Fld := ⟨0x500108, [0x20], 0, 30, .rw, .const 0⟩

def PTP_PULSE_SHAPE.period_ns : Fld := ⟨0x500110, [0x20], 32, 32, .rw, .const 0⟩
def PTP_PULSE_SHAPE.width_ns : Fld := ⟨0x500110, [0x20], 0, 32, .rw, .const 0⟩

def PTP_CAPT_CTRL.capt1_ovf : Fld := ⟨0x500200, [], 24, 8, .ro, .const 0⟩
def PTP_CAPT_CTRL.capt0_ovf : Fld := ⟨0x500200, [], 16, 8, .ro, .const 0⟩
def PTP_CAPT_CTRL.edge_sel1 : Fld := ⟨0x500200, [], 1, 1, .rw, .const 0⟩
def PTP_CAPT_CTRL.edge_sel0 : Fld := ⟨0x500200, [], 0, 1, .rw, .const 0⟩

def PTP_CAPT_FIFO.sec : Fld := ⟨0x500208, [0x8], 30, 34, .ro, .const 0x3ffffffff⟩
def PTP_CAPT_FIFO.ns : Fld := ⟨0x500208, [0x8], 0, 30, .ro, .const 0x3fffffff⟩

def ETH_CTRL.mode : Fld := ⟨0x600000, [0x10000], 8, 3, .rwt, .const 0⟩
def ETH_CTRL.an_en : Fld := ⟨0x600000, [0x10000], 4, 1, .rwt, .const 0⟩
def ETH_CTRL.mgmt_en : Fld := ⟨0x600000, [0x10000], 3, 1, .rw, .const 0⟩
def ETH_CTRL.rx_inv : Fld := ⟨0x600000, [0x10000], 1, 1, .rwt, .const 0⟩
def ETH_CTRL.tx_inv : Fld := ⟨0x600000, [0x10000], 0, 1, .rwt, .const 0⟩

def ETH_TS_LAT.tx_lat : Fld := ⟨0x600008, [0x10000], 32, 32, .rw, .const 0⟩
def ETH_TS_LAT.rx_lat : Fld := ⟨0x600008, [0x10000], 0, 32, .rw, .const 0⟩

def ETH_STATUS.rx_fcs_err : Fld := ⟨0x600010, [0x10000], 48, 16, .ro, .const 0⟩
def ETH_STATUS.rx_unmatched : Fld := ⟨0x600010, [0x10000], 32, 16, .ro, .const 0⟩
def ETH_STATUS.rx_nobuf : Fld := ⟨0x600010, [0x10000], 16, 16, .ro, .const 0⟩
def ETH_STATUS.rx_pause : Fld := ⟨0x600010, [0x10000], 8, 8, .ro, .const 0⟩
def ETH_STATUS.rx_len_err : Fld := ⟨0x600010, [0x10000], 2, 6, .ro, .const 0⟩
def ETH_STATUS.an_done : Fld := ⟨0x600010, [0x10000], 1, 1, .ro, .const 0⟩
def ETH_STATUS.link_up : Fld := ⟨0x600010, [0x10000], 0, 1, .ro, .const 0⟩

def ETH_STEER.en : Fld := ⟨0x600020, [0x10000, 0x4], 31, 1, .rw, .const 0⟩
def ETH_STEER.program : Fld := ⟨0x600020, [0x10000, 0x4], 16, 3, .rw, .const 0⟩
def ETH_STEER.udp_port : Fld := ⟨0x600020, [0x10000, 0x4], 0, 16, .rw, .const 0⟩

def ETH_TXQ_BASE.base : Fld := ⟨0x600040, [0x10000], 5, 43, .rw, .const 0⟩
def ETH_TXQ_BASE.size_log2 : Fld := ⟨0x600040, [0x10000], 0, 4, .rw, .const 4⟩

def ETH_RXQ_BASE.base : Fld := ⟨0x600050, [0x10000], 5, 43, .rw, .const 0⟩
def ETH_RXQ_BASE.size_log2 : Fld := ⟨0x600050, [0x10000], 0, 4, .rw, .const 4⟩

def ETH_TXQ_PTR.so_en : Fld := ⟨0x600048, [0x10000], 63, 1, .rw, .const 0⟩
def ETH_TXQ_PTR.done_so : Fld := ⟨0x600048, [0x10000], 42, 14, .rw, .const 0⟩
def ETH_TXQ_PTR.head : Fld := ⟨0x600048, [0x10000], 32, 10, .ro, .const 0⟩
def ETH_TXQ_PTR.tail : Fld := ⟨0x600048, [0x10000], 0, 10, .rw, .const 0⟩

def ETH_RXQ_PTR.so_en : Fld := ⟨0x600058, [0x10000], 63, 1, .rw, .const 0⟩
def ETH_RXQ_PTR.done_so : Fld := ⟨0x600058, [0x10000], 42, 14, .rw, .const 0⟩
def ETH_RXQ_PTR.head : Fld := ⟨0x600058, [0x10000], 32, 10, .ro, .const 0⟩
def ETH_RXQ_PTR.tail : Fld := ⟨0x600058, [0x10000], 0, 10, .rw, .const 0⟩

def ETH_MDIO.busy : Fld := ⟨0x600080, [0x40000], 63, 1, .ro, .const 0⟩
def ETH_MDIO.start : Fld := ⟨0x600080, [0x40000], 62, 1, .wo, .const 0⟩
def ETH_MDIO.clause45 : Fld := ⟨0x600080, [0x40000], 61, 1, .rw, .const 0⟩
def ETH_MDIO.op : Fld := ⟨0x600080, [0x40000], 58, 2, .rw, .const 0⟩
def ETH_MDIO.prtad : Fld := ⟨0x600080, [0x40000], 48, 5, .rw, .const 0⟩
def ETH_MDIO.devad : Fld := ⟨0x600080, [0x40000], 40, 5, .rw, .const 0⟩
def ETH_MDIO.mdc_div : Fld := ⟨0x600080, [0x40000], 32, 8, .rw, .const 0x31⟩
def ETH_MDIO.data : Fld := ⟨0x600080, [0x40000], 0, 16, .rw, .const 0⟩

def FE_IMU_CTRL.cmd : Fld := ⟨0x701000, [], 32, 32, .rw, .const 0⟩
def FE_IMU_CTRL.read_len : Fld := ⟨0x701000, [], 24, 5, .rw, .const 0⟩
def FE_IMU_CTRL.cmd_len : Fld := ⟨0x701000, [], 20, 3, .rw, .const 0⟩
def FE_IMU_CTRL.pulse_sel : Fld := ⟨0x701000, [], 16, 2, .rw, .const 0⟩
def FE_IMU_CTRL.div : Fld := ⟨0x701000, [], 8, 8, .rw, .const 4⟩
def FE_IMU_CTRL.trigger : Fld := ⟨0x701000, [], 2, 2, .rw, .const 0⟩
def FE_IMU_CTRL.mode3 : Fld := ⟨0x701000, [], 1, 1, .rw, .const 0⟩
def FE_IMU_CTRL.enable : Fld := ⟨0x701000, [], 0, 1, .rw, .const 0⟩

def FE_IMU_RING.base : Fld := ⟨0x701008, [], 5, 43, .rw, .const 0⟩
def FE_IMU_RING.size_log2 : Fld := ⟨0x701008, [], 0, 4, .rw, .const 6⟩

def FE_IMU_STATUS.wr_seq : Fld := ⟨0x701010, [], 16, 16, .ro, .const 0⟩
def FE_IMU_STATUS.imu_overrun : Fld := ⟨0x701010, [], 8, 8, .ro, .const 0⟩
def FE_IMU_STATUS.busy : Fld := ⟨0x701010, [], 0, 1, .ro, .const 0⟩

def FE_IMU_XFER.busy : Fld := ⟨0x701018, [], 63, 1, .ro, .const 0⟩
def FE_IMU_XFER.start : Fld := ⟨0x701018, [], 62, 1, .wo, .const 0⟩
def FE_IMU_XFER.hold_cs : Fld := ⟨0x701018, [], 61, 1, .rw, .const 0⟩
def FE_IMU_XFER.len : Fld := ⟨0x701018, [], 56, 4, .rw, .const 0⟩
def FE_IMU_XFER.data : Fld := ⟨0x701018, [], 0, 32, .rw, .const 0⟩

def FE_ACQ_CTRL.seal_us : Fld := ⟨0x700028, [], 16, 10, .rwt, .const 0xc8⟩
def FE_ACQ_CTRL.frame_sel : Fld := ⟨0x700028, [], 0, 1, .rwt, .const 1⟩

def FE_PBUF_BASE.base : Fld := ⟨0x700040, [0x8], 21, 27, .rwt, .const 0⟩

def FE_PBUF_STATUS.closed_number : Fld := ⟨0x700060, [], 8, 56, .ro, .const 0⟩
def FE_PBUF_STATUS.held : Fld := ⟨0x700060, [], 4, 4, .ro, .const 0⟩
def FE_PBUF_STATUS.closed_buf : Fld := ⟨0x700060, [], 0, 2, .ro, .const 0⟩

def FE_POSE_CTRL.max_extrap_us : Fld := ⟨0x700080, [], 48, 16, .rwt, .const 0x4e20⟩
def FE_POSE_CTRL.base : Fld := ⟨0x700080, [], 12, 36, .rwt, .const 0⟩
def FE_POSE_CTRL.pose_part : Fld := ⟨0x700080, [], 8, 2, .rwt, .const 0⟩
def FE_POSE_CTRL.use_imu : Fld := ⟨0x700080, [], 1, 1, .rwt, .const 0⟩
def FE_POSE_CTRL.en : Fld := ⟨0x700080, [], 0, 1, .rwt, .const 0⟩

def FE_POSE_HEAD.head : Fld := ⟨0x700088, [], 0, 32, .rw, .const 0⟩

def FE_ACQ_STATUS.extrap_slices : Fld := ⟨0x700090, [], 48, 16, .ro, .const 0⟩
def FE_ACQ_STATUS.stale_slices : Fld := ⟨0x700090, [], 32, 16, .ro, .const 0⟩
def FE_ACQ_STATUS.pose_bad : Fld := ⟨0x700090, [], 16, 16, .ro, .const 0⟩
def FE_ACQ_STATUS.cal_refused_count : Fld := ⟨0x700090, [], 8, 8, .ro, .const 0⟩
def FE_ACQ_STATUS.cal_refused_sensor : Fld := ⟨0x700090, [], 4, 4, .ro, .const 0⟩
def FE_ACQ_STATUS.cal_refused : Fld := ⟨0x700090, [], 0, 1, .w1c, .const 0⟩

def FE_DROP_CNT.count : Fld := ⟨0x700100, [0x4], 0, 32, .ro, .const 0⟩

def FE_IMU_GYRO.scale : Fld := ⟨0x701020, [], 32, 32, .rw, .const 0⟩
def FE_IMU_GYRO.big_endian : Fld := ⟨0x701020, [], 31, 1, .rw, .const 0⟩
def FE_IMU_GYRO.neg_z : Fld := ⟨0x701020, [], 30, 1, .rw, .const 0⟩
def FE_IMU_GYRO.src_z : Fld := ⟨0x701020, [], 28, 2, .rw, .const 0⟩
def FE_IMU_GYRO.neg_y : Fld := ⟨0x701020, [], 27, 1, .rw, .const 0⟩
def FE_IMU_GYRO.src_y : Fld := ⟨0x701020, [], 25, 2, .rw, .const 0⟩
def FE_IMU_GYRO.neg_x : Fld := ⟨0x701020, [], 24, 1, .rw, .const 0⟩
def FE_IMU_GYRO.src_x : Fld := ⟨0x701020, [], 22, 2, .rw, .const 0⟩
def FE_IMU_GYRO.off_z : Fld := ⟨0x701020, [], 10, 5, .rw, .const 0⟩
def FE_IMU_GYRO.off_y : Fld := ⟨0x701020, [], 5, 5, .rw, .const 0⟩
def FE_IMU_GYRO.off_x : Fld := ⟨0x701020, [], 0, 5, .rw, .const 0⟩

def FE_SENS_CFG.lat_ns : Fld := ⟨0x702000, [0x40], 32, 32, .rwt, .const 0⟩
def FE_SENS_CFG.en : Fld := ⟨0x702000, [0x40], 31, 1, .rwt, .const 0⟩
def FE_SENS_CFG.time_mode : Fld := ⟨0x702000, [0x40], 30, 1, .rwt, .const 0⟩
def FE_SENS_CFG.max_mbps : Fld := ⟨0x702000, [0x40], 16, 14, .rwt, .const 0⟩
def FE_SENS_CFG.max_kpps : Fld := ⟨0x702000, [0x40], 0, 15, .rwt, .const 0⟩

def FE_SENS_RANGE.max_range : Fld := ⟨0x702008, [0x40], 32, 32, .rwt, .const 0⟩
def FE_SENS_RANGE.min_range : Fld := ⟨0x702008, [0x40], 0, 32, .rwt, .const 0⟩

def FE_SENS_EXT.qw : Fld := ⟨0x702010, [0x40], 96, 32, .rwt, .const 0x40000000⟩
def FE_SENS_EXT.qx : Fld := ⟨0x702010, [0x40], 128, 32, .rwt, .const 0⟩
def FE_SENS_EXT.qy : Fld := ⟨0x702010, [0x40], 160, 32, .rwt, .const 0⟩
def FE_SENS_EXT.qz : Fld := ⟨0x702010, [0x40], 192, 32, .rwt, .const 0⟩
def FE_SENS_EXT.tx : Fld := ⟨0x702010, [0x40], 0, 32, .rwt, .const 0⟩
def FE_SENS_EXT.ty : Fld := ⟨0x702010, [0x40], 32, 32, .rwt, .const 0⟩
def FE_SENS_EXT.tz : Fld := ⟨0x702010, [0x40], 64, 32, .rwt, .const 0⟩

def FE_DEC_PROG.hdr_skip : Fld := ⟨0x704000, [0x100, 0x10], 112, 16, .rwt, .const 0⟩
def FE_DEC_PROG.block_stride : Fld := ⟨0x704000, [0x100, 0x10], 96, 16, .rwt, .const 0⟩
def FE_DEC_PROG.pt_offset : Fld := ⟨0x704000, [0x100, 0x10], 80, 16, .rwt, .const 0⟩
def FE_DEC_PROG.pt_stride : Fld := ⟨0x704000, [0x100, 0x10], 64, 16, .rwt, .const 0⟩
def FE_DEC_PROG.sensor : Fld := ⟨0x704000, [0x100, 0x10], 60, 4, .rwt, .const 0⟩
def FE_DEC_PROG.cartesian : Fld := ⟨0x704000, [0x100, 0x10], 59, 1, .rwt, .const 0⟩
def FE_DEC_PROG.emb_unit : Fld := ⟨0x704000, [0x100, 0x10], 58, 1, .rwt, .const 0⟩
def FE_DEC_PROG.step_count : Fld := ⟨0x704000, [0x100, 0x10], 50, 6, .rwt, .const 0⟩
def FE_DEC_PROG.pts : Fld := ⟨0x704000, [0x100, 0x10], 40, 8, .rwt, .const 0⟩
def FE_DEC_PROG.blocks : Fld := ⟨0x704000, [0x100, 0x10], 32, 8, .rwt, .const 0⟩

def FE_DEC_STEP.bias : Fld := ⟨0x708000, [0x2000, 0x400, 0x10], 96, 32, .rwt, .const 0⟩
def FE_DEC_STEP.scale : Fld := ⟨0x708000, [0x2000, 0x400, 0x10], 64, 32, .rwt, .const 0⟩
def FE_DEC_STEP.dest : Fld := ⟨0x708000, [0x2000, 0x400, 0x10], 60, 4, .rwt, .const 0⟩
def FE_DEC_STEP.scope : Fld := ⟨0x708000, [0x2000, 0x400, 0x10], 58, 2, .rwt, .const 0⟩
def FE_DEC_STEP.op : Fld := ⟨0x708000, [0x2000, 0x400, 0x10], 56, 2, .rwt, .const 0⟩
def FE_DEC_STEP.width : Fld := ⟨0x708000, [0x2000, 0x400, 0x10], 54, 2, .rwt, .const 0⟩
def FE_DEC_STEP.sign : Fld := ⟨0x708000, [0x2000, 0x400, 0x10], 53, 1, .rwt, .const 0⟩
def FE_DEC_STEP.big_endian : Fld := ⟨0x708000, [0x2000, 0x400, 0x10], 52, 1, .rwt, .const 0⟩
def FE_DEC_STEP.shift : Fld := ⟨0x708000, [0x2000, 0x400, 0x10], 47, 5, .rwt, .const 0⟩
def FE_DEC_STEP.bits : Fld := ⟨0x708000, [0x2000, 0x400, 0x10], 42, 5, .rwt, .const 0⟩
def FE_DEC_STEP.offset : Fld := ⟨0x708000, [0x2000, 0x400, 0x10], 0, 16, .rwt, .const 0⟩

def FE_RING.az_corr : Fld := ⟨0x720000, [0x800, 0x8], 32, 32, .rwt, .const 0⟩
def FE_RING.elev : Fld := ⟨0x720000, [0x800, 0x8], 0, 32, .rwt, .const 0⟩

def FE_ZONE_CFG.z_max : Fld := ⟨0x730000, [0x100], 96, 32, .rwt, .const 0⟩
def FE_ZONE_CFG.z_min : Fld := ⟨0x730000, [0x100], 64, 32, .rwt, .const 0⟩
def FE_ZONE_CFG.sensor_mask : Fld := ⟨0x730000, [0x100], 48, 16, .rwt, .const 0⟩
def FE_ZONE_CFG.nvtx_m1 : Fld := ⟨0x730000, [0x100], 32, 4, .rwt, .const 0⟩
def FE_ZONE_CFG.en : Fld := ⟨0x730000, [0x100], 0, 1, .rwt, .const 0⟩

def FE_ZONE_VTX.y : Fld := ⟨0x730010, [0x100, 0x8], 32, 32, .rwt, .const 0⟩
def FE_ZONE_VTX.x : Fld := ⟨0x730010, [0x100, 0x8], 0, 32, .rwt, .const 0⟩

def FE_ZONE_COUNT.count : Fld := ⟨0x731000, [0x4], 0, 32, .ro, .const 0⟩

def VOX_GEOM.geom_gen : Fld := ⟨0x800000, [], 24, 8, .ro, .const 0⟩
def VOX_GEOM.edge0 : Fld := ⟨0x800000, [], 0, 15, .rwt, .const 0xc8⟩

def VOX_LEVEL.en : Fld := ⟨0x800010, [0x4], 8, 1, .rwt, .first 1 0⟩
def VOX_LEVEL.sh : Fld := ⟨0x800010, [0x4], 0, 3, .rwt, .linear 1⟩

def VOX_ORIGIN.org_z : Fld := ⟨0x800020, [], 64, 32, .rwt, .const 0xf9c00000⟩
def VOX_ORIGIN.org_y : Fld := ⟨0x800020, [], 32, 32, .rwt, .const 0xf9c00000⟩
def VOX_ORIGIN.org_x : Fld := ⟨0x800020, [], 0, 32, .rwt, .const 0xf9c00000⟩

def VOX_SEED.hash_seed : Fld := ⟨0x800030, [], 0, 64, .rwt, .const 0⟩

def VOX_SALT.sample_salt : Fld := ⟨0x800038, [], 0, 64, .rwt, .const 0⟩

def VOX_CNT.fail_probe : Fld := ⟨0x800040, [0x8], 48, 16, .ro, .const 0⟩
def VOX_CNT.fail_full : Fld := ⟨0x800040, [0x8], 32, 16, .ro, .const 0⟩
def VOX_CNT.age_drop : Fld := ⟨0x800040, [0x8], 16, 16, .ro, .const 0⟩
def VOX_CNT.cell_sat : Fld := ⟨0x800040, [0x8], 0, 16, .ro, .const 0⟩

def VOX_STATUS.out_of_grid : Fld := ⟨0x800060, [], 0, 32, .ro, .const 0⟩

def ARR_CTRL.perf_clr : Fld := ⟨0x1001000, [0x100000], 31, 1, .wo, .const 0⟩
def ARR_CTRL.mv_threshold : Fld := ⟨0x1001000, [0x100000], 16, 8, .rw, .const 0x10⟩
def ARR_CTRL.ramp_step : Fld := ⟨0x1001000, [0x100000], 0, 5, .rw, .const 8⟩

def ARR_STATUS.ramp_level : Fld := ⟨0x1001008, [0x100000], 8, 4, .ro, .const 0⟩
def ARR_STATUS.ramp_dir : Fld := ⟨0x1001008, [0x100000], 4, 2, .ro, .const 0⟩
def ARR_STATUS.mv_busy : Fld := ⟨0x1001008, [0x100000], 3, 1, .ro, .const 0⟩
def ARR_STATUS.arr_busy : Fld := ⟨0x1001008, [0x100000], 2, 1, .ro, .const 0⟩
def ARR_STATUS.transpose : Fld := ⟨0x1001008, [0x100000], 1, 1, .ro, .const 0⟩

def ARR_PERF.count : Fld := ⟨0x1001010, [0x100000, 0x8], 0, 64, .ro, .const 0⟩

def ACC_SLOT.size : Fld := ⟨0x1001800, [0x100000, 0x4], 8, 5, .rw, .const 4⟩
def ACC_SLOT.base : Fld := ⟨0x1001800, [0x100000, 0x4], 0, 4, .rw, .linear 4⟩

def ACC_STATUS.int_sat : Fld := ⟨0x1001810, [0x100000], 48, 16, .ro, .const 0⟩
def ACC_STATUS.fp_inf : Fld := ⟨0x1001810, [0x100000], 32, 16, .ro, .const 0⟩
def ACC_STATUS.nan : Fld := ⟨0x1001810, [0x100000], 16, 16, .ro, .const 0⟩
def ACC_STATUS.cvt_sat : Fld := ⟨0x1001810, [0x100000], 8, 8, .ro, .const 0⟩
def ACC_STATUS.lost : Fld := ⟨0x1001810, [0x100000], 0, 4, .ro, .const 0⟩

def DVL_CTRL.perf_clr : Fld := ⟨0x1002000, [0x100000], 31, 1, .wo, .const 0⟩
def DVL_CTRL.ahead_slots : Fld := ⟨0x1002000, [0x100000], 8, 5, .rw, .const 0x10⟩
def DVL_CTRL.strip_fill : Fld := ⟨0x1002000, [0x100000], 2, 1, .rw, .const 1⟩
def DVL_CTRL.strip_audit : Fld := ⟨0x1002000, [0x100000], 1, 1, .rw, .const 0⟩

def DVL_STATUS.scatter_oob : Fld := ⟨0x1002008, [0x100000], 48, 16, .ro, .const 0⟩
def DVL_STATUS.err_kt : Fld := ⟨0x1002008, [0x100000], 32, 16, .ro, .const 0⟩
def DVL_STATUS.err_group : Fld := ⟨0x1002008, [0x100000], 16, 16, .ro, .const 0⟩
def DVL_STATUS.err_cause : Fld := ⟨0x1002008, [0x100000], 12, 4, .ro, .const 0⟩
def DVL_STATUS.busy : Fld := ⟨0x1002008, [0x100000], 1, 1, .ro, .const 0⟩
def DVL_STATUS.err : Fld := ⟨0x1002008, [0x100000], 0, 1, .w1c, .const 0⟩

def DVL_STRIP_CNT.sites_kept : Fld := ⟨0x1002010, [0x100000], 32, 32, .ro, .const 0⟩
def DVL_STRIP_CNT.sites_tested : Fld := ⟨0x1002010, [0x100000], 0, 32, .ro, .const 0⟩

def DVL_STRIP_MISS.strip_miss : Fld := ⟨0x1002018, [0x100000], 0, 32, .ro, .const 0⟩

def DVL_PERF.count : Fld := ⟨0x1002020, [0x100000, 0x8], 0, 64, .ro, .const 0⟩

def SEL_CTRL.perf_clr : Fld := ⟨0x1002800, [0x100000], 31, 1, .wo, .const 0⟩
def SEL_CTRL.merge_timeout_us : Fld := ⟨0x1002800, [0x100000], 0, 16, .rw, .const 0x64⟩

def SEL_STATUS.nan_total : Fld := ⟨0x1002808, [0x100000], 32, 32, .ro, .const 0⟩
def SEL_STATUS.tie_events : Fld := ⟨0x1002808, [0x100000], 16, 16, .ro, .const 0⟩
def SEL_STATUS.overflow_events : Fld := ⟨0x1002808, [0x100000], 8, 8, .ro, .const 0⟩
def SEL_STATUS.merge_timeouts : Fld := ⟨0x1002808, [0x100000], 0, 8, .ro, .const 0⟩

def SEL_PERF.count : Fld := ⟨0x1002810, [0x100000, 0x8], 0, 64, .ro, .const 0⟩

def SRT_CTRL.perf_clr : Fld := ⟨0x1003000, [0x100000], 31, 1, .wo, .const 0⟩

def SRT_STATUS.nan_keys : Fld := ⟨0x1003008, [0x100000], 32, 32, .ro, .const 0⟩
def SRT_STATUS.last_q : Fld := ⟨0x1003008, [0x100000], 16, 4, .ro, .const 0⟩
def SRT_STATUS.busy : Fld := ⟨0x1003008, [0x100000], 0, 1, .ro, .const 0⟩

def SRT_PERF.count : Fld := ⟨0x1003010, [0x100000, 0x8], 0, 64, .ro, .const 0⟩

def TBL_CTRL.perf_clr : Fld := ⟨0x900000, [], 31, 1, .wo, .const 0⟩
def TBL_CTRL.rebuild_share : Fld := ⟨0x900000, [], 16, 8, .rw, .const 0x40⟩
def TBL_CTRL.sweep_rate : Fld := ⟨0x900000, [], 0, 8, .rw, .const 0x10⟩

def TBL_VAULT.upd_log2 : Fld := ⟨0x900008, [], 32, 5, .rwt, .const 0xa⟩
def TBL_VAULT.rep_log2 : Fld := ⟨0x900008, [], 24, 5, .rwt, .const 0⟩
def TBL_VAULT.size : Fld := ⟨0x900008, [], 10, 11, .rwt, .const 0⟩
def TBL_VAULT.base : Fld := ⟨0x900008, [], 0, 10, .rwt, .const 0⟩

def TBL_STATUS.upd_overflow : Fld := ⟨0x900010, [], 48, 16, .ro, .const 0⟩
def TBL_STATUS.mig_deferred : Fld := ⟨0x900010, [], 40, 8, .ro, .const 0⟩
def TBL_STATUS.rep_fail : Fld := ⟨0x900010, [], 32, 8, .ro, .const 0⟩
def TBL_STATUS.rb_lost : Fld := ⟨0x900010, [], 24, 8, .ro, .const 0⟩
def TBL_STATUS.upd_dropped : Fld := ⟨0x900010, [], 16, 8, .ro, .const 0⟩
def TBL_STATUS.rb_table : Fld := ⟨0x900010, [], 12, 4, .ro, .const 0⟩
def TBL_STATUS.rb_err : Fld := ⟨0x900010, [], 7, 1, .w1c, .const 0⟩
def TBL_STATUS.rb_busy : Fld := ⟨0x900010, [], 6, 1, .ro, .const 0⟩
def TBL_STATUS.rb_done : Fld := ⟨0x900010, [], 5, 1, .ro, .const 0⟩
def TBL_STATUS.step_busy : Fld := ⟨0x900010, [], 1, 1, .ro, .const 0⟩

def TBL_PF_BASE.en : Fld := ⟨0x900018, [], 63, 1, .rwt, .const 0⟩
def TBL_PF_BASE.base : Fld := ⟨0x900018, [], 25, 23, .rwt, .const 0⟩

def TBL_REBUILD.start : Fld := ⟨0x900020, [], 31, 1, .wo, .const 0⟩
def TBL_REBUILD.stop : Fld := ⟨0x900020, [], 30, 1, .wo, .const 0⟩
def TBL_REBUILD.table : Fld := ⟨0x900020, [], 0, 4, .rw, .const 0⟩

def TBL_PERF.count : Fld := ⟨0x900040, [0x8], 0, 64, .ro, .const 0⟩

def TBL_TAB_CTL.rep_thr : Fld := ⟨0x901000, [0x200], 16, 4, .rw, .const 0xe⟩
def TBL_TAB_CTL.dem_thr : Fld := ⟨0x901000, [0x200], 12, 4, .rw, .const 2⟩
def TBL_TAB_CTL.prom_thr : Fld := ⟨0x901000, [0x200], 8, 4, .rw, .const 0xa⟩
def TBL_TAB_CTL.sel : Fld := ⟨0x901000, [0x200], 0, 1, .rwt, .const 0⟩

def TBL_TAB_OPT.lambda : Fld := ⟨0x901010, [0x200], 128, 32, .rw, .const 0⟩
def TBL_TAB_OPT.eps : Fld := ⟨0x901010, [0x200], 96, 32, .rw, .const 0x322bcc77⟩
def TBL_TAB_OPT.beta2 : Fld := ⟨0x901010, [0x200], 64, 32, .rw, .const 0x3f7fbe77⟩
def TBL_TAB_OPT.beta1 : Fld := ⟨0x901010, [0x200], 32, 32, .rw, .const 0x3f666666⟩
def TBL_TAB_OPT.eta : Fld := ⟨0x901010, [0x200], 0, 32, .rw, .const 0⟩

def TBL_TAB_STATUS.dropped : Fld := ⟨0x901028, [0x200], 32, 32, .ro, .const 0⟩
def TBL_TAB_STATUS.ver : Fld := ⟨0x901028, [0x200], 8, 8, .ro, .const 0⟩
def TBL_TAB_STATUS.draining : Fld := ⟨0x901028, [0x200], 2, 1, .ro, .const 0⟩
def TBL_TAB_STATUS.active : Fld := ⟨0x901028, [0x200], 0, 1, .ro, .const 0⟩

def TBL_TAB_STEPS.steps : Fld := ⟨0x901030, [0x200], 0, 64, .rw, .const 0⟩

def TBL_TAB_CFG.en : Fld := ⟨0x901080, [0x200, 0x80], 31, 1, .rwt, .const 0⟩
def TBL_TAB_CFG.frozen : Fld := ⟨0x901080, [0x200, 0x80], 30, 1, .rwt, .const 0⟩
def TBL_TAB_CFG.replicate : Fld := ⟨0x901080, [0x200, 0x80], 29, 1, .rwt, .const 0⟩
def TBL_TAB_CFG.prefetch : Fld := ⟨0x901080, [0x200, 0x80], 28, 1, .rwt, .const 0⟩
def TBL_TAB_CFG.mode : Fld := ⟨0x901080, [0x200, 0x80], 26, 2, .rwt, .const 0⟩
def TBL_TAB_CFG.opt : Fld := ⟨0x901080, [0x200, 0x80], 24, 2, .rwt, .const 0⟩
def TBL_TAB_CFG.state_fmt : Fld := ⟨0x901080, [0x200, 0x80], 23, 1, .rwt, .const 0⟩
def TBL_TAB_CFG.index : Fld := ⟨0x901080, [0x200, 0x80], 22, 1, .rwt, .const 0⟩
def TBL_TAB_CFG.res_shift : Fld := ⟨0x901080, [0x200, 0x80], 8, 5, .rwt, .const 0⟩
def TBL_TAB_CFG.rows_log2 : Fld := ⟨0x901080, [0x200, 0x80], 0, 5, .rwt, .const 0xa⟩

def TBL_TAB_HASH.tab_seed : Fld := ⟨0x901088, [0x200, 0x80], 0, 64, .rwt, .const 0⟩

def TBL_TAB_BASE.state_base : Fld := ⟨0x901090, [0x200, 0x80], 64, 36, .rwt, .const 0⟩
def TBL_TAB_BASE.dir_base : Fld := ⟨0x901090, [0x200, 0x80], 12, 36, .rwt, .const 0⟩

def TBL_TAB_POOL.free_init : Fld := ⟨0x9010A0, [0x200, 0x80, 0x10], 96, 24, .rwt, .const 0⟩
def TBL_TAB_POOL.slots : Fld := ⟨0x9010A0, [0x200, 0x80, 0x10], 64, 24, .rwt, .const 0⟩
def TBL_TAB_POOL.base : Fld := ⟨0x9010A0, [0x200, 0x80, 0x10], 12, 36, .rwt, .const 0⟩

def SPM_CTRL.perf_clr : Fld := ⟨0x1004000, [0x100000], 31, 1, .wo, .const 0⟩
def SPM_CTRL.steal_age : Fld := ⟨0x1004000, [0x100000], 0, 6, .rw, .const 0x20⟩

def SPM_STATUS.denied_count : Fld := ⟨0x1004008, [0x100000], 32, 32, .ro, .const 0⟩
def SPM_STATUS.last_src : Fld := ⟨0x1004008, [0x100000], 24, 8, .ro, .const 0⟩
def SPM_STATUS.last_part : Fld := ⟨0x1004008, [0x100000], 20, 2, .ro, .const 0⟩
def SPM_STATUS.last_nowin : Fld := ⟨0x1004008, [0x100000], 19, 1, .ro, .const 0⟩
def SPM_STATUS.last_win : Fld := ⟨0x1004008, [0x100000], 16, 3, .ro, .const 0⟩
def SPM_STATUS.own_err : Fld := ⟨0x1004008, [0x100000], 2, 1, .w1c, .const 0⟩
def SPM_STATUS.swapin_drop : Fld := ⟨0x1004008, [0x100000], 1, 1, .w1c, .const 0⟩
def SPM_STATUS.denied : Fld := ⟨0x1004008, [0x100000], 0, 1, .w1c, .const 0⟩

def SPM_CHUNK_OWN.assigned : Fld := ⟨0x1004100, [0x100000, 0x4], 15, 1, .rw, .const 0⟩
def SPM_CHUNK_OWN.shared : Fld := ⟨0x1004100, [0x100000, 0x4], 14, 1, .rw, .const 0⟩
def SPM_CHUNK_OWN.ctx : Fld := ⟨0x1004100, [0x100000, 0x4], 0, 8, .rw, .const 0⟩

def SPM_WIN.open : Fld := ⟨0x1004200, [0x100000, 0x8], 63, 1, .ro, .const 0⟩
def SPM_WIN.close : Fld := ⟨0x1004200, [0x100000, 0x8], 62, 1, .wo, .const 0⟩
def SPM_WIN.rd : Fld := ⟨0x1004200, [0x100000, 0x8], 61, 1, .ro, .const 0⟩
def SPM_WIN.wr : Fld := ⟨0x1004200, [0x100000, 0x8], 60, 1, .ro, .const 0⟩
def SPM_WIN.ext : Fld := ⟨0x1004200, [0x100000, 0x8], 59, 1, .ro, .const 0⟩
def SPM_WIN.slot : Fld := ⟨0x1004200, [0x100000, 0x8], 56, 2, .ro, .const 0⟩
def SPM_WIN.part_mask : Fld := ⟨0x1004200, [0x100000, 0x8], 52, 4, .ro, .const 0⟩
def SPM_WIN.counter : Fld := ⟨0x1004200, [0x100000, 0x8], 46, 6, .ro, .const 0⟩
def SPM_WIN.handle : Fld := ⟨0x1004200, [0x100000, 0x8], 38, 8, .ro, .const 0⟩
def SPM_WIN.core_mask : Fld := ⟨0x1004200, [0x100000, 0x8], 0, 32, .ro, .const 0⟩

def SPM_ARRIVAL.count : Fld := ⟨0x1004300, [0x100000, 0x4], 0, 32, .ro, .const 0⟩

def SPM_PERF.count : Fld := ⟨0x1004400, [0x100000, 0x8], 0, 64, .ro, .const 0⟩

def SO_VALUE.value : Fld := ⟨0xD00000, [0x8], 0, 64, .rw, .const 0⟩

def SO_CTRL.denied_count : Fld := ⟨0xD20000, [], 32, 32, .ro, .const 0⟩
def SO_CTRL.reset : Fld := ⟨0xD20000, [], 31, 1, .wo, .const 0⟩
def SO_CTRL.reset_err : Fld := ⟨0xD20000, [], 30, 1, .w1c, .const 0⟩
def SO_CTRL.object : Fld := ⟨0xD20000, [], 0, 14, .rw, .const 0⟩

def SO_ATTR.own_valid : Fld := ⟨0xD30000, [0x4], 31, 1, .rw, .const 0⟩
def SO_ATTR.owner : Fld := ⟨0xD30000, [0x4], 28, 2, .rw, .const 0⟩
def SO_ATTR.share : Fld := ⟨0xD30000, [0x4], 24, 4, .rw, .const 0⟩
def SO_ATTR.arm : Fld := ⟨0xD30000, [0x4], 15, 1, .rw, .const 0⟩
def SO_ATTR.sat : Fld := ⟨0xD30000, [0x4], 14, 1, .w1c, .const 0⟩
def SO_ATTR.vector : Fld := ⟨0xD30000, [0x4], 0, 6, .rw, .const 0⟩

def SO_ARM.target : Fld := ⟨0xD40000, [0x8], 0, 64, .rw, .const 0⟩

def SO_CTX_CFG.save_off : Fld := ⟨0xD21000, [0x40], 14, 12, .rw, .const 0⟩
def SO_CTX_CFG.en : Fld := ⟨0xD21000, [0x40], 12, 1, .rw, .const 0⟩
def SO_CTX_CFG.part : Fld := ⟨0xD21000, [0x40], 8, 2, .rw, .const 0⟩
def SO_CTX_CFG.core : Fld := ⟨0xD21000, [0x40], 0, 5, .rw, .const 0⟩

def SO_CTX_BIND.bind : Fld := ⟨0xD21008, [0x40], 63, 1, .wo, .const 0⟩
def SO_CTX_BIND.prio : Fld := ⟨0xD21008, [0x40], 48, 3, .rw, .const 0⟩
def SO_CTX_BIND.prog : Fld := ⟨0xD21008, [0x40], 3, 45, .rw, .const 0⟩

def SO_CTX_STATE.resume : Fld := ⟨0xD21010, [0x40], 63, 1, .wo, .const 0⟩
def SO_CTX_STATE.kill : Fld := ⟨0xD21010, [0x40], 62, 1, .wo, .const 0⟩
def SO_CTX_STATE.bind_err : Fld := ⟨0xD21010, [0x40], 61, 1, .w1c, .const 0⟩
def SO_CTX_STATE.fault_so_en : Fld := ⟨0xD21010, [0x40], 60, 1, .rw, .const 0⟩
def SO_CTX_STATE.fault_so : Fld := ⟨0xD21010, [0x40], 32, 14, .rw, .const 0⟩
def SO_CTX_STATE.slot : Fld := ⟨0xD21010, [0x40], 6, 2, .ro, .const 0⟩
def SO_CTX_STATE.resident : Fld := ⟨0xD21010, [0x40], 5, 1, .ro, .const 0⟩
def SO_CTX_STATE.state : Fld := ⟨0xD21010, [0x40], 0, 4, .ro, .const 0⟩

def SO_CTX_EXC.pc_next : Fld := ⟨0xD21018, [0x40], 64, 48, .ro, .const 0⟩
def SO_CTX_EXC.pc_fault : Fld := ⟨0xD21018, [0x40], 16, 48, .ro, .const 0⟩
def SO_CTX_EXC.more : Fld := ⟨0xD21018, [0x40], 8, 8, .ro, .const 0⟩
def SO_CTX_EXC.code : Fld := ⟨0xD21018, [0x40], 0, 8, .ro, .const 0⟩

def SO_CTX_INFO.info : Fld := ⟨0xD21028, [0x40], 0, 64, .ro, .const 0⟩

def CORE_STATUS.ctx : Fld := ⟨0x1000010, [0x100000], 32, 32, .ro, .const 0⟩
def CORE_STATUS.valid : Fld := ⟨0x1000010, [0x100000], 28, 4, .ro, .const 0⟩
def CORE_STATUS.running : Fld := ⟨0x1000010, [0x100000], 27, 1, .ro, .const 0⟩
def CORE_STATUS.run_slot : Fld := ⟨0x1000010, [0x100000], 25, 2, .ro, .const 0⟩

def CORE_CTR_GRP.assigned : Fld := ⟨0x10000C0, [0x100000, 0x4], 15, 1, .rw, .const 0⟩
def CORE_CTR_GRP.shared : Fld := ⟨0x10000C0, [0x100000, 0x4], 14, 1, .rw, .const 0⟩
def CORE_CTR_GRP.ctx : Fld := ⟨0x10000C0, [0x100000, 0x4], 0, 8, .rw, .const 0⟩

def CDMA_CTRL.start : Fld := ⟨0x1005018, [0x100000, 0x40], 63, 1, .ro, .const 0⟩
def CDMA_CTRL.bg : Fld := ⟨0x1005018, [0x100000, 0x40], 62, 1, .ro, .const 0⟩
def CDMA_CTRL.prio : Fld := ⟨0x1005018, [0x100000, 0x40], 59, 3, .ro, .const 0⟩
def CDMA_CTRL.swap : Fld := ⟨0x1005018, [0x100000, 0x40], 56, 3, .ro, .const 0⟩
def CDMA_CTRL.mode : Fld := ⟨0x1005018, [0x100000, 0x40], 53, 3, .ro, .const 0⟩
def CDMA_CTRL.cfmt : Fld := ⟨0x1005018, [0x100000, 0x40], 52, 1, .ro, .const 0⟩
def CDMA_CTRL.share : Fld := ⟨0x1005018, [0x100000, 0x40], 44, 8, .ro, .const 0⟩
def CDMA_CTRL.so_en : Fld := ⟨0x1005018, [0x100000, 0x40], 43, 1, .ro, .const 0⟩
def CDMA_CTRL.so : Fld := ⟨0x1005018, [0x100000, 0x40], 29, 14, .ro, .const 0⟩
def CDMA_CTRL.counter : Fld := ⟨0x1005018, [0x100000, 0x40], 0, 6, .ro, .const 0⟩

def CDMA_SRC.value : Fld := ⟨0x1005000, [0x100000, 0x40], 0, 64, .ro, .const 0⟩

def CDMA_DST.value : Fld := ⟨0x1005008, [0x100000, 0x40], 0, 64, .ro, .const 0⟩

def CDMA_CNT.value : Fld := ⟨0x1005010, [0x100000, 0x40], 0, 64, .ro, .const 0⟩

def DMA_SRC.value : Fld := ⟨0xB00000, [0x40], 0, 64, .rw, .const 0⟩

def DMA_DST.value : Fld := ⟨0xB00008, [0x40], 0, 64, .rw, .const 0⟩

def DMA_CNT.value : Fld := ⟨0xB00010, [0x40], 0, 64, .rw, .const 0⟩

def CDMA_STATUS.fail_addr : Fld := ⟨0x1005020, [0x100000, 0x40], 16, 48, .ro, .const 0⟩
def CDMA_STATUS.cause : Fld := ⟨0x1005020, [0x100000, 0x40], 12, 4, .ro, .const 0⟩
def CDMA_STATUS.ctx : Fld := ⟨0x1005020, [0x100000, 0x40], 4, 8, .ro, .const 0⟩
def CDMA_STATUS.halted : Fld := ⟨0x1005020, [0x100000, 0x40], 3, 1, .ro, .const 0⟩
def CDMA_STATUS.cfg_err : Fld := ⟨0x1005020, [0x100000, 0x40], 2, 1, .w1c, .const 0⟩
def CDMA_STATUS.waiting : Fld := ⟨0x1005020, [0x100000, 0x40], 1, 1, .ro, .const 0⟩
def CDMA_STATUS.busy : Fld := ⟨0x1005020, [0x100000, 0x40], 0, 1, .ro, .const 0⟩

def DMA_STATUS.fail_addr : Fld := ⟨0xB00020, [0x40], 16, 48, .ro, .const 0⟩
def DMA_STATUS.cause : Fld := ⟨0xB00020, [0x40], 12, 4, .ro, .const 0⟩
def DMA_STATUS.halted : Fld := ⟨0xB00020, [0x40], 3, 1, .ro, .const 0⟩
def DMA_STATUS.cfg_err : Fld := ⟨0xB00020, [0x40], 2, 1, .w1c, .const 0⟩
def DMA_STATUS.waiting : Fld := ⟨0xB00020, [0x40], 1, 1, .ro, .const 0⟩
def DMA_STATUS.busy : Fld := ⟨0xB00020, [0x40], 0, 1, .ro, .const 0⟩

def DMA_OWN.part : Fld := ⟨0xB00800, [0x4], 0, 2, .rw, .const 0⟩

def DMA_PRINT_RING.en : Fld := ⟨0xB01000, [0x20], 63, 1, .rw, .const 0⟩
def DMA_PRINT_RING.base : Fld := ⟨0xB01000, [0x20], 12, 36, .rw, .const 0⟩
def DMA_PRINT_RING.slot_log2 : Fld := ⟨0xB01000, [0x20], 8, 4, .rw, .const 0xc⟩
def DMA_PRINT_RING.size_log2 : Fld := ⟨0xB01000, [0x20], 0, 5, .rw, .const 4⟩

def DMA_CTRL.start : Fld := ⟨0xB00018, [0x40], 63, 1, .wo, .const 0⟩
def DMA_CTRL.bg : Fld := ⟨0xB00018, [0x40], 62, 1, .rw, .const 0⟩
def DMA_CTRL.prio : Fld := ⟨0xB00018, [0x40], 59, 3, .rw, .const 0⟩
def DMA_CTRL.swap : Fld := ⟨0xB00018, [0x40], 56, 3, .rw, .const 0⟩
def DMA_CTRL.mode : Fld := ⟨0xB00018, [0x40], 53, 3, .rw, .const 0⟩
def DMA_CTRL.cfmt : Fld := ⟨0xB00018, [0x40], 52, 1, .rw, .const 0⟩
def DMA_CTRL.share : Fld := ⟨0xB00018, [0x40], 44, 8, .rw, .const 0⟩
def DMA_CTRL.so_en : Fld := ⟨0xB00018, [0x40], 43, 1, .rw, .const 0⟩
def DMA_CTRL.done_so : Fld := ⟨0xB00018, [0x40], 29, 14, .rw, .const 0⟩
def DMA_CTRL.so_on_halt : Fld := ⟨0xB00018, [0x40], 28, 1, .rw, .const 0⟩
def DMA_CTRL.bell_en : Fld := ⟨0xB00018, [0x40], 27, 1, .rw, .const 0⟩
def DMA_CTRL.bell_w : Fld := ⟨0xB00018, [0x40], 24, 3, .rw, .const 0⟩

def DMA_PRINT_PTR.head : Fld := ⟨0xB01008, [0x20], 32, 32, .ro, .const 0⟩
def DMA_PRINT_PTR.tail : Fld := ⟨0xB01008, [0x20], 0, 32, .rw, .const 0⟩

def DMA_PRINT_SO.so_en : Fld := ⟨0xB01010, [0x20], 63, 1, .rw, .const 0⟩
def DMA_PRINT_SO.stale : Fld := ⟨0xB01010, [0x20], 48, 8, .ro, .const 0⟩
def DMA_PRINT_SO.full_wait : Fld := ⟨0xB01010, [0x20], 16, 32, .ro, .const 0⟩
def DMA_PRINT_SO.print_so : Fld := ⟨0xB01010, [0x20], 0, 14, .rw, .const 0⟩

def MEM_CFG.trained : Fld := ⟨0xA00000, [], 16, 16, .ro, .const 0⟩
def MEM_CFG.installed_gib : Fld := ⟨0xA00000, [], 8, 8, .ro, .const 0x20⟩
def MEM_CFG.cfg_err : Fld := ⟨0xA00000, [], 7, 1, .w1c, .const 0⟩
def MEM_CFG.ranks : Fld := ⟨0xA00000, [], 6, 1, .rwl, .const 0⟩
def MEM_CFG.density : Fld := ⟨0xA00000, [], 4, 2, .rwl, .const 1⟩
def MEM_CFG.rate : Fld := ⟨0xA00000, [], 0, 3, .rwl, .const 4⟩

def MEM_CLASS.full : Fld := ⟨0xA00008, [], 0, 64, .rwl, .const 0xffffffffffffffff⟩

def MEM_MAINT.retrain_ms : Fld := ⟨0xA00010, [], 16, 16, .rw, .const 0x64⟩
def MEM_MAINT.zq_ms : Fld := ⟨0xA00010, [], 8, 8, .rw, .const 0x20⟩

def MEM_STATUS.pause_count : Fld := ⟨0xA00018, [], 32, 32, .ro, .const 0⟩
def MEM_STATUS.pending : Fld := ⟨0xA00018, [], 16, 16, .ro, .const 0⟩
def MEM_STATUS.paused : Fld := ⟨0xA00018, [], 0, 16, .ro, .const 0⟩

def MEM_ZERO.start : Fld := ⟨0xA00020, [], 63, 1, .wo, .const 0⟩
def MEM_ZERO.busy : Fld := ⟨0xA00020, [], 62, 1, .ro, .const 0⟩
def MEM_ZERO.nblocks : Fld := ⟨0xA00020, [], 32, 24, .rw, .const 0⟩
def MEM_ZERO.first : Fld := ⟨0xA00020, [], 0, 24, .rw, .const 0⟩

def ECC_CTRL.scrub_dram_h : Fld := ⟨0xA00100, [], 56, 8, .rw, .const 0x18⟩
def ECC_CTRL.scrub_sram_min : Fld := ⟨0xA00100, [], 48, 8, .rw, .const 0x3c⟩
def ECC_CTRL.leak_ms : Fld := ⟨0xA00100, [], 32, 16, .rw, .const 0x3e8⟩
def ECC_CTRL.auto_remap : Fld := ⟨0xA00100, [], 31, 1, .rw, .const 1⟩
def ECC_CTRL.so_en : Fld := ⟨0xA00100, [], 30, 1, .rw, .const 0⟩
def ECC_CTRL.ecc_so : Fld := ⟨0xA00100, [], 16, 14, .rw, .const 0⟩

def ECC_STATUS.uncorr_count : Fld := ⟨0xA00108, [], 48, 16, .ro, .const 0⟩
def ECC_STATUS.page_corr_count : Fld := ⟨0xA00108, [], 32, 16, .ro, .const 0⟩
def ECC_STATUS.remap_count : Fld := ⟨0xA00108, [], 16, 16, .ro, .const 0⟩
def ECC_STATUS.remap_full : Fld := ⟨0xA00108, [], 1, 1, .w1c, .const 0⟩
def ECC_STATUS.uncorr : Fld := ⟨0xA00108, [], 0, 1, .w1c, .const 0⟩

def ECC_BUCKET.ovf : Fld := ⟨0xA00200, [0x4], 31, 1, .w1c, .const 0⟩
def ECC_BUCKET.threshold : Fld := ⟨0xA00200, [0x4], 16, 8, .rw, .const 0x10⟩
def ECC_BUCKET.count : Fld := ⟨0xA00200, [0x4], 0, 8, .ro, .const 0⟩

def ECC_LOG_PTR.events : Fld := ⟨0xA00800, [], 16, 16, .ro, .const 0⟩
def ECC_LOG_PTR.next : Fld := ⟨0xA00800, [], 0, 5, .ro, .const 0⟩

def ECC_LOG.scrub : Fld := ⟨0xA00900, [0x20], 169, 1, .ro, .const 0⟩
def ECC_LOG.bit : Fld := ⟨0xA00900, [0x20], 160, 9, .ro, .const 0⟩
def ECC_LOG.syndrome : Fld := ⟨0xA00900, [0x20], 144, 16, .ro, .const 0⟩
def ECC_LOG.type : Fld := ⟨0xA00900, [0x20], 136, 8, .ro, .const 0⟩
def ECC_LOG.unit : Fld := ⟨0xA00900, [0x20], 128, 8, .ro, .const 0⟩
def ECC_LOG.address : Fld := ⟨0xA00900, [0x20], 80, 48, .ro, .const 0⟩
def ECC_LOG.seconds : Fld := ⟨0xA00900, [0x20], 32, 48, .ro, .const 0⟩
def ECC_LOG.ns : Fld := ⟨0xA00900, [0x20], 0, 30, .ro, .const 0⟩

def ECC_DIAG.arm : Fld := ⟨0xA01000, [], 63, 1, .rw, .const 0⟩
def ECC_DIAG.hold : Fld := ⟨0xA01000, [], 62, 1, .rw, .const 0⟩
def ECC_DIAG.addr : Fld := ⟨0xA01000, [], 5, 43, .rw, .const 0⟩

def ECC_DIAG_CHK.read_valid : Fld := ⟨0xA01008, [], 48, 1, .w1c, .const 0⟩
def ECC_DIAG_CHK.syndrome : Fld := ⟨0xA01008, [], 32, 16, .ro, .const 0⟩
def ECC_DIAG_CHK.check_rd : Fld := ⟨0xA01008, [], 16, 16, .ro, .const 0⟩
def ECC_DIAG_CHK.check_wr : Fld := ⟨0xA01008, [], 0, 16, .rw, .const 0⟩

def ECC_REMAP_DRAM.valid : Fld := ⟨0xA10000, [0x100, 0x8], 63, 1, .rw, .const 0⟩
def ECC_REMAP_DRAM.page : Fld := ⟨0xA10000, [0x100, 0x8], 0, 24, .rw, .const 0⟩

def ECC_REMAP_SRAM.valid : Fld := ⟨0xA20000, [0x80, 0x8], 63, 1, .rw, .const 0⟩
def ECC_REMAP_SRAM.line : Fld := ⟨0xA20000, [0x80, 0x8], 0, 17, .rw, .const 0⟩

def CFG_TXN.begin : Fld := ⟨0x100000, [0x4000000], 31, 1, .wo, .const 0⟩
def CFG_TXN.commit : Fld := ⟨0x100000, [0x4000000], 30, 1, .wo, .const 0⟩
def CFG_TXN.rollback : Fld := ⟨0x100000, [0x4000000], 29, 1, .wo, .const 0⟩
def CFG_TXN.when : Fld := ⟨0x100000, [0x4000000], 28, 1, .rw, .const 0⟩
def CFG_TXN.staged : Fld := ⟨0x100000, [0x4000000], 0, 9, .ro, .const 0⟩

def CFG_TXN_STATUS.fail_off : Fld := ⟨0x100008, [0x4000000], 38, 26, .ro, .const 0⟩
def CFG_TXN_STATUS.seq : Fld := ⟨0x100008, [0x4000000], 16, 16, .ro, .const 0⟩
def CFG_TXN_STATUS.cause : Fld := ⟨0x100008, [0x4000000], 8, 8, .ro, .const 0⟩
def CFG_TXN_STATUS.status : Fld := ⟨0x100008, [0x4000000], 0, 4, .ro, .const 5⟩

def CFG_STATUS.applied_seq : Fld := ⟨0x100010, [], 48, 16, .ro, .const 0⟩
def CFG_STATUS.rwt_discard : Fld := ⟨0x100010, [], 32, 16, .ro, .const 0⟩
def CFG_STATUS.conflict_count : Fld := ⟨0x100010, [], 16, 16, .ro, .const 0⟩
def CFG_STATUS.pending : Fld := ⟨0x100010, [], 12, 4, .ro, .const 0⟩

def HOST_PCIE_CFG.x8 : Fld := ⟨0xC00000, [], 8, 1, .rwl, .const 0⟩
def HOST_PCIE_CFG.fn_en : Fld := ⟨0xC00000, [], 1, 7, .rwl, .const 0⟩
def HOST_PCIE_CFG.fn0_en : Fld := ⟨0xC00000, [], 0, 1, .ro, .const 1⟩

def HOST_PCI_ID.device_id : Fld := ⟨0xC00008, [], 16, 16, .ro, .const 0xe32⟩
def HOST_PCI_ID.vendor_id : Fld := ⟨0xC00008, [], 0, 16, .ro, .const 0⟩

def HOST_FN_BIND.part : Fld := ⟨0xC00010, [0x4], 0, 2, .rwl, .const 1⟩

def HOST_SAFETY.owner : Fld := ⟨0xC00030, [], 0, 2, .rwl, .const 0⟩

def HOST_MCTP.eid_static : Fld := ⟨0xC00040, [], 31, 1, .rwl, .const 0⟩
def HOST_MCTP.smb_addr : Fld := ⟨0xC00040, [], 24, 7, .rwl, .const 0x2e⟩
def HOST_MCTP.smb_speed : Fld := ⟨0xC00040, [], 22, 2, .rwl, .const 0⟩
def HOST_MCTP.smb_en : Fld := ⟨0xC00040, [], 16, 1, .rwl, .const 0⟩
def HOST_MCTP.eid : Fld := ⟨0xC00040, [], 0, 8, .rw, .const 0⟩

def HOST_PART_CTRL.reset : Fld := ⟨0xC00100, [0x20], 31, 1, .wo, .const 0⟩
def HOST_PART_CTRL.stopped : Fld := ⟨0xC00100, [0x20], 30, 1, .ro, .const 0⟩
def HOST_PART_CTRL.share : Fld := ⟨0xC00100, [0x20], 0, 6, .rw, .const 0⟩

def HOST_HWIN.offset : Fld := ⟨0xC00108, [0x20], 0, 64, .rw, .const 0⟩

def HOST_PART_STATUS.map_denied : Fld := ⟨0xC00110, [0x20], 32, 32, .ro, .const 0⟩
def HOST_PART_STATUS.resets : Fld := ⟨0xC00110, [0x20], 16, 16, .ro, .const 0⟩
def HOST_PART_STATUS.bind_err : Fld := ⟨0xC00110, [0x20], 3, 1, .w1c, .const 0⟩
def HOST_PART_STATUS.share_err : Fld := ⟨0xC00110, [0x20], 2, 1, .w1c, .const 0⟩
def HOST_PART_STATUS.map_err : Fld := ⟨0xC00110, [0x20], 1, 1, .w1c, .const 0⟩
def HOST_PART_STATUS.link_up : Fld := ⟨0xC00110, [0x20], 0, 1, .ro, .const 0⟩

def HOST_MAP.valid : Fld := ⟨0xC10000, [0x8000, 0x8], 63, 1, .rw, .const 0⟩
def HOST_MAP.rd : Fld := ⟨0xC10000, [0x8000, 0x8], 62, 1, .rw, .const 0⟩
def HOST_MAP.wr : Fld := ⟨0xC10000, [0x8000, 0x8], 61, 1, .rw, .const 0⟩
def HOST_MAP.page : Fld := ⟨0xC10000, [0x8000, 0x8], 21, 27, .rw, .const 0⟩

def SAFE_CTRL.key : Fld := ⟨0x400000, [], 16, 16, .wo, .const 0⟩
def SAFE_CTRL.restart : Fld := ⟨0x400000, [], 15, 1, .wo, .const 0⟩
def SAFE_CTRL.force : Fld := ⟨0x400000, [], 14, 1, .wo, .const 0⟩
def SAFE_CTRL.kick : Fld := ⟨0x400000, [], 13, 1, .wo, .const 0⟩
def SAFE_CTRL.kick_ms : Fld := ⟨0x400000, [], 0, 8, .rw, .const 0⟩

def SAFE_STATUS.withdraw_from : Fld := ⟨0x400008, [], 32, 32, .ro, .const 0⟩
def SAFE_STATUS.more : Fld := ⟨0x400008, [], 24, 8, .ro, .const 0⟩
def SAFE_STATUS.detail : Fld := ⟨0x400008, [], 16, 8, .ro, .const 0⟩
def SAFE_STATUS.cause : Fld := ⟨0x400008, [], 8, 8, .ro, .const 1⟩
def SAFE_STATUS.key_err : Fld := ⟨0x400008, [], 6, 1, .w1c, .const 0⟩
def SAFE_STATUS.restart_err : Fld := ⟨0x400008, [], 5, 1, .w1c, .const 0⟩
def SAFE_STATUS.warn : Fld := ⟨0x400008, [], 4, 1, .ro, .const 0⟩
def SAFE_STATUS.pf_pass : Fld := ⟨0x400008, [], 3, 1, .ro, .const 0⟩
def SAFE_STATUS.state : Fld := ⟨0x400008, [], 0, 2, .ro, .const 0⟩

def SAFE_TDET.sec : Fld := ⟨0x400010, [], 30, 34, .ro, .const 0⟩
def SAFE_TDET.ns : Fld := ⟨0x400010, [], 0, 30, .ro, .const 0⟩

def SAFE_FAULT_EN.en : Fld := ⟨0x400018, [], 0, 4, .rwl, .const 0xf⟩

def SAFE_PF_CFG.out_base : Fld := ⟨0x400020, [], 44, 10, .rwt, .const 0⟩
def SAFE_PF_CFG.pf_so : Fld := ⟨0x400020, [], 30, 14, .rwt, .const 0⟩
def SAFE_PF_CFG.n_out_m1 : Fld := ⟨0x400020, [], 17, 13, .rwt, .const 0⟩
def SAFE_PF_CFG.en : Fld := ⟨0x400020, [], 16, 1, .rwt, .const 0⟩
def SAFE_PF_CFG.cmp_max_us : Fld := ⟨0x400020, [], 0, 8, .rwt, .const 0x64⟩

def SAFE_CHK.en : Fld := ⟨0x400028, [], 63, 1, .rwt, .const 0⟩
def SAFE_CHK.prot_max_us : Fld := ⟨0x400028, [], 0, 20, .rwt, .const 0x4e20⟩

def SAFE_STEST.start : Fld := ⟨0x400030, [], 31, 1, .wo, .const 0⟩
def SAFE_STEST.release : Fld := ⟨0x400030, [], 30, 1, .wo, .const 0⟩
def SAFE_STEST.max_out : Fld := ⟨0x400030, [], 8, 2, .rw, .const 1⟩
def SAFE_STEST.core : Fld := ⟨0x400030, [], 0, 5, .rw, .const 0⟩

def SAFE_STEST_STATUS.pending : Fld := ⟨0x400038, [], 32, 32, .ro, .const 0⟩
def SAFE_STEST_STATUS.out : Fld := ⟨0x400038, [], 0, 32, .ro, .const 0⟩

def SAFE_STEST_RESULT.failed : Fld := ⟨0x400040, [], 32, 32, .ro, .const 0⟩
def SAFE_STEST_RESULT.held : Fld := ⟨0x400040, [], 0, 32, .ro, .const 0⟩

def SAFE_PF_RESULT.exposure : Fld := ⟨0x400048, [], 32, 32, .ro, .const 0⟩
def SAFE_PF_RESULT.first_fail : Fld := ⟨0x400048, [], 19, 13, .ro, .const 0⟩
def SAFE_PF_RESULT.n_fail : Fld := ⟨0x400048, [], 5, 14, .ro, .const 0⟩
def SAFE_PF_RESULT.hdr_err : Fld := ⟨0x400048, [], 1, 1, .ro, .const 0⟩
def SAFE_PF_RESULT.pass : Fld := ⟨0x400048, [], 0, 1, .ro, .const 0⟩

def SAFE_COUNT.disagree : Fld := ⟨0x400050, [], 48, 16, .ro, .const 0⟩
def SAFE_COUNT.pf_fail : Fld := ⟨0x400050, [], 32, 16, .ro, .const 0⟩
def SAFE_COUNT.stray_marks : Fld := ⟨0x400050, [], 16, 16, .ro, .const 0⟩
def SAFE_COUNT.frames : Fld := ⟨0x400050, [], 0, 16, .ro, .const 0⟩

def SAFE_FRAME.frame : Fld := ⟨0x400080, [], 0, 256, .ro, .const 0⟩

def SAFE_WDG.en : Fld := ⟨0x400100, [0x8], 63, 1, .rwt, .const 0⟩
def SAFE_WDG.per_core : Fld := ⟨0x400100, [0x8], 62, 1, .rwt, .const 0⟩
def SAFE_WDG.ref : Fld := ⟨0x400100, [0x8], 61, 1, .rwt, .const 0⟩
def SAFE_WDG.max_us : Fld := ⟨0x400100, [0x8], 32, 20, .rwt, .const 0⟩
def SAFE_WDG.min_us : Fld := ⟨0x400100, [0x8], 0, 20, .rwt, .const 0⟩

def SAFE_ZCHK.chk_en : Fld := ⟨0x400200, [0x8], 63, 1, .rwt, .const 0⟩
def SAFE_ZCHK.hi : Fld := ⟨0x400200, [0x8], 32, 24, .rwt, .const 0⟩
def SAFE_ZCHK.lo : Fld := ⟨0x400200, [0x8], 0, 24, .rwt, .const 0⟩

def SAFE_PF_TAB.entry : Fld := ⟨0x410000, [0x8], 0, 64, .rwl, .const 0⟩

def PWR_LIMIT.floor_cap : Fld := ⟨0x200000, [], 16, 4, .rw, .const 4⟩
def PWR_LIMIT.tau_ms : Fld := ⟨0x200000, [], 8, 8, .rw, .const 0xa⟩
def PWR_LIMIT.limit : Fld := ⟨0x200000, [], 0, 8, .rw, .const 0x8c⟩

def PWR_STATUS.power_mw : Fld := ⟨0x200008, [], 32, 32, .ro, .const 0⟩
def PWR_STATUS.tj : Fld := ⟨0x200008, [], 16, 16, .ro, .const 0⟩
def PWR_STATUS.cap : Fld := ⟨0x200008, [], 12, 4, .ro, .const 8⟩
def PWR_STATUS.cclk_step : Fld := ⟨0x200008, [], 10, 2, .ro, .const 0⟩
def PWR_STATUS.thermal : Fld := ⟨0x200008, [], 9, 1, .ro, .const 0⟩
def PWR_STATUS.gate_err : Fld := ⟨0x200008, [], 8, 1, .w1c, .const 0⟩
def PWR_STATUS.over_limit : Fld := ⟨0x200008, [], 7, 1, .w1c, .const 0⟩
def PWR_STATUS.over_count : Fld := ⟨0x200008, [], 0, 7, .ro, .const 0⟩

def PWR_DROOP.stretches : Fld := ⟨0x200010, [], 48, 16, .ro, .const 0⟩
def PWR_DROOP.step1 : Fld := ⟨0x200010, [], 32, 16, .ro, .const 0⟩
def PWR_DROOP.step2 : Fld := ⟨0x200010, [], 16, 16, .ro, .const 0⟩
def PWR_DROOP.last_core : Fld := ⟨0x200010, [], 0, 5, .ro, .const 0⟩

def PWR_THERM.tj_trip : Fld := ⟨0x200018, [], 8, 8, .rw, .const 0x6e⟩
def PWR_THERM.tj_throttle : Fld := ⟨0x200018, [], 0, 8, .rw, .const 0x64⟩

def PWR_CORE_GATE.ready : Fld := ⟨0x200020, [], 32, 32, .ro, .const 0⟩
def PWR_CORE_GATE.gate : Fld := ⟨0x200020, [], 0, 32, .rw, .const 0⟩

def PWR_SLEEP.sleep : Fld := ⟨0x200030, [], 63, 1, .wo, .const 0⟩
def PWR_SLEEP.sleep_err : Fld := ⟨0x200030, [], 62, 1, .w1c, .const 0⟩
def PWR_SLEEP.last_wake : Fld := ⟨0x200030, [], 4, 3, .ro, .const 0⟩
def PWR_SLEEP.wake_en : Fld := ⟨0x200030, [], 0, 3, .rw, .const 1⟩

def PWR_ALARM.sec : Fld := ⟨0x200038, [], 30, 34, .rw, .const 0⟩
def PWR_ALARM.ns : Fld := ⟨0x200038, [], 0, 30, .rw, .const 0⟩

def BOOT_STATUS.reason : Fld := ⟨0x300000, [], 48, 16, .ro, .const 0⟩
def BOOT_STATUS.fail_detail : Fld := ⟨0x300000, [], 40, 8, .ro, .const 0⟩
def BOOT_STATUS.reset_cause : Fld := ⟨0x300000, [], 36, 4, .ro, .const 0⟩
def BOOT_STATUS.start_count : Fld := ⟨0x300000, [], 32, 4, .ro, .const 0⟩
def BOOT_STATUS.svn : Fld := ⟨0x300000, [], 24, 8, .ro, .const 0⟩
def BOOT_STATUS.slot : Fld := ⟨0x300000, [], 16, 2, .ro, .const 0⟩
def BOOT_STATUS.minimal : Fld := ⟨0x300000, [], 1, 1, .ro, .const 0⟩
def BOOT_STATUS.done : Fld := ⟨0x300000, [], 0, 1, .ro, .const 0⟩

def BOOT_CTRL.done : Fld := ⟨0x300008, [], 63, 1, .wo, .const 0⟩
def BOOT_CTRL.sw_reset : Fld := ⟨0x300008, [], 62, 1, .wo, .const 0⟩
def BOOT_CTRL.key : Fld := ⟨0x300008, [], 32, 16, .wo, .const 0⟩
def BOOT_CTRL.next_slot : Fld := ⟨0x300008, [], 0, 1, .rw, .const 0⟩

def BOOT_RESUME.entry : Fld := ⟨0x300010, [], 64, 48, .rw, .const 0⟩
def BOOT_RESUME.pages : Fld := ⟨0x300010, [], 48, 16, .rw, .const 0⟩
def BOOT_RESUME.base : Fld := ⟨0x300010, [], 12, 36, .rw, .const 0⟩

def BOOT_RETAIN.data : Fld := ⟨0x300020, [0x4], 0, 32, .rw, .const 0⟩

def SEC_LOCK.lock : Fld := ⟨0x300040, [], 31, 1, .wo, .const 0⟩
def SEC_LOCK.otp_err : Fld := ⟨0x300040, [], 2, 1, .w1c, .const 0⟩
def SEC_LOCK.jtag_open : Fld := ⟨0x300040, [], 1, 1, .ro, .const 0⟩
def SEC_LOCK.locked : Fld := ⟨0x300040, [], 0, 1, .ro, .const 0⟩

def SEC_KEY.programmed : Fld := ⟨0x300100, [0x8], 31, 1, .ro, .const 0⟩
def SEC_KEY.revoked : Fld := ⟨0x300100, [0x8], 30, 1, .ro, .const 0⟩
def SEC_KEY.revoke : Fld := ⟨0x300100, [0x8], 29, 1, .wo, .const 0⟩
def SEC_KEY.in_use : Fld := ⟨0x300100, [0x8], 0, 1, .ro, .const 0⟩

def SEC_ROLLBACK.advance : Fld := ⟨0x300200, [], 63, 1, .wo, .const 0⟩
def SEC_ROLLBACK.target : Fld := ⟨0x300200, [], 8, 7, .rw, .const 0⟩
def SEC_ROLLBACK.count : Fld := ⟨0x300200, [], 0, 7, .ro, .const 0⟩

def SEC_MEASURE.extend : Fld := ⟨0x300300, [], 63, 1, .wo, .const 0⟩
def SEC_MEASURE.type : Fld := ⟨0x300300, [], 8, 4, .rw, .const 0⟩
def SEC_MEASURE.entry : Fld := ⟨0x300300, [], 0, 4, .rw, .const 0⟩

def SEC_MEASURE_DATA.data : Fld := ⟨0x300400, [0x8], 0, 64, .wo, .const 0⟩

end Reg

open Reg in
/-- The registers of chapter 00. -/
def regRows00 : List RegRow := [
  ⟨.DEV_ID, 0x0, [], 4, false, [DEV_ID.part_number, DEV_ID.grade, DEV_ID.stepping_major, DEV_ID.stepping_minor], .safelight, .none, .all⟩]

open Reg in
/-- The registers of chapter 02. -/
def regRows02 : List RegRow := [
  ⟨.FE_EXP_CTRL, 0x700000, [], 4, false, [FE_EXP_CTRL.close_so, FE_EXP_CTRL.mnt_max_defer, FE_EXP_CTRL.pbuf_count, FE_EXP_CTRL.enable], .device, .any, .all⟩,
  ⟨.FE_EXP_PERIOD, 0x700004, [], 4, false, [FE_EXP_PERIOD.slice_ns], .device, .any, .all⟩,
  ⟨.FE_EXP_PHASE, 0x700008, [], 4, false, [FE_EXP_PHASE.phase_ns], .device, .any, .all⟩,
  ⟨.FE_EXP_DEADLINE, 0x70000C, [], 4, false, [FE_EXP_DEADLINE.deadline_us], .device, .any, .all⟩,
  ⟨.FE_EXP_CORE_MASK, 0x700010, [], 4, false, [FE_EXP_CORE_MASK.core_en], .device, .any, .all⟩,
  ⟨.FE_EXP_ACTIVE, 0x700014, [], 4, false, [FE_EXP_ACTIVE.active], .device, .any, .all⟩,
  ⟨.FE_EXP_NUMBER, 0x700018, [], 8, false, [FE_EXP_NUMBER.open_number], .device, .any, .all⟩,
  ⟨.FE_EXP_STATUS, 0x700020, [], 8, false, [FE_EXP_STATUS.lag_ns, FE_EXP_STATUS.late_count, FE_EXP_STATUS.overrun_count, FE_EXP_STATUS.mnt_forced_count, FE_EXP_STATUS.time_step, FE_EXP_STATUS.lagging, FE_EXP_STATUS.open], .device, .any, .all⟩,
  ⟨.CORE_SCHED, 0x1000080, [(32, 0x100000)], 4, false, [CORE_SCHED.quantum_us], .core, .any, .all⟩]

open Reg in
/-- The registers of chapter 03. -/
def regRows03 : List RegRow := [
  ⟨.PTP_TIME_NS, 0x500000, [], 8, false, [PTP_TIME_NS.ns, PTP_TIME_NS.frac], .safelight, .p0, .all⟩,
  ⟨.PTP_TIME_SEC, 0x500008, [], 8, false, [PTP_TIME_SEC.sec], .safelight, .p0, .all⟩,
  ⟨.PTP_INCR, 0x500010, [], 8, false, [PTP_INCR.incr_clamped, PTP_INCR.incr_ns, PTP_INCR.incr_frac], .safelight, .p0, .all⟩,
  ⟨.PTP_STEP, 0x500018, [], 8, false, [PTP_STEP.step_ns], .safelight, .p0, .all⟩,
  ⟨.PTP_STEP_CTRL, 0x500020, [], 8, false, [PTP_STEP_CTRL.step_gen, PTP_STEP_CTRL.refused_count, PTP_STEP_CTRL.pending, PTP_STEP_CTRL.refused, PTP_STEP_CTRL.confirm, PTP_STEP_CTRL.discard, PTP_STEP_CTRL.threshold_ns], .safelight, .p0, .all⟩,
  ⟨.PTP_PULSE_CTRL, 0x500100, [(4, 0x20)], 4, false, [PTP_PULSE_CTRL.missed_count, PTP_PULSE_CTRL.cfg_err, PTP_PULSE_CTRL.active_low, PTP_PULSE_CTRL.periodic, PTP_PULSE_CTRL.arm], .device, .p0, .all⟩,
  ⟨.PTP_PULSE_START, 0x500108, [(4, 0x20)], 8, false, [PTP_PULSE_START.start_sec, PTP_PULSE_START.start_ns], .device, .p0, .all⟩,
  ⟨.PTP_PULSE_SHAPE, 0x500110, [(4, 0x20)], 8, false, [PTP_PULSE_SHAPE.period_ns, PTP_PULSE_SHAPE.width_ns], .device, .p0, .all⟩,
  ⟨.PTP_CAPT_CTRL, 0x500200, [], 4, false, [PTP_CAPT_CTRL.capt1_ovf, PTP_CAPT_CTRL.capt0_ovf, PTP_CAPT_CTRL.edge_sel1, PTP_CAPT_CTRL.edge_sel0], .device, .p0, .all⟩,
  ⟨.PTP_CAPT_FIFO, 0x500208, [(2, 0x8)], 8, false, [PTP_CAPT_FIFO.sec, PTP_CAPT_FIFO.ns], .device, .p0, .all⟩,
  ⟨.ETH_CTRL, 0x600000, [(8, 0x10000)], 4, false, [ETH_CTRL.mode, ETH_CTRL.an_en, ETH_CTRL.mgmt_en, ETH_CTRL.rx_inv, ETH_CTRL.tx_inv], .device, .p0, .all⟩,
  ⟨.ETH_TS_LAT, 0x600008, [(8, 0x10000)], 8, false, [ETH_TS_LAT.tx_lat, ETH_TS_LAT.rx_lat], .device, .p0, .all⟩,
  ⟨.ETH_STATUS, 0x600010, [(8, 0x10000)], 8, false, [ETH_STATUS.rx_fcs_err, ETH_STATUS.rx_unmatched, ETH_STATUS.rx_nobuf, ETH_STATUS.rx_pause, ETH_STATUS.rx_len_err, ETH_STATUS.an_done, ETH_STATUS.link_up], .device, .p0, .all⟩,
  ⟨.ETH_STEER, 0x600020, [(8, 0x10000), (8, 0x4)], 4, false, [ETH_STEER.en, ETH_STEER.program, ETH_STEER.udp_port], .device, .p0, .all⟩,
  ⟨.ETH_TXQ_BASE, 0x600040, [(8, 0x10000)], 8, false, [ETH_TXQ_BASE.base, ETH_TXQ_BASE.size_log2], .device, .p0, .all⟩,
  ⟨.ETH_RXQ_BASE, 0x600050, [(8, 0x10000)], 8, false, [ETH_RXQ_BASE.base, ETH_RXQ_BASE.size_log2], .device, .p0, .all⟩,
  ⟨.ETH_TXQ_PTR, 0x600048, [(8, 0x10000)], 8, false, [ETH_TXQ_PTR.so_en, ETH_TXQ_PTR.done_so, ETH_TXQ_PTR.head, ETH_TXQ_PTR.tail], .device, .p0, .all⟩,
  ⟨.ETH_RXQ_PTR, 0x600058, [(8, 0x10000)], 8, false, [ETH_RXQ_PTR.so_en, ETH_RXQ_PTR.done_so, ETH_RXQ_PTR.head, ETH_RXQ_PTR.tail], .device, .p0, .all⟩,
  ⟨.ETH_MDIO, 0x600080, [(2, 0x40000)], 8, false, [ETH_MDIO.busy, ETH_MDIO.start, ETH_MDIO.clause45, ETH_MDIO.op, ETH_MDIO.prtad, ETH_MDIO.devad, ETH_MDIO.mdc_div, ETH_MDIO.data], .device, .p0, .all⟩,
  ⟨.FE_IMU_CTRL, 0x701000, [], 8, false, [FE_IMU_CTRL.cmd, FE_IMU_CTRL.read_len, FE_IMU_CTRL.cmd_len, FE_IMU_CTRL.pulse_sel, FE_IMU_CTRL.div, FE_IMU_CTRL.trigger, FE_IMU_CTRL.mode3, FE_IMU_CTRL.enable], .device, .p0, .all⟩,
  ⟨.FE_IMU_RING, 0x701008, [], 8, false, [FE_IMU_RING.base, FE_IMU_RING.size_log2], .device, .p0, .all⟩,
  ⟨.FE_IMU_STATUS, 0x701010, [], 4, false, [FE_IMU_STATUS.wr_seq, FE_IMU_STATUS.imu_overrun, FE_IMU_STATUS.busy], .device, .p0, .all⟩,
  ⟨.FE_IMU_XFER, 0x701018, [], 8, false, [FE_IMU_XFER.busy, FE_IMU_XFER.start, FE_IMU_XFER.hold_cs, FE_IMU_XFER.len, FE_IMU_XFER.data], .device, .p0, .all⟩]

open Reg in
/-- The registers of chapter 04. -/
def regRows04 : List RegRow := [
  ⟨.FE_ACQ_CTRL, 0x700028, [], 4, false, [FE_ACQ_CTRL.seal_us, FE_ACQ_CTRL.frame_sel], .device, .p0, .all⟩,
  ⟨.FE_PBUF_BASE, 0x700040, [(4, 0x8)], 8, false, [FE_PBUF_BASE.base], .device, .p0, .all⟩,
  ⟨.FE_PBUF_STATUS, 0x700060, [], 8, false, [FE_PBUF_STATUS.closed_number, FE_PBUF_STATUS.held, FE_PBUF_STATUS.closed_buf], .device, .p0, .all⟩,
  ⟨.FE_POSE_CTRL, 0x700080, [], 8, false, [FE_POSE_CTRL.max_extrap_us, FE_POSE_CTRL.base, FE_POSE_CTRL.pose_part, FE_POSE_CTRL.use_imu, FE_POSE_CTRL.en], .device, .p0, .all⟩,
  ⟨.FE_POSE_HEAD, 0x700088, [], 4, false, [FE_POSE_HEAD.head], .device, .posePart, .all⟩,
  ⟨.FE_ACQ_STATUS, 0x700090, [], 8, false, [FE_ACQ_STATUS.extrap_slices, FE_ACQ_STATUS.stale_slices, FE_ACQ_STATUS.pose_bad, FE_ACQ_STATUS.cal_refused_count, FE_ACQ_STATUS.cal_refused_sensor, FE_ACQ_STATUS.cal_refused], .device, .p0, .all⟩,
  ⟨.FE_DROP_CNT, 0x700100, [(7, 0x4)], 4, false, [FE_DROP_CNT.count], .device, .p0, .all⟩,
  ⟨.FE_IMU_GYRO, 0x701020, [], 8, false, [FE_IMU_GYRO.scale, FE_IMU_GYRO.big_endian, FE_IMU_GYRO.neg_z, FE_IMU_GYRO.src_z, FE_IMU_GYRO.neg_y, FE_IMU_GYRO.src_y, FE_IMU_GYRO.neg_x, FE_IMU_GYRO.src_x, FE_IMU_GYRO.off_z, FE_IMU_GYRO.off_y, FE_IMU_GYRO.off_x], .device, .p0, .all⟩,
  ⟨.FE_SENS_CFG, 0x702000, [(16, 0x40)], 8, false, [FE_SENS_CFG.lat_ns, FE_SENS_CFG.en, FE_SENS_CFG.time_mode, FE_SENS_CFG.max_mbps, FE_SENS_CFG.max_kpps], .device, .p0, .all⟩,
  ⟨.FE_SENS_RANGE, 0x702008, [(16, 0x40)], 8, false, [FE_SENS_RANGE.max_range, FE_SENS_RANGE.min_range], .device, .p0, .all⟩,
  ⟨.FE_SENS_EXT, 0x702010, [(16, 0x40)], 32, false, [FE_SENS_EXT.qw, FE_SENS_EXT.qx, FE_SENS_EXT.qy, FE_SENS_EXT.qz, FE_SENS_EXT.tx, FE_SENS_EXT.ty, FE_SENS_EXT.tz], .device, .p0, .all⟩,
  ⟨.FE_DEC_PROG, 0x704000, [(8, 0x100), (8, 0x10)], 16, false, [FE_DEC_PROG.hdr_skip, FE_DEC_PROG.block_stride, FE_DEC_PROG.pt_offset, FE_DEC_PROG.pt_stride, FE_DEC_PROG.sensor, FE_DEC_PROG.cartesian, FE_DEC_PROG.emb_unit, FE_DEC_PROG.step_count, FE_DEC_PROG.pts, FE_DEC_PROG.blocks], .device, .p0, .all⟩,
  ⟨.FE_DEC_STEP, 0x708000, [(8, 0x2000), (8, 0x400), (64, 0x10)], 16, false, [FE_DEC_STEP.bias, FE_DEC_STEP.scale, FE_DEC_STEP.dest, FE_DEC_STEP.scope, FE_DEC_STEP.op, FE_DEC_STEP.width, FE_DEC_STEP.sign, FE_DEC_STEP.big_endian, FE_DEC_STEP.shift, FE_DEC_STEP.bits, FE_DEC_STEP.offset], .device, .p0, .all⟩,
  ⟨.FE_RING, 0x720000, [(16, 0x800), (256, 0x8)], 8, false, [FE_RING.az_corr, FE_RING.elev], .device, .p0, .all⟩,
  ⟨.FE_ZONE_CFG, 0x730000, [(16, 0x100)], 16, false, [FE_ZONE_CFG.z_max, FE_ZONE_CFG.z_min, FE_ZONE_CFG.sensor_mask, FE_ZONE_CFG.nvtx_m1, FE_ZONE_CFG.en], .device, .safetyOwner, .all⟩,
  ⟨.FE_ZONE_VTX, 0x730010, [(16, 0x100), (16, 0x8)], 8, false, [FE_ZONE_VTX.y, FE_ZONE_VTX.x], .device, .safetyOwner, .all⟩,
  ⟨.FE_ZONE_COUNT, 0x731000, [(16, 0x4)], 4, false, [FE_ZONE_COUNT.count], .device, .p0, .all⟩]

open Reg in
/-- The registers of chapter 05. -/
def regRows05 : List RegRow := [
  ⟨.VOX_GEOM, 0x800000, [], 4, false, [VOX_GEOM.geom_gen, VOX_GEOM.edge0], .device, .p0, .all⟩,
  ⟨.VOX_LEVEL, 0x800010, [(4, 0x4)], 4, false, [VOX_LEVEL.en, VOX_LEVEL.sh], .device, .p0, .all⟩,
  ⟨.VOX_ORIGIN, 0x800020, [], 16, false, [VOX_ORIGIN.org_z, VOX_ORIGIN.org_y, VOX_ORIGIN.org_x], .device, .p0, .all⟩,
  ⟨.VOX_SEED, 0x800030, [], 8, false, [VOX_SEED.hash_seed], .device, .p0, .all⟩,
  ⟨.VOX_SALT, 0x800038, [], 8, false, [VOX_SALT.sample_salt], .device, .p0, .all⟩,
  ⟨.VOX_CNT, 0x800040, [(4, 0x8)], 8, false, [VOX_CNT.fail_probe, VOX_CNT.fail_full, VOX_CNT.age_drop, VOX_CNT.cell_sat], .device, .p0, .all⟩,
  ⟨.VOX_STATUS, 0x800060, [], 4, false, [VOX_STATUS.out_of_grid], .device, .p0, .all⟩]

open Reg in
/-- The registers of chapter 06. -/
def regRows06 : List RegRow := [
  ⟨.ARR_CTRL, 0x1001000, [(32, 0x100000)], 4, false, [ARR_CTRL.perf_clr, ARR_CTRL.mv_threshold, ARR_CTRL.ramp_step], .core, .p0, .all⟩,
  ⟨.ARR_STATUS, 0x1001008, [(32, 0x100000)], 4, false, [ARR_STATUS.ramp_level, ARR_STATUS.ramp_dir, ARR_STATUS.mv_busy, ARR_STATUS.arr_busy, ARR_STATUS.transpose], .core, .p0, .all⟩,
  ⟨.ARR_PERF, 0x1001010, [(32, 0x100000), (5, 0x8)], 8, false, [ARR_PERF.count], .core, .p0, .all⟩,
  ⟨.ACC_SLOT, 0x1001800, [(32, 0x100000), (4, 0x4)], 4, false, [ACC_SLOT.size, ACC_SLOT.base], .core, .p0, .all⟩,
  ⟨.ACC_STATUS, 0x1001810, [(32, 0x100000)], 8, false, [ACC_STATUS.int_sat, ACC_STATUS.fp_inf, ACC_STATUS.nan, ACC_STATUS.cvt_sat, ACC_STATUS.lost], .core, .p0, .all⟩]

open Reg in
/-- The registers of chapter 07. -/
def regRows07 : List RegRow := [
  ⟨.DVL_CTRL, 0x1002000, [(32, 0x100000)], 4, false, [DVL_CTRL.perf_clr, DVL_CTRL.ahead_slots, DVL_CTRL.strip_fill, DVL_CTRL.strip_audit], .core, .p0, .all⟩,
  ⟨.DVL_STATUS, 0x1002008, [(32, 0x100000)], 8, false, [DVL_STATUS.scatter_oob, DVL_STATUS.err_kt, DVL_STATUS.err_group, DVL_STATUS.err_cause, DVL_STATUS.busy, DVL_STATUS.err], .core, .p0, .all⟩,
  ⟨.DVL_STRIP_CNT, 0x1002010, [(32, 0x100000)], 8, false, [DVL_STRIP_CNT.sites_kept, DVL_STRIP_CNT.sites_tested], .core, .p0, .all⟩,
  ⟨.DVL_STRIP_MISS, 0x1002018, [(32, 0x100000)], 4, false, [DVL_STRIP_MISS.strip_miss], .core, .p0, .all⟩,
  ⟨.DVL_PERF, 0x1002020, [(32, 0x100000), (6, 0x8)], 8, false, [DVL_PERF.count], .core, .p0, .all⟩]

open Reg in
/-- The registers of chapter 08. -/
def regRows08 : List RegRow := [
  ⟨.SEL_CTRL, 0x1002800, [(32, 0x100000)], 4, false, [SEL_CTRL.perf_clr, SEL_CTRL.merge_timeout_us], .core, .p0, .all⟩,
  ⟨.SEL_STATUS, 0x1002808, [(32, 0x100000)], 8, false, [SEL_STATUS.nan_total, SEL_STATUS.tie_events, SEL_STATUS.overflow_events, SEL_STATUS.merge_timeouts], .core, .p0, .all⟩,
  ⟨.SEL_PERF, 0x1002810, [(32, 0x100000), (4, 0x8)], 8, false, [SEL_PERF.count], .core, .p0, .all⟩,
  ⟨.SRT_CTRL, 0x1003000, [(32, 0x100000)], 4, false, [SRT_CTRL.perf_clr], .core, .p0, .all⟩,
  ⟨.SRT_STATUS, 0x1003008, [(32, 0x100000)], 8, false, [SRT_STATUS.nan_keys, SRT_STATUS.last_q, SRT_STATUS.busy], .core, .p0, .all⟩,
  ⟨.SRT_PERF, 0x1003010, [(32, 0x100000), (3, 0x8)], 8, false, [SRT_PERF.count], .core, .p0, .all⟩]

open Reg in
/-- The registers of chapter 09. -/
def regRows09 : List RegRow := [
  ⟨.TBL_CTRL, 0x900000, [], 4, false, [TBL_CTRL.perf_clr, TBL_CTRL.rebuild_share, TBL_CTRL.sweep_rate], .device, .p0, .all⟩,
  ⟨.TBL_VAULT, 0x900008, [], 8, false, [TBL_VAULT.upd_log2, TBL_VAULT.rep_log2, TBL_VAULT.size, TBL_VAULT.base], .device, .p0, .all⟩,
  ⟨.TBL_STATUS, 0x900010, [], 8, false, [TBL_STATUS.upd_overflow, TBL_STATUS.mig_deferred, TBL_STATUS.rep_fail, TBL_STATUS.rb_lost, TBL_STATUS.upd_dropped, TBL_STATUS.rb_table, TBL_STATUS.rb_err, TBL_STATUS.rb_busy, TBL_STATUS.rb_done, TBL_STATUS.step_busy], .device, .p0, .all⟩,
  ⟨.TBL_PF_BASE, 0x900018, [], 8, false, [TBL_PF_BASE.en, TBL_PF_BASE.base], .device, .p0, .all⟩,
  ⟨.TBL_REBUILD, 0x900020, [], 4, false, [TBL_REBUILD.start, TBL_REBUILD.stop, TBL_REBUILD.table], .device, .p0, .all⟩,
  ⟨.TBL_PERF, 0x900040, [(9, 0x8)], 8, false, [TBL_PERF.count], .device, .p0, .all⟩,
  ⟨.TBL_TAB_CTL, 0x901000, [(16, 0x200)], 4, false, [TBL_TAB_CTL.rep_thr, TBL_TAB_CTL.dem_thr, TBL_TAB_CTL.prom_thr, TBL_TAB_CTL.sel], .device, .p0, .all⟩,
  ⟨.TBL_TAB_OPT, 0x901010, [(16, 0x200)], 24, false, [TBL_TAB_OPT.lambda, TBL_TAB_OPT.eps, TBL_TAB_OPT.beta2, TBL_TAB_OPT.beta1, TBL_TAB_OPT.eta], .device, .p0, .all⟩,
  ⟨.TBL_TAB_STATUS, 0x901028, [(16, 0x200)], 8, false, [TBL_TAB_STATUS.dropped, TBL_TAB_STATUS.ver, TBL_TAB_STATUS.draining, TBL_TAB_STATUS.active], .device, .p0, .all⟩,
  ⟨.TBL_TAB_STEPS, 0x901030, [(16, 0x200)], 8, false, [TBL_TAB_STEPS.steps], .device, .p0, .all⟩,
  ⟨.TBL_TAB_CFG, 0x901080, [(16, 0x200), (2, 0x80)], 8, false, [TBL_TAB_CFG.en, TBL_TAB_CFG.frozen, TBL_TAB_CFG.replicate, TBL_TAB_CFG.prefetch, TBL_TAB_CFG.mode, TBL_TAB_CFG.opt, TBL_TAB_CFG.state_fmt, TBL_TAB_CFG.index, TBL_TAB_CFG.res_shift, TBL_TAB_CFG.rows_log2], .device, .p0, .all⟩,
  ⟨.TBL_TAB_HASH, 0x901088, [(16, 0x200), (2, 0x80)], 8, false, [TBL_TAB_HASH.tab_seed], .device, .p0, .all⟩,
  ⟨.TBL_TAB_BASE, 0x901090, [(16, 0x200), (2, 0x80)], 16, false, [TBL_TAB_BASE.state_base, TBL_TAB_BASE.dir_base], .device, .p0, .all⟩,
  ⟨.TBL_TAB_POOL, 0x9010A0, [(16, 0x200), (2, 0x80), (3, 0x10)], 16, false, [TBL_TAB_POOL.free_init, TBL_TAB_POOL.slots, TBL_TAB_POOL.base], .device, .p0, .all⟩]

open Reg in
/-- The registers of chapter 10. -/
def regRows10 : List RegRow := [
  ⟨.SPM_CTRL, 0x1004000, [(32, 0x100000)], 4, false, [SPM_CTRL.perf_clr, SPM_CTRL.steal_age], .core, .p0, .all⟩,
  ⟨.SPM_STATUS, 0x1004008, [(32, 0x100000)], 8, false, [SPM_STATUS.denied_count, SPM_STATUS.last_src, SPM_STATUS.last_part, SPM_STATUS.last_nowin, SPM_STATUS.last_win, SPM_STATUS.own_err, SPM_STATUS.swapin_drop, SPM_STATUS.denied], .core, .p0, .all⟩,
  ⟨.SPM_CHUNK_OWN, 0x1004100, [(32, 0x100000), (48, 0x4)], 4, false, [SPM_CHUNK_OWN.assigned, SPM_CHUNK_OWN.shared, SPM_CHUNK_OWN.ctx], .core, .p0, .all⟩,
  ⟨.SPM_WIN, 0x1004200, [(32, 0x100000), (8, 0x8)], 8, false, [SPM_WIN.open, SPM_WIN.close, SPM_WIN.rd, SPM_WIN.wr, SPM_WIN.ext, SPM_WIN.slot, SPM_WIN.part_mask, SPM_WIN.counter, SPM_WIN.handle, SPM_WIN.core_mask], .core, .p0, .all⟩,
  ⟨.SPM_ARRIVAL, 0x1004300, [(32, 0x100000), (64, 0x4)], 4, false, [SPM_ARRIVAL.count], .core, .p0, .all⟩,
  ⟨.SPM_PERF, 0x1004400, [(32, 0x100000), (4, 0x8)], 8, false, [SPM_PERF.count], .core, .p0, .all⟩]

open Reg in
/-- The registers of chapter 11. -/
def regRows11 : List RegRow := [
  ⟨.SO_VALUE, 0xD00000, [(16384, 0x8)], 8, false, [SO_VALUE.value], .device, .soRule, .soRule⟩,
  ⟨.SO_CTRL, 0xD20000, [], 8, false, [SO_CTRL.denied_count, SO_CTRL.reset, SO_CTRL.reset_err, SO_CTRL.object], .device, .any, .all⟩,
  ⟨.SO_ATTR, 0xD30000, [(16384, 0x4)], 4, false, [SO_ATTR.own_valid, SO_ATTR.owner, SO_ATTR.share, SO_ATTR.arm, SO_ATTR.sat, SO_ATTR.vector], .device, .soRule, .all⟩,
  ⟨.SO_ARM, 0xD40000, [(16384, 0x8)], 8, false, [SO_ARM.target], .device, .soRule, .all⟩,
  ⟨.SO_CTX_CFG, 0xD21000, [(256, 0x40)], 8, false, [SO_CTX_CFG.save_off, SO_CTX_CFG.en, SO_CTX_CFG.part, SO_CTX_CFG.core], .device, .p0, .ctxOwnerOrP0⟩,
  ⟨.SO_CTX_BIND, 0xD21008, [(256, 0x40)], 8, false, [SO_CTX_BIND.bind, SO_CTX_BIND.prio, SO_CTX_BIND.prog], .device, .ctxOwner, .ctxOwnerOrP0⟩,
  ⟨.SO_CTX_STATE, 0xD21010, [(256, 0x40)], 8, false, [SO_CTX_STATE.resume, SO_CTX_STATE.kill, SO_CTX_STATE.bind_err, SO_CTX_STATE.fault_so_en, SO_CTX_STATE.fault_so, SO_CTX_STATE.slot, SO_CTX_STATE.resident, SO_CTX_STATE.state], .device, .ctxOwner, .ctxOwnerOrP0⟩,
  ⟨.SO_CTX_EXC, 0xD21018, [(256, 0x40)], 16, false, [SO_CTX_EXC.pc_next, SO_CTX_EXC.pc_fault, SO_CTX_EXC.more, SO_CTX_EXC.code], .device, .any, .ctxOwnerOrP0⟩,
  ⟨.SO_CTX_INFO, 0xD21028, [(256, 0x40)], 8, false, [SO_CTX_INFO.info], .device, .any, .ctxOwnerOrP0⟩,
  ⟨.CORE_STATUS, 0x1000010, [(32, 0x100000)], 8, false, [CORE_STATUS.ctx, CORE_STATUS.valid, CORE_STATUS.running, CORE_STATUS.run_slot], .core, .any, .all⟩,
  ⟨.CORE_CTR_GRP, 0x10000C0, [(32, 0x100000), (8, 0x4)], 4, false, [CORE_CTR_GRP.assigned, CORE_CTR_GRP.shared, CORE_CTR_GRP.ctx], .core, .p0, .all⟩]

open Reg in
/-- The registers of chapter 14. -/
def regRows14 : List RegRow := [
  ⟨.CDMA_CTRL, 0x1005018, [(32, 0x100000), (8, 0x40)], 8, false, [CDMA_CTRL.start, CDMA_CTRL.bg, CDMA_CTRL.prio, CDMA_CTRL.swap, CDMA_CTRL.mode, CDMA_CTRL.cfmt, CDMA_CTRL.share, CDMA_CTRL.so_en, CDMA_CTRL.so, CDMA_CTRL.counter], .core, .p0, .all⟩,
  ⟨.CDMA_SRC, 0x1005000, [(32, 0x100000), (8, 0x40)], 8, false, [CDMA_SRC.value], .core, .p0, .all⟩,
  ⟨.CDMA_DST, 0x1005008, [(32, 0x100000), (8, 0x40)], 8, false, [CDMA_DST.value], .core, .p0, .all⟩,
  ⟨.CDMA_CNT, 0x1005010, [(32, 0x100000), (8, 0x40)], 8, false, [CDMA_CNT.value], .core, .p0, .all⟩,
  ⟨.DMA_SRC, 0xB00000, [(32, 0x40)], 8, false, [DMA_SRC.value], .device, .channelOwner, .all⟩,
  ⟨.DMA_DST, 0xB00008, [(32, 0x40)], 8, false, [DMA_DST.value], .device, .channelOwner, .all⟩,
  ⟨.DMA_CNT, 0xB00010, [(32, 0x40)], 8, false, [DMA_CNT.value], .device, .channelOwner, .all⟩,
  ⟨.CDMA_STATUS, 0x1005020, [(32, 0x100000), (8, 0x40)], 8, false, [CDMA_STATUS.fail_addr, CDMA_STATUS.cause, CDMA_STATUS.ctx, CDMA_STATUS.halted, CDMA_STATUS.cfg_err, CDMA_STATUS.waiting, CDMA_STATUS.busy], .core, .p0, .all⟩,
  ⟨.DMA_STATUS, 0xB00020, [(32, 0x40)], 8, false, [DMA_STATUS.fail_addr, DMA_STATUS.cause, DMA_STATUS.halted, DMA_STATUS.cfg_err, DMA_STATUS.waiting, DMA_STATUS.busy], .device, .channelOwner, .all⟩,
  ⟨.DMA_OWN, 0xB00800, [(32, 0x4)], 4, false, [DMA_OWN.part], .device, .p0, .all⟩,
  ⟨.DMA_PRINT_RING, 0xB01000, [(4, 0x20)], 8, false, [DMA_PRINT_RING.en, DMA_PRINT_RING.base, DMA_PRINT_RING.slot_log2, DMA_PRINT_RING.size_log2], .device, .p0, .all⟩,
  ⟨.DMA_CTRL, 0xB00018, [(32, 0x40)], 8, false, [DMA_CTRL.start, DMA_CTRL.bg, DMA_CTRL.prio, DMA_CTRL.swap, DMA_CTRL.mode, DMA_CTRL.cfmt, DMA_CTRL.share, DMA_CTRL.so_en, DMA_CTRL.done_so, DMA_CTRL.so_on_halt, DMA_CTRL.bell_en, DMA_CTRL.bell_w], .device, .channelOwner, .all⟩,
  ⟨.DMA_PRINT_PTR, 0xB01008, [(4, 0x20)], 8, false, [DMA_PRINT_PTR.head, DMA_PRINT_PTR.tail], .device, .p0OrPart, .p0OrPart⟩,
  ⟨.DMA_PRINT_SO, 0xB01010, [(4, 0x20)], 8, false, [DMA_PRINT_SO.so_en, DMA_PRINT_SO.stale, DMA_PRINT_SO.full_wait, DMA_PRINT_SO.print_so], .device, .p0OrPart, .p0OrPart⟩]

open Reg in
/-- The registers of chapter 15. -/
def regRows15 : List RegRow := [
  ⟨.MEM_CFG, 0xA00000, [], 4, false, [MEM_CFG.trained, MEM_CFG.installed_gib, MEM_CFG.cfg_err, MEM_CFG.ranks, MEM_CFG.density, MEM_CFG.rate], .device, .p0, .all⟩,
  ⟨.MEM_CLASS, 0xA00008, [], 8, false, [MEM_CLASS.full], .device, .p0, .all⟩,
  ⟨.MEM_MAINT, 0xA00010, [], 4, false, [MEM_MAINT.retrain_ms, MEM_MAINT.zq_ms], .device, .p0, .all⟩,
  ⟨.MEM_STATUS, 0xA00018, [], 8, false, [MEM_STATUS.pause_count, MEM_STATUS.pending, MEM_STATUS.paused], .device, .p0, .all⟩,
  ⟨.MEM_ZERO, 0xA00020, [], 8, false, [MEM_ZERO.start, MEM_ZERO.busy, MEM_ZERO.nblocks, MEM_ZERO.first], .device, .p0, .all⟩,
  ⟨.ECC_CTRL, 0xA00100, [], 8, false, [ECC_CTRL.scrub_dram_h, ECC_CTRL.scrub_sram_min, ECC_CTRL.leak_ms, ECC_CTRL.auto_remap, ECC_CTRL.so_en, ECC_CTRL.ecc_so], .device, .p0, .all⟩,
  ⟨.ECC_STATUS, 0xA00108, [], 8, false, [ECC_STATUS.uncorr_count, ECC_STATUS.page_corr_count, ECC_STATUS.remap_count, ECC_STATUS.remap_full, ECC_STATUS.uncorr], .device, .p0, .all⟩,
  ⟨.ECC_BUCKET, 0xA00200, [(128, 0x4)], 4, false, [ECC_BUCKET.ovf, ECC_BUCKET.threshold, ECC_BUCKET.count], .device, .p0, .all⟩,
  ⟨.ECC_LOG_PTR, 0xA00800, [], 4, false, [ECC_LOG_PTR.events, ECC_LOG_PTR.next], .device, .p0, .all⟩,
  ⟨.ECC_LOG, 0xA00900, [(32, 0x20)], 32, false, [ECC_LOG.scrub, ECC_LOG.bit, ECC_LOG.syndrome, ECC_LOG.type, ECC_LOG.unit, ECC_LOG.address, ECC_LOG.seconds, ECC_LOG.ns], .device, .p0, .p0OrSafetyOwner⟩,
  ⟨.ECC_DIAG, 0xA01000, [], 8, false, [ECC_DIAG.arm, ECC_DIAG.hold, ECC_DIAG.addr], .device, .p0, .p0OrSafetyOwner⟩,
  ⟨.ECC_DIAG_CHK, 0xA01008, [], 8, false, [ECC_DIAG_CHK.read_valid, ECC_DIAG_CHK.syndrome, ECC_DIAG_CHK.check_rd, ECC_DIAG_CHK.check_wr], .device, .p0, .p0OrSafetyOwner⟩,
  ⟨.ECC_REMAP_DRAM, 0xA10000, [(16, 0x100), (32, 0x8)], 8, false, [ECC_REMAP_DRAM.valid, ECC_REMAP_DRAM.page], .remap, .p0, .all⟩,
  ⟨.ECC_REMAP_SRAM, 0xA20000, [(613, 0x80), (16, 0x8)], 8, false, [ECC_REMAP_SRAM.valid, ECC_REMAP_SRAM.line], .remap, .p0, .all⟩]

open Reg in
/-- The registers of chapter 16. -/
def regRows16 : List RegRow := [
  ⟨.CFG_TXN, 0x100000, [], 4, true, [CFG_TXN.begin, CFG_TXN.commit, CFG_TXN.rollback, CFG_TXN.when, CFG_TXN.staged], .device, .any, .all⟩,
  ⟨.CFG_TXN_STATUS, 0x100008, [], 8, true, [CFG_TXN_STATUS.fail_off, CFG_TXN_STATUS.seq, CFG_TXN_STATUS.cause, CFG_TXN_STATUS.status], .device, .any, .all⟩,
  ⟨.CFG_STATUS, 0x100010, [], 8, false, [CFG_STATUS.applied_seq, CFG_STATUS.rwt_discard, CFG_STATUS.conflict_count, CFG_STATUS.pending], .device, .any, .all⟩,
  ⟨.HOST_PCIE_CFG, 0xC00000, [], 4, false, [HOST_PCIE_CFG.x8, HOST_PCIE_CFG.fn_en, HOST_PCIE_CFG.fn0_en], .device, .p0, .all⟩,
  ⟨.HOST_PCI_ID, 0xC00008, [], 4, false, [HOST_PCI_ID.device_id, HOST_PCI_ID.vendor_id], .device, .p0, .all⟩,
  ⟨.HOST_FN_BIND, 0xC00010, [(8, 0x4)], 4, false, [HOST_FN_BIND.part], .device, .p0, .all⟩,
  ⟨.HOST_SAFETY, 0xC00030, [], 4, false, [HOST_SAFETY.owner], .safelight, .p0, .all⟩,
  ⟨.HOST_MCTP, 0xC00040, [], 4, false, [HOST_MCTP.eid_static, HOST_MCTP.smb_addr, HOST_MCTP.smb_speed, HOST_MCTP.smb_en, HOST_MCTP.eid], .device, .p0, .all⟩,
  ⟨.HOST_PART_CTRL, 0xC00100, [(4, 0x20)], 4, false, [HOST_PART_CTRL.reset, HOST_PART_CTRL.stopped, HOST_PART_CTRL.share], .device, .p0, .all⟩,
  ⟨.HOST_HWIN, 0xC00108, [(4, 0x20)], 8, false, [HOST_HWIN.offset], .device, .p0, .ownPart⟩,
  ⟨.HOST_PART_STATUS, 0xC00110, [(4, 0x20)], 8, false, [HOST_PART_STATUS.map_denied, HOST_PART_STATUS.resets, HOST_PART_STATUS.bind_err, HOST_PART_STATUS.share_err, HOST_PART_STATUS.map_err, HOST_PART_STATUS.link_up], .device, .p0, .all⟩,
  ⟨.HOST_MAP, 0xC10000, [(4, 0x8000), (4096, 0x8)], 8, false, [HOST_MAP.valid, HOST_MAP.rd, HOST_MAP.wr, HOST_MAP.page], .device, .p0, .ownPart⟩]

open Reg in
/-- The registers of chapter 17. -/
def regRows17 : List RegRow := [
  ⟨.SAFE_CTRL, 0x400000, [], 4, false, [SAFE_CTRL.key, SAFE_CTRL.restart, SAFE_CTRL.force, SAFE_CTRL.kick, SAFE_CTRL.kick_ms], .device, .safetyOwner, .all⟩,
  ⟨.SAFE_STATUS, 0x400008, [], 8, false, [SAFE_STATUS.withdraw_from, SAFE_STATUS.more, SAFE_STATUS.detail, SAFE_STATUS.cause, SAFE_STATUS.key_err, SAFE_STATUS.restart_err, SAFE_STATUS.warn, SAFE_STATUS.pf_pass, SAFE_STATUS.state], .device, .safetyOwner, .all⟩,
  ⟨.SAFE_TDET, 0x400010, [], 8, false, [SAFE_TDET.sec, SAFE_TDET.ns], .device, .safetyOwner, .all⟩,
  ⟨.SAFE_FAULT_EN, 0x400018, [], 4, false, [SAFE_FAULT_EN.en], .device, .p0, .all⟩,
  ⟨.SAFE_PF_CFG, 0x400020, [], 8, false, [SAFE_PF_CFG.out_base, SAFE_PF_CFG.pf_so, SAFE_PF_CFG.n_out_m1, SAFE_PF_CFG.en, SAFE_PF_CFG.cmp_max_us], .device, .safetyOwner, .all⟩,
  ⟨.SAFE_CHK, 0x400028, [], 8, false, [SAFE_CHK.en, SAFE_CHK.prot_max_us], .device, .safetyOwner, .all⟩,
  ⟨.SAFE_STEST, 0x400030, [], 4, false, [SAFE_STEST.start, SAFE_STEST.release, SAFE_STEST.max_out, SAFE_STEST.core], .device, .p0OrSafetyOwner, .all⟩,
  ⟨.SAFE_STEST_STATUS, 0x400038, [], 8, false, [SAFE_STEST_STATUS.pending, SAFE_STEST_STATUS.out], .device, .safetyOwner, .all⟩,
  ⟨.SAFE_STEST_RESULT, 0x400040, [], 8, false, [SAFE_STEST_RESULT.failed, SAFE_STEST_RESULT.held], .device, .safetyOwner, .all⟩,
  ⟨.SAFE_PF_RESULT, 0x400048, [], 8, false, [SAFE_PF_RESULT.exposure, SAFE_PF_RESULT.first_fail, SAFE_PF_RESULT.n_fail, SAFE_PF_RESULT.hdr_err, SAFE_PF_RESULT.pass], .device, .safetyOwner, .all⟩,
  ⟨.SAFE_COUNT, 0x400050, [], 8, false, [SAFE_COUNT.disagree, SAFE_COUNT.pf_fail, SAFE_COUNT.stray_marks, SAFE_COUNT.frames], .device, .safetyOwner, .all⟩,
  ⟨.SAFE_FRAME, 0x400080, [], 32, false, [SAFE_FRAME.frame], .device, .safetyOwner, .all⟩,
  ⟨.SAFE_WDG, 0x400100, [(16, 0x8)], 8, false, [SAFE_WDG.en, SAFE_WDG.per_core, SAFE_WDG.ref, SAFE_WDG.max_us, SAFE_WDG.min_us], .device, .safetyOwner, .all⟩,
  ⟨.SAFE_ZCHK, 0x400200, [(16, 0x8)], 8, false, [SAFE_ZCHK.chk_en, SAFE_ZCHK.hi, SAFE_ZCHK.lo], .device, .safetyOwner, .all⟩,
  ⟨.SAFE_PF_TAB, 0x410000, [(8192, 0x8)], 8, false, [SAFE_PF_TAB.entry], .device, .p0, .all⟩]

open Reg in
/-- The registers of chapter 18. -/
def regRows18 : List RegRow := [
  ⟨.PWR_LIMIT, 0x200000, [], 4, false, [PWR_LIMIT.floor_cap, PWR_LIMIT.tau_ms, PWR_LIMIT.limit], .device, .p0, .all⟩,
  ⟨.PWR_STATUS, 0x200008, [], 8, false, [PWR_STATUS.power_mw, PWR_STATUS.tj, PWR_STATUS.cap, PWR_STATUS.cclk_step, PWR_STATUS.thermal, PWR_STATUS.gate_err, PWR_STATUS.over_limit, PWR_STATUS.over_count], .device, .p0, .all⟩,
  ⟨.PWR_DROOP, 0x200010, [], 8, false, [PWR_DROOP.stretches, PWR_DROOP.step1, PWR_DROOP.step2, PWR_DROOP.last_core], .device, .p0, .all⟩,
  ⟨.PWR_THERM, 0x200018, [], 4, false, [PWR_THERM.tj_trip, PWR_THERM.tj_throttle], .device, .p0, .all⟩,
  ⟨.PWR_CORE_GATE, 0x200020, [], 8, false, [PWR_CORE_GATE.ready, PWR_CORE_GATE.gate], .device, .p0, .all⟩,
  ⟨.PWR_SLEEP, 0x200030, [], 8, false, [PWR_SLEEP.sleep, PWR_SLEEP.sleep_err, PWR_SLEEP.last_wake, PWR_SLEEP.wake_en], .safelight, .p0, .all⟩,
  ⟨.PWR_ALARM, 0x200038, [], 8, false, [PWR_ALARM.sec, PWR_ALARM.ns], .safelight, .p0, .all⟩,
  ⟨.BOOT_STATUS, 0x300000, [], 8, false, [BOOT_STATUS.reason, BOOT_STATUS.fail_detail, BOOT_STATUS.reset_cause, BOOT_STATUS.start_count, BOOT_STATUS.svn, BOOT_STATUS.slot, BOOT_STATUS.minimal, BOOT_STATUS.done], .safelight, .p0, .all⟩,
  ⟨.BOOT_CTRL, 0x300008, [], 8, false, [BOOT_CTRL.done, BOOT_CTRL.sw_reset, BOOT_CTRL.key, BOOT_CTRL.next_slot], .safelight, .p0, .all⟩,
  ⟨.BOOT_RESUME, 0x300010, [], 16, false, [BOOT_RESUME.entry, BOOT_RESUME.pages, BOOT_RESUME.base], .retained, .p0, .all⟩,
  ⟨.BOOT_RETAIN, 0x300020, [(8, 0x4)], 4, false, [BOOT_RETAIN.data], .retained, .p0, .all⟩,
  ⟨.SEC_LOCK, 0x300040, [], 4, false, [SEC_LOCK.lock, SEC_LOCK.otp_err, SEC_LOCK.jtag_open, SEC_LOCK.locked], .device, .p0, .all⟩,
  ⟨.SEC_KEY, 0x300100, [(4, 0x8)], 4, false, [SEC_KEY.programmed, SEC_KEY.revoked, SEC_KEY.revoke, SEC_KEY.in_use], .device, .p0, .all⟩,
  ⟨.SEC_ROLLBACK, 0x300200, [], 8, false, [SEC_ROLLBACK.advance, SEC_ROLLBACK.target, SEC_ROLLBACK.count], .device, .p0, .all⟩,
  ⟨.SEC_MEASURE, 0x300300, [], 8, false, [SEC_MEASURE.extend, SEC_MEASURE.type, SEC_MEASURE.entry], .device, .p0, .all⟩,
  ⟨.SEC_MEASURE_DATA, 0x300400, [(8, 0x8)], 8, false, [SEC_MEASURE_DATA.data], .device, .p0, .all⟩]

/-- The register index, Table 19-3 (R483). -/
def regRows : List RegRow :=
  regRows00 ++ regRows02 ++ regRows03 ++ regRows04 ++ regRows05 ++ regRows06 ++ regRows07 ++ regRows08 ++ regRows09 ++ regRows10 ++ regRows11 ++ regRows14 ++ regRows15 ++ regRows16 ++ regRows17 ++ regRows18

end Sys2Proof.Machine
end

