-- ==== Sys2Proof/Machine/State.lean ====
section
/-! DEFINITION. Machine/State.lean: the state of the N32, as plain data. Registers of Table 19-3 live in one sparse
store of fields (`csr`); everything the rules imply beside them has a field of its own. -/
namespace Sys2Proof.Machine

/-- The register store: (bit address of a field in CSR space, value) in rising order of address, with no entry equal
to the field's reset value; an unlisted field holds its reset value (Machine/Regs.lean). -/
abbrev Csr := List (Nat × Nat)

/-! ### Clock (chapter 3) -/

/-- The local clock (R67 to R73): seconds, nanoseconds and fraction of 2^-32 ns, an increment (ns, fraction, clamped) or
step that awaits the next TCLK edge, a refused step, whether a step has been applied since cold reset and the latest one,
the count of TCLK edges since cold reset, and how far its rate alone brought it to its present reading at the latest edge, in
2^-32 ns: 0 where a step did (R36). -/
structure Clock where
  sec      : Nat
  ns       : Nat
  frac     : Nat
  nextIncr : Option (Nat × Nat × Bool)
  step     : Option Int
  heldStep : Option Int
  stepped  : Bool
  lastStep : Int
  tclk     : Nat
  swept    : Nat
  deriving DecidableEq, Repr

/-- A pulse output (R83 to R85): the scheduled time of the next leading edge and of the trailing edge of the pulse in
progress, in ns since the clock's epoch, and whether the output is at its active level. -/
structure Pulse where
  lead   : Option Nat
  trail  : Option Nat
  active : Bool
  deriving DecidableEq, Repr

/-- A trigger of the IMU port (R88, Table 3-5): its stamp, seq, step_gen and step_pending. -/
structure ImuTrig where
  sec  : Nat
  ns   : Nat
  seq  : Nat
  gen  : Nat
  pend : Bool
  deriving DecidableEq, Repr

/-- The IMU port (R87 to R90): the next seq, the read in progress, the held trigger, whether IMU_CS_N is held asserted, and the
records that the largest ring can hold (time in ns, raw bytes), newest first, as the front end takes them (R105). -/
structure Imu where
  seq     : Nat
  reading : Option ImuTrig
  held    : Option ImuTrig
  csHeld  : Bool
  recs    : List (Nat × List Byte)
  deriving DecidableEq, Repr

/-! ### Contexts and cores (chapters 11 to 13) -/

/-- The ports of a mesh router (R23, R26): toward its four neighbours or the blocks at the edge, toward its own core, bank and slice, and the
second local port of two interior routers. -/
inductive MeshPort where
  | north | east | south | west | home | second
  deriving DecidableEq, Repr

/-- The traffic classes of Table 1-3, the highest first. -/
inductive Traffic where
  | c0 | c1 | c2
  deriving DecidableEq, Repr

/-- A packet in the mesh (R23, R24): what it belongs to (the number of an operation), its class, the router at which it entered, the router and
port at which it leaves, the router it has come to, the port by which it came there, and the FCLK from which it waits at its output. -/
structure Packet where
  id   : Nat
  cls  : Traffic
  src  : CoreId
  dst  : CoreId
  exit : MeshPort
  loc  : CoreId
  port : MeshPort
  due  : Nat
  deriving DecidableEq, Repr

/-- How far a wait on an object has come (R298, R339): its registration (an operation of that number) is on its way; the home has answered,
the answer saying whether the target was met; or the context waits. -/
inductive WaitPhase where
  | sent (seq : Nat)
  | answered (met : Bool)
  | held
  deriving DecidableEq, Repr

/-- What holds a context's issue (R285, R297 to R299): nothing; the result of an object operation, by the number of
that operation; a wait on an object or on an arrival counter, with its register and its expiry in TCLK edges. -/
inductive Stop where
  | clear
  | result (seq : Nat) (d : Fin 32) (v : Option W64)
  | object (o : SoId) (target : W64) (d : Fin 32) (expiry : Option Nat) (phase : WaitPhase)
  | counter (k : CtrId) (target : BitVec 32) (d : Fin 32) (expiry : Option Nat)
  deriving DecidableEq, Repr

/-- What a context becomes once the counted instructions it has issued complete (R292, R308). -/
inductive Ending where
  | none | halting | faulting
  deriving DecidableEq, Repr

/-- A held weight set (R347): the tile descriptor of the wld that made it, whether its cell contents are lost, its channels, its
image (R183), and the address of a poisoned line that its weights came from, if any (R169). -/
structure HeldSet where
  tile  : BitVec 256
  lost  : Bool
  chans : List Nat
  image : BitVec 16384
  bad   : Option Nat
  deriving DecidableEq, Repr

/-- The parity slot of a page (R386): for each copy, how its 64 parity bytes differ from the parity of the page as it is stored, and whether
its CRC holds. -/
structure ParitySlot where
  a    : Nat
  b    : Nat
  crcA : Bool
  crcB : Bool
  deriving DecidableEq, Repr

/-- An image that the Developer has prepared ahead in a staging slot (R185): the slot, the instruction and its context, which of its passes
it is for, the image, and the cycle of the core at which it is complete. -/
structure Ready where
  slot  : Nat
  seq   : Nat
  ctx   : CtxId
  pass  : Nat
  image : BitVec 16384
  since : Nat
  deriving DecidableEq, Repr

/-- What a fixed-latency instruction leaves when its latency is over (R283, R319): the bits `m` of a register, a window that opens to
remote requesters (R336), or a line of the core's scratchpad that an earlier read may still see as it was (R284). -/
inductive Effect where
  | s (d : Fin 32) (v : W64)
  | p (d : Fin 8) (m v : W64)
  | v (d : Fin 32) (m v : VecReg)
  | t (d : Fin 16) (m v : BitVec 256)
  | window (w : Fin 8)
  | line (l : Nat) (old : Nat)
  deriving DecidableEq, Repr

/-- An effect and the issue cycles until it stands. -/
structure Late where
  left   : Nat
  effect : Effect
  deriving DecidableEq, Repr

/-- A stream context (R287, R290 to R293): registers, handle table, priority, its stop, its ending, when it last ran
(a rising stamp), the quantum used in tenths of a CCLK, its held-set records A and S as the instructions issued so far name them (R347),
and those records as the instructions executed so far left them, whether its accumulators were lost
at a swap-out (R160), the advances of fault_so owed (R308), the effects of fixed-latency instructions that do not stand yet, in issue
order (R319), and the core in whose scratchpad its handles lie (R262). State, slot and residency stand in SO_CTX_STATE. -/
structure Ctx where
  pc       : BitVec 48
  s        : Vector W64 32
  v        : Vector VecReg 32
  p        : Vector W64 8
  t        : Vector (BitVec 256) 16
  handles  : Vector (BitVec 128) 256
  prio     : Nat
  stop     : Stop
  ending   : Ending
  lastRan  : Nat
  quantum  : Nat
  heldA    : Option (BitVec 256)
  heldS    : Option (BitVec 256)
  weightsA : Option HeldSet
  weightsS : Option HeldSet
  accLost  : Bool
  swapped  : Bool
  owed     : Nat
  late     : List Late
  spm      : CoreId
  deriving DecidableEq, Repr

/-- Object operations of Table 11-4. -/
inductive SoKind where
  | read | add | signal
  deriving DecidableEq, Repr

/-- An operation of a context that has been issued and not yet performed (R283, R297, R301, R329, R337). A vector
access carries the predicate mask it was issued under. -/
inductive FlightOp where
  | load (addr : W64) (bytes : Nat) (sgn : Bool) (d : Fin 32) (k : CtrId)
  | store (addr : W64) (bytes : Nat) (v : W64) (last : Bool) (k : Option CtrId)
  | vload (addr : W64) (d : Fin 32) (mask : W64) (k : CtrId)
  | vstore (addr : W64) (v : VecReg) (mask : W64) (last : Bool) (k : Option CtrId)
  | csrRead (off bytes : Nat) (d : Fin 32) (k : CtrId)
  | csrWrite (off bytes : Nat) (v : W64) (k : CtrId)
  | fence (k : CtrId)
  | so (kind : SoKind) (o : SoId) (x : W64)
  | register (o : SoId)
  deriving DecidableEq, Repr

/-- One issued operation: its issue number, context, core and the address of its instruction, and the FCLK at which the last of its packets has
left the mesh so far. -/
structure Flight where
  seq   : Nat
  ctx   : CtxId
  core  : CoreId
  pc    : BitVec 48
  op    : FlightOp
  since : Nat
  deriving DecidableEq, Repr

/-- A compute instruction that has been issued (R342 to R345): its words, the values its source fields held at issue
as scalars (a, b, c, d), its tile descriptor, the vector operand of mv, whether it has started, the core's cycle count when it did,
how many passes it has done (of a table-class instruction: requests formed), whether its context has been swapped out since, what its
passes have met: the address of a poisoned line (R169), rows an audit counts (R204), updates dropped outside the region (R191); the scalar and
vector registers that it names, whether the program has written one of them since its issue, the scratchpad lines that the program has written
since, those that the instruction has written (R345), and the lines that its results will change, with their new contents, once it has started
(R284). -/
structure Issued where
  seq     : Nat
  ctx     : CtxId
  slot    : Fin 4
  pc      : BitVec 48
  w       : W64
  x       : W64
  ra      : W64
  rb      : W64
  rc      : W64
  rd      : W64
  tile    : BitVec 256
  vb      : VecReg
  started : Bool
  since   : Nat
  done    : Nat
  lost    : Bool
  met     : Option Nat
  missed  : List Nat
  oob     : Nat
  names   : List (Fin 32)
  vnames  : List (Fin 32)
  spoilt  : Bool
  wrote   : List Nat
  laid    : List Nat
  will    : List (Nat × Nat)
  deriving DecidableEq, Repr

/-- One entry of the gather buffer (R270): the physical line, its pending bytes (byte number, value), and the CCLK
count at which it was taken. -/
structure Gather where
  line  : Nat
  bytes : List (Nat × Byte)
  since : Nat
  deriving DecidableEq, Repr

/-- Where a Print-mode channel stands (R367): reading its payload, at step 2 waiting for the comparison, at step 3
waiting for a slot, with the payload in the engine's Print buffer and the answer of the comparison. -/
inductive PrintPhase where
  | reading
  | comparing
  | ready (agreed : Bool)
  | full (agreed : Bool)
  deriving DecidableEq, Repr

/-- Why a DMA beat cannot be made: cause (R373), address, exception. -/
structure Failure where
  cause : Nat
  addr  : Nat
  exc   : Nat × Nat
  deriving DecidableEq, Repr

/-- A check of Table 7-5 that failed: cause, tile row, tile column. -/
structure TileErr where
  cause : Nat
  kt    : Nat
  nt    : Nat
  deriving DecidableEq, Repr

/-- What a place of a DMA channel's staging buffer holds (R360): a beat to be written, its address, its bytes and whether it is the
transfer's last; or the place at which the channel halts (R373). -/
inductive Beat where
  | data (addr : Nat) (bytes : List Byte) (last : Bool)
  | stop (f : Failure) (tile : Option TileErr)
  deriving DecidableEq, Repr

/-- How far a compress channel has re-encoded its matrix (R366): the source's 32 header bytes, the tile column, the source offset of the
next tile with its tile row (none: the column's group entry is not read yet), the destination offsets of the columns so far, the bytes
encoded that are not staged yet with the address they go to, the bytes of tiles encoded so far, whether the bytes are the header's, and
whether everything has been staged. -/
structure Enc where
  head   : List Byte
  col    : Nat
  at'    : Option (Nat × Nat)
  table  : List Nat
  out    : List Byte
  dst    : Nat
  total  : Nat
  header : Bool
  fin    : Bool
  deriving DecidableEq, Repr

/-- A DMA channel in progress (R360 to R375): start order, acting context and the address of its dma instruction (core channels), the
row and the byte of it that the next write is at, credit and the cycle of its engine at which it was last counted, the Print phase and
the payload read; the staging buffer, oldest beat first, the row and byte of the next read, the bytes read already of a swap unit that
reaches into the next beat, the beats left of the burst begun (R369), and a compress channel's progress. Its registers stand in CDMA_*
and DMA_*. -/
structure Chan where
  seq     : Nat
  ctx     : CtxId
  pc      : BitVec 48
  row     : Nat
  pos     : Nat
  credit  : Nat
  since   : Nat
  phase   : PrintPhase
  payload : List Byte
  stage   : List Beat
  rrow    : Nat
  rpos    : Nat
  carry   : List Byte
  burst   : Nat
  enc     : Option Enc
  deriving DecidableEq, Repr

/-- The live list of a context slot in the selection unit (R211): the type and k it was started with, its entries (value bits,
index) from the largest down, the valid elements considered, the NaNs met, the elements that tie with entry k − 1, and whether a
poisoned element was met, and the indices of poisoned elements (R209, R396). -/
structure Live where
  type    : Nat
  k       : Nat
  entries : List (Nat × Nat)
  seen    : Nat
  nans    : Nat
  ties    : Nat
  poison  : Bool
  taint   : List Nat
  deriving DecidableEq, Repr

/-- A merge under way (R217): the level it is at, how often it has received, the TCLK edge and the core's cycle count of its arrival
at the level, whether a received list did not fit, whether it has sent its list, the exception a denied line raised, its list with the
indices of its poisoned entries, the window's counter with its value when the merge began, and the TCLK edges at which it has advanced
since (R220, R358). -/
structure Climb where
  level  : Nat
  got    : Nat
  sinceT : Nat
  sinceC : Nat
  wrong  : Bool
  sent   : Bool
  denied : Option (Nat × Nat)
  list   : List Byte
  taint  : List Nat
  ctr    : CtrId
  base   : BitVec 32
  times  : List Nat
  deriving DecidableEq, Repr

/-- One core (R22, R262, R273, R282, R344): the contexts in its slots, the slot that issues, its clock in tenths of a
CCLK cycle, the CCLK tenths each partition used in this share period (R415), the contexts that opened its windows, its
gather buffer, its counted instructions by class in issue order, its DMA channels with the channels that hold the Print
buffer in start order, its accumulator windows as latched at residency (base, size in the units of Table 6-10), whether its clock is
stretched (R462), the live lists of its slots (R211),
the merge under way, its accumulator buffer (entry of 4 bytes, value) with the entries that are poisoned (R156, R169), the active and
shadow weight registers of its cells and its staging buffer (R145, R147, R153) with the slot written next, whether the image in
the cells came from a poisoned staging word (R395), the images prepared ahead (R185), the cycle at which the Developer's last image is complete and that from which the arrays' last pass lets another
begin (R151, R185), the cycle count of the last ramp step (R162), the threshold of its latest test strip (R203), and the DMA channel
granted last at each prio (R369). -/
structure Core where
  slots    : Vector (Option CtxId) 4
  run      : Option (Fin 4)
  cclk     : Nat
  used     : Vector Nat 4
  winOwner : Vector CtxId 8
  gather   : List Gather
  array    : List Issued
  grid     : List Issued
  select   : List Issued
  sort     : List Issued
  table    : List Issued
  dma      : Vector (Option Chan) 8
  printQ   : List (Fin 8)
  accWin   : Vector (Nat × Nat) 4
  stretch  : Bool
  lists    : Vector (Option Live) 4
  climb    : Option Climb
  acc      : List (Nat × Nat)
  accBad   : List Nat
  active   : BitVec 16384
  shadow   : BitVec 16384
  staging  : Vector (BitVec 16384) 32
  cellBad  : Bool
  ring     : Nat
  prep     : List Ready
  devAt    : Nat
  clearAt  : Nat
  rampC    : Nat
  thr      : Nat
  dmaLast  : Vector Nat 8
  deriving DecidableEq, Repr

/-! ### Exposures (chapter 2) -/

/-- The record of one exposure (R37 to R40, R50, R61, R110): its number, the clock readings at open and close, the TCLK edge of its
open, its slices, the clock reading at the start of each slice so far, whether it is an overrun, its counts, the points kept of each sensor, the zone counts, whether a slice was
extrapolated or stale and a step was applied while it was open, the slices sealed, the slice directory (records before, records,
flags), its buffer, whether its descriptor is written, the settings latched at step 3 of R38 for its processing (active
set, deadline in ns), the reference pose (binary64: position in m, quaternion), whether it is complete, the edges of its completion and
its close, what the checker found, the registers as latched at step 3 for its processing and at step 5 for its acquisition. -/
structure Exp where
  num       : Nat
  openNs    : Nat
  closeNs   : Option Nat
  openT     : Nat
  slices    : Nat
  starts    : List Nat
  overrun   : Bool
  accepted  : Nat
  dropped   : Nat
  sensors   : List (Nat × Nat)
  zones     : Vector Nat 16
  extrap    : Bool
  stale     : Bool
  stepped   : Bool
  seals     : Nat
  dir       : List (Nat × Nat × Nat)
  buf       : Option (Fin 4)
  described : Bool
  active    : BitVec 32
  limitNs   : Nat
  refPose   : List Nat
  complete  : Bool
  doneT     : Nat
  closeT    : Nat
  compared  : Bool
  missed    : Bool
  disagreed : Bool
  cfg       : Csr
  acq       : Csr
  deriving DecidableEq, Repr

/-! ### Configuration transactions (chapter 16) -/

/-- One staged entry: CSR offset, width in bytes, value (R420). -/
structure Staged where
  off   : Nat
  bytes : Nat
  val   : Nat
  deriving DecidableEq, Repr

/-- The transaction of one partition (R419 to R421): whether it is open, whether its commit is being validated, for
the boundary and made while exposures were idle, its entries in order, and its first marking write (status, offset). -/
structure Txn where
  opened     : Bool
  validating : Bool
  boundary   : Bool
  idle       : Bool
  entries    : List Staged
  mark       : Option (Nat × Nat)
  deriving DecidableEq, Repr

/-- A boundary commit that awaits its boundary (R422). -/
structure PendTxn where
  part    : PartId
  seq     : Nat
  entries : List Staged
  deriving DecidableEq, Repr

/-- A passed commit, for the conflict rule (R423): partition, exposure number, offsets of the registers it staged. -/
structure Passed where
  part : PartId
  exp  : Nat
  offs : List Nat
  deriving DecidableEq, Repr

/-! ### Safety monitor (chapter 17) -/

/-- An exposure the monitor judges (R433, R434): number, whether it is an overrun, the TCLK edges of open and close,
the marks each stage has had (bit n for core n), the edge at which each stage completed,
the stages found late, and the settings latched for stage 0 (step 5) and for the other stages (step 3, R453). -/
structure Judge where
  exp     : Nat
  overrun : Bool
  openT   : Nat
  closeT  : Option Nat
  marks   : Vector (BitVec 32) 16
  done    : Vector (Option Nat) 16
  late    : Vector Bool 16
  cfg0    : Csr
  cfg     : Csr
  deriving DecidableEq, Repr

/-- The safety monitor beside its registers (R433 to R451): exposures judged, the exposures that disagreed, the
closed exposures whose proof frame is due (exposure, the edge at which its comparison began once it has, whether it has been found late), the edge of the last kick and whether the
keep-alive has been missed since, whether a cause that only cold
reset clears has been detected, the first exposure after a restart, the pins SAFEA_N (true: driven low) and SAFEB, the edge of
SAFEB's last change and of the frame's last update, the frame latched for SPI, the cores whose self-test has started, the
marks of stages on their way, the edge of the recorded detection and the edge of the latest detection of any cause, the latest
exposure compared, withdraw_from in full, the held cores that have been released, and the entries of SAFE_PF_TAB written (R393). -/
structure Monitor where
  judged    : List Judge
  disagreed : List Nat
  comparing : List (Nat × Option Nat × Bool)
  kickT     : Nat
  kickLate  : Bool
  coldCause : Bool
  restartT  : Option Nat
  restartR  : Option Nat
  safeaLow  : Bool
  safeb     : Bool
  safebT    : Nat
  frameT    : Nat
  frameSeq  : Nat
  shifted   : List Byte
  testing   : BitVec 32
  testT     : Vector Nat 32
  marksSent : List (CoreId × CtxId × Nat × BitVec 32)
  detectT   : Option Nat
  lastT     : Option Nat
  latest    : Nat
  withdraw  : Nat
  release   : BitVec 32
  tabSeen   : List Nat
  deriving DecidableEq, Repr

/-! ### Hosts (chapter 16) -/

/-- The MSI-X capability of a function (R418): enabled, the function's mask, vectors masked, pending bits, and the dwords of the table's
message addresses and data (byte offset, value). -/
structure Msix where
  enabled : Bool
  masked  : Bool
  mask    : BitVec 64
  pba     : BitVec 64
  table   : List (Nat × Nat)
  deriving DecidableEq, Repr

/-- An MCTP message in reassembly (R427): source EID, message tag, next packet sequence number, bytes so far. -/
structure Assembly where
  src  : Nat
  tag  : Nat
  next : Nat
  data : List Byte
  deriving DecidableEq, Repr

/-- What leaves the device: the answer of a register or memory access, an access fault or Completer Abort, data with the
poison mark, an MSI-X
message or a source of the application cluster's interrupt controller, an Ethernet frame, a management response, a write to
host memory, the safety frame on SAFE_MISO, a pulse output level, a serial command. -/
inductive Out where
  | data (a : Agent) (v : Nat)
  | abort (a : Agent)
  | poisoned (a : Agent) (v : Nat)
  | msix (f : Fin 8) (v : Nat)
  | appIrq (source : Nat)
  | frame (port : Fin 8) (bytes : List Byte)
  | response (bytes : List Byte)
  | hostWrite (f : Fin 8) (addr : Nat) (bytes : List Byte)
  | spi (bytes : List Byte)
  | pulse (k : Fin 4) (level : Bool)
  | imu (bytes : List Byte)
  | mdio (bus : Fin 2) (word : Nat)
  deriving DecidableEq, Repr

/-- A timestamp (R74 to R76): seconds, nanoseconds, fraction in 2^-16 ns, step_gen, step_pending. -/
structure Stamp where
  sec  : Nat
  ns   : Nat
  frac : Nat
  gen  : Nat
  pend : Bool
  deriving DecidableEq, Repr

/-- A frame steered to the front end that waits for its decoding (R64, R92): port, program, UDP payload, receive timestamp. -/
structure InFrame where
  port    : Fin 8
  prog    : Fin 8
  payload : List Byte
  stamp   : Stamp
  deriving DecidableEq, Repr

/-! ### Point front end (chapter 4) -/

/-- A staged point (R102, R109): sensor, coordinates in the sensor frame (binary32, m), its time in ns since the epoch, exposure, slice,
intensity and second return. -/
structure FePoint where
  sensor : Nat
  x      : Nat
  y      : Nat
  z      : Nat
  t      : Nat
  exp    : Nat
  slice  : Nat
  inten  : Nat
  second : Bool
  deriving DecidableEq, Repr

/-- The front end beside its registers (R40, R102, R103, R110): staged points in the order in which they left the decoders, the entries
of the pose ring written so far (FE_POSE_HEAD shows their number modulo 2^32) and judged so far, the buffer taken last, and the
descriptor of the latest overrun exposure that found every buffer held. -/
structure Front where
  staged  : List FePoint
  posed   : Nat
  judged  : Nat
  lastBuf : Option (Fin 4)
  homeless : List Byte
  deriving DecidableEq, Repr

/-! ### Table engine (chapter 9) -/

/-- What a table instruction has read of its sources (R228, R240): its issue number, its keys, its rows (none: poisoned), the exception that the check
of its keys found, and the first poisoned row its lookups met. -/
structure TblSrc where
  seq    : Nat
  keys   : List Nat
  rows   : List (Option Nat)
  bad    : Bool
  poison : Option Nat
  deriving DecidableEq, Repr

/-- A lookup that waits for a line of the engine's cache (R235, R238): core, context, issue number, handle and byte of its destination,
table, bank, row, and the tier and slot it has been resolved to. -/
structure TblRead where
  core : CoreId
  ctx  : CtxId
  seq  : Nat
  h    : Nat
  o    : Nat
  tab  : Nat
  bank : Nat
  row  : Nat
  at'  : Option (Nat × Nat)
  deriving DecidableEq, Repr

/-- An entry of the update buffer (R248): 32 FP32 sums. -/
structure TblSum where
  tab  : Nat
  bank : Nat
  row  : Nat
  sums : List Nat
  deriving DecidableEq, Repr

/-- A step operation at the engine (R249): core, context and issue number, table mask, object. -/
structure TblStep where
  core : CoreId
  ctx  : CtxId
  seq  : Nat
  mask : Nat
  obj  : SoId
  deriving DecidableEq, Repr

/-- A replicated row (R243): its position in the eight sets, its 64 bytes, and the hit counters of the sets. -/
structure TblRep where
  tab  : Nat
  bank : Nat
  row  : Nat
  pos  : Nat
  val  : Nat
  hits : Vector Nat 8
  deriving DecidableEq, Repr

/-- A migration under way (R246): from tier x slot a to tier y slot b, the row read for the copy (FP32; none: it could not be read),
whether the copy has landed, the entry of the migration buffer, and the number of its mesh packet. -/
structure TblMig where
  tab    : Nat
  bank   : Nat
  row    : Nat
  x      : Nat
  a      : Nat
  y      : Nat
  b      : Nat
  val    : Option (List Nat)
  copied : Bool
  res    : Option (List Nat)
  seq    : Nat
  deriving DecidableEq, Repr

/-- A slot that returns to its free stack once its reads have completed (R246, R256), and whether a migration left it. -/
structure TblDrain where
  tab  : Nat
  bank : Nat
  tier : Nat
  slot : Nat
  mig  : Bool
  deriving DecidableEq, Repr

/-- A rebuild (R257, R258): table, source bank, the next row to copy, whether rows remain, whether writes are mirrored, and the number of the mesh
packet of the next row. -/
structure TblReb where
  tab    : Nat
  src    : Nat
  next   : Nat
  busy   : Bool
  mirror : Bool
  seq    : Nat
  deriving DecidableEq, Repr

/-- The table engine: sources read, lookups that wait, the open and the closed half of the update buffer, steps that wait, the step that runs with
the registers as they stood at its start, replicas, migrations, slots that drain, the tops of the free stacks (by table × 6 + bank × 3 +
pool), rebuilds, the sweep's table and row and the edge of its latest visit. -/
structure Tbl where
  srcs   : List TblSrc
  reads  : List TblRead
  opened : List TblSum
  closed : List TblSum
  steps  : List TblStep
  run    : Option (TblStep × Csr)
  reps   : List TblRep
  migs   : List TblMig
  drains : List TblDrain
  tops   : List (Nat × Nat)
  rebs   : List TblReb
  sweep  : Nat × Nat
  sweepT : Nat
  deriving DecidableEq, Repr

/-! ### Management (R427 to R429) -/

/-- Where a management message came from: an MCTP source EID with tag and message tag owner, or the mailbox. -/
inductive Via where
  | mctp (src tag : Nat)
  | mailbox
  deriving DecidableEq, Repr

/-- A complete management message that waits to be answered: for MCTP from its message type on, for the mailbox its body. -/
structure Msg where
  via  : Via
  body : List Byte
  deriving DecidableEq, Repr

/-- The mailbox of port 0 function 0 (R429): bytes of the request written (offset, value) and of the response, and done. -/
structure Mailbox where
  req  : List (Nat × Nat)
  resp : List Byte
  done : Bool
  deriving DecidableEq, Repr

/-! ### Power, start-up, identity (chapter 18) -/

/-- OTP (R16, R471, R472): the identity seed, the digests of the key slots, slots programmed and revoked, blown bits of the anti-rollback
field, jtag_open, vendor_id, the grade of DEV_ID, and the VID code (R492). -/
structure Otp where
  seed    : BitVec 256
  digests : Vector (BitVec 512) 4
  keys    : BitVec 4
  revoked : BitVec 4
  count   : Nat
  jtag    : Bool
  vendor  : BitVec 16
  grade   : BitVec 4
  vid     : BitVec 5
  deriving DecidableEq, Repr

/-- How far start-up has come (R464 to R469): held in reset; reset has ended; the ROM waits for a pushed image; an image runs (its entry address); the ROM serves
only mailbox and MCTP. -/
inductive BootPhase where
  | held
  | rom
  | push
  | image (entry : Nat)
  | romOnly
  deriving DecidableEq, Repr

/-- Start-up and identity beside the registers: the phase, BOOTSEL as sampled, the edge at which the start watchdog began to count and the edges it had
counted before, whether it is armed, the measurement list (type, length, digest), the latest attestation report with its nonce, whether the digest of the resume region has been
recorded and what it is, the identity public key, and the data words of SEC_MEASURE. `resumed` says that the start follows a wake whose resume
failed, so that it begins at step 4 of R464 (R467). -/
structure Boot where
  phase  : BootPhase
  sel    : Nat
  armed  : Bool
  armT   : Nat
  spent  : Nat
  meas   : List (Nat × Nat × BitVec 512)
  report : List Byte
  resume : Option (BitVec 512)
  pubkey : List Byte
  mdata  : Vector (BitVec 64) 8
  resumed : Bool
  deriving DecidableEq, Repr

/-- Power control (R456 to R463): cores whose gate bit has been cleared and that are not ready yet, the edge of the sleep write while entry runs, the
wake event that waits, whether thermal shutdown holds the part, the edge since which each core's detector has been tripped, the edge of the latest CCLK step, the edge
since which no detector has been tripped, PWREN_MAIN with the edge at which it last fell, whether the trip temperature forces 450 MHz (R461), and whether
VDDIO_SL is valid, so that the pins of Safelight are driven (R494). -/
structure Pwr where
  rising : BitVec 32
  entryT : Option Nat
  wake   : Option Nat
  hot    : Bool
  tripT  : Vector (Option Nat) 32
  stepT  : Nat
  quietT : Nat
  main   : Bool
  offT   : Nat
  hotCap : Bool
  pads   : Bool
  deriving DecidableEq, Repr

/-! ### The machine -/

/-- The state of the N32. `csr` holds the registers, `acq`, `proc` and `ethIn` the committed registers as they stood at
step 5, step 3 and step 2 of the latest boundary (Table 16-6); `latches` the read latches (agent, offset, value) and `halves` the
lower parts of writes held (agent, offset, value) of R15 and R481; `mem` the bytes of DRAM, vault and scratchpads by device
address, `haze` the byte ranges whose contents are undefined (start, length, number of the event that made them so, R266,
R267), `poison` the numbers of the 32-byte words stored poisoned (R396), `flips` the stored codewords that differ from the
code's (word number, bits that differ), `parity` the parity slots of R386 that do not hold the parity of their pages (slot, how they differ),
`sram` and `sramBad` the codewords of other SRAM that differ and those stored poisoned (R383), `valid` the 8 KiB blocks of R391 and `written` the SRAM lines of R390 that have been
written, `clean` the byte ranges of grid tables cleared since anything else wrote them (R124); `chanBuf` and `bankBuf` the merge buffers of DRAM channels and vault banks (R394); `out` what has left the device, newest first; `free` counts the free values drawn; `stamp` numbers issued
operations; `fabLast` is the fabric DMA channel granted last at each prio (R369), `lag` the lag as last set (R51), `seqs` the Prints committed of each exposure (R61),
`heads` the header Prints owed (exposure, partition, whether a wait has been counted; R368); `msgs` management messages that wait for their answer;
`presets` the partition resets under way with the edge of their start (R416); `shareT` the edge at which the 1 ms share period began (R415); `seq` is the device-wide
commit sequence (R421); `pauseT` the edge at which each DRAM channel's pause began (R53); `mesh` the packets in the mesh, in the order in which they came to their routers, and
`served` the input port that each router output served last (R24); `l2` the words that the L2 of the application cluster holds dirty, with their dirty
bytes, newest first (R29, R454); `pending` is the queue of commands. -/
structure State where
  csr     : Csr
  acq     : Csr
  proc    : Csr
  ethIn   : Csr
  latches : List (Agent × Nat × Nat)
  halves  : List (Agent × Nat × Nat)
  mem     : List Host.Cell
  haze    : List (Nat × Nat × Nat)
  poison  : List Nat
  flips   : List (Nat × Nat)
  parity  : List (Nat × ParitySlot)
  sram    : List (Sram × Nat)
  sramBad : List Sram
  valid   : List Nat
  written : List Nat
  chanBuf : Vector (List Gather) 16
  bankBuf : Vector (List Gather) 32
  pulses  : Vector Pulse 4
  capts   : Vector (List (Nat × Nat)) 2
  imu     : Imu
  asleep  : Bool
  txAt    : Vector Nat 8
  mdioRd  : Vector Bool 2
  inbox   : List InFrame
  clk     : Clock
  ctxs    : Vector Ctx 256
  cores   : Vector Core 32
  flights : List Flight
  fabric  : Vector (Option Chan) 32
  sliceT  : Nat
  slice   : Nat
  exps    : List Exp
  mntSkip : Nat
  txns    : Vector Txn 4
  pendTx  : List PendTxn
  passed  : List Passed
  mon     : Monitor
  links   : Vector Bool 2
  msix    : Vector Msix 8
  mctp    : List Assembly
  out     : List Out
  free    : Nat
  stamp   : Nat
  pending : List Instr
  recov   : List (Agent × Nat × Nat)
  diagRd  : Bool
  leakT   : Nat
  zqT     : Nat
  trainT  : Nat
  forced  : Bool
  ends    : List (CoreId × CtrId)
  zeroing : Option (Nat × Nat)
  clean   : List (Nat × Nat)
  fabLast : Vector Nat 8
  lag     : Nat
  seqs    : List (Nat × Nat)
  heads   : List (Nat × PartId × Bool)
  fe      : Front
  tbl     : Tbl
  msgs    : List Msg
  mbox    : Mailbox
  presets : List (PartId × Nat)
  shareT  : Nat
  seq     : Nat
  pauseT  : Vector Nat 16
  otp     : Otp
  boot    : Boot
  pwr     : Pwr
  mesh    : List Packet
  served  : List (Nat × Nat)
  l2      : List Gather
  deriving DecidableEq, Repr

/-- A context at reset: every register 0 (R287; no value stated, assumption 3, DESIGN CHOICE), p0 reads all ones wherever it is read. -/
def Ctx.fresh : Ctx :=
  { pc := 0, s := Vector.replicate 32 0, v := Vector.replicate 32 0, p := Vector.replicate 8 0
    t := Vector.replicate 16 0, handles := Vector.replicate 256 0, prio := 0, stop := .clear, ending := .none
    lastRan := 0, quantum := 0, heldA := none, heldS := none
    weightsA := none, weightsS := none, accLost := false, swapped := false, owed := 0, late := [], spm := 0 }

/-- A core at reset: no context resident, nothing issued. -/
def Core.fresh : Core :=
  { slots := Vector.replicate 4 none, run := none, cclk := 0, used := Vector.replicate 4 0
    winOwner := Vector.replicate 8 0, gather := [], array := [], grid := [], select := [], sort := [], table := []
    dma := Vector.replicate 8 none, printQ := [], accWin := Vector.replicate 4 (0, 0)
    stretch := false, lists := Vector.replicate 4 none, climb := none
    acc := [], accBad := [], active := 0, shadow := 0, staging := Vector.replicate 32 0, cellBad := false, ring := 0, prep := [], devAt := 0, clearAt := 0, rampC := 0, thr := 0
    dmaLast := Vector.replicate 8 0
    }

/-- The clock at cold reset: 0 s 0 ns, advancing by exactly 4 ns (R68). -/
def Clock.fresh : Clock :=
  { sec := 0, ns := 0, frac := 0, nextIncr := none, step := none, heldStep := none
    stepped := false, lastStep := 0, tclk := 0, swept := 0 }

/-- No transaction open. -/
def Txn.fresh : Txn :=
  { opened := false, validating := false, boundary := false, idle := false, entries := [], mark := none }

/-- The monitor at cold reset (R441, R444, R449): safe with cause 0x01 (in SAFE_STATUS), SAFEA_N and SAFEB low. -/
def Monitor.fresh : Monitor :=
  { judged := [], disagreed := [], comparing := [], kickT := 0, kickLate := false, coldCause := false, restartT := none
    restartR := none, safeaLow := true, safeb := false, safebT := 0, frameT := 0, frameSeq := 0, shifted := []
    testing := 0, testT := Vector.replicate 32 0, marksSent := [], detectT := none, lastT := none, latest := 0, withdraw := 0, release := 0, tabSeen := [] }

/-- MSI-X of a function after reset, as PCI Express has it: disabled, every vector masked, nothing pending (assumption 5, PRESUMED). -/
def Msix.fresh : Msix :=
  { enabled := false, masked := false, mask := BitVec.allOnes 64, pba := 0, table := [] }

/-- The front end at reset. -/
def Front.fresh : Front := { staged := [], posed := 0, judged := 0, lastBuf := none, homeless := [] }

/-- The table engine at reset. -/
def Tbl.fresh : Tbl :=
  { srcs := [], reads := [], opened := [], closed := [], steps := [], run := none, reps := [], migs := [], drains := [], tops := []
    rebs := [], sweep := (0, 0), sweepT := 0 }

/-- OTP of a blank part (assumption 4, DESIGN CHOICE). -/
def Otp.blank : Otp :=
  { seed := 0, digests := Vector.replicate 4 0, keys := 0, revoked := 0, count := 0, jtag := false, vendor := 0, grade := 1, vid := 0 }

/-- Start-up as reset ends: the boot ROM has not run yet. -/
def Boot.fresh : Boot :=
  { phase := .rom, sel := 0, armed := false, armT := 0, spent := 0, meas := [], report := [], resume := none, pubkey := []
    mdata := Vector.replicate 8 0, resumed := false }

/-- Power control at reset: every supply on. -/
def Pwr.fresh : Pwr :=
  { rising := 0, entryT := none, wake := none, hot := false, tripT := Vector.replicate 32 none, stepT := 0, quietT := 0, main := true
    offT := 0, hotCap := false, pads := true }

/-- The N32 right after cold reset: every register at its reset value, memory empty (R390, R391), no exposure open. -/
def State.reset : State :=
  { csr := [], acq := [], proc := [], ethIn := [], latches := [], halves := [], mem := [], haze := [], poison := []
    flips := [], parity := [], sram := [], sramBad := [], valid := [], written := [], chanBuf := Vector.replicate 16 [], bankBuf := Vector.replicate 32 []
    pulses := Vector.replicate 4 ⟨none, none, false⟩, capts := Vector.replicate 2 [], imu := ⟨0, none, none, false, []⟩, asleep := false
    txAt := Vector.replicate 8 0, mdioRd := Vector.replicate 2 false, inbox := []
    clk := Clock.fresh, ctxs := Vector.replicate 256 Ctx.fresh, cores := Vector.replicate 32 Core.fresh
    flights := [], fabric := Vector.replicate 32 none, sliceT := 0, slice := 0, exps := [], mntSkip := 0
    txns := Vector.replicate 4 Txn.fresh, pendTx := [], passed := [], mon := Monitor.fresh
    links := Vector.replicate 2 false, msix := Vector.replicate 8 Msix.fresh, mctp := [], out := [], free := 0
    stamp := 0, pending := []
    recov := [], diagRd := false, leakT := 0, zqT := 0, trainT := 0, forced := false, ends := []
    zeroing := none
    clean := []
    fabLast := Vector.replicate 8 0, lag := 0, seqs := [], heads := []
    fe := Front.fresh, tbl := Tbl.fresh, msgs := [], mbox := ⟨[], [], false⟩, presets := [], shareT := 0, seq := 0, pauseT := Vector.replicate 16 0
    otp := Otp.blank, boot := Boot.fresh, pwr := Pwr.fresh, mesh := [], served := [], l2 := []
    }

/-- Why a run of the model stops. The manual gives every row of the table an effect, so a fault is left for the one
case in which the model's own state is not one the hardware can be in. -/
inductive Fault where
  /-- Raised by no command: the manual describes no event that stops the block. Safe: a stop proves nothing. -/
  | impossible
  deriving DecidableEq, Repr

/-- Why a command has no meaning. -/
inductive Refusal where
  /-- The command is not modelled yet; raised by the arms of exec that say so. Safe. -/
  | notModelled (mnemonic : String)
  deriving DecidableEq, Repr

end Sys2Proof.Machine
end

