-- ==== Sys2Proof/Machine/Csr.lean ====
section
/-! DEFINITION. Machine/Csr.lean: the store of register fields: reading and writing one field, one word of a register,
and finding the register an offset lies in (R11, R12, R14, R479, R483). -/
namespace Sys2Proof.Machine

/-! ### Sorted association lists -/

/-- The value under a key. -/
def alookup {α : Type} (k : Nat) : List (Nat × α) → Option α
  | [] => none
  | (a, b) :: l => if a = k then some b else alookup k l

/-- Put a value under a key, keeping the keys in rising order. -/
def aput {α : Type} (k : Nat) (v : α) : List (Nat × α) → List (Nat × α)
  | [] => [(k, v)]
  | (a, b) :: l => if k < a then (k, v) :: (a, b) :: l else if a = k then (k, v) :: l else (a, b) :: aput k v l

/-- Remove a key. -/
def adel {α : Type} (k : Nat) (l : List (Nat × α)) : List (Nat × α) :=
  l.filter fun e => decide (e.1 ≠ k)

/-- Store a value under a key of a list whose unlisted keys read `d`: the value `d` itself is not listed. -/
def aset {α : Type} [DecidableEq α] (k : Nat) (v d : α) (l : List (Nat × α)) : List (Nat × α) :=
  if v = d then adel k l else aput k v l

/-- The keys stand in strictly rising order. -/
def asorted {α : Type} : List (Nat × α) → Bool
  | [] => true
  | [_] => true
  | (a, _) :: (b, y) :: l => decide (a < b) && asorted ((b, y) :: l)

/-! ### Fields -/

/-- Sum of index times stride. -/
def strideSum : List Nat → List Nat → Nat
  | m :: ms, i :: is => m * i + strideSum ms is
  | _, _ => 0

/-- The bit address of a field of one instance of its register. -/
def Fld.key (f : Fld) (idx : List Nat) : Nat :=
  8 * (f.base + strideSum f.strides idx) + f.lo

/-- The reset value of a field of one instance. -/
def Fld.reset (f : Fld) (idx : List Nat) : Nat :=
  match f.rst with
  | .const v => v
  | .first v w => if idx.headD 0 = 0 then v else w
  | .linear a => a * idx.getLastD 0

/-- The value of a field in a register store. -/
def csrGet (c : Csr) (f : Fld) (idx : List Nat) : Nat :=
  (alookup (f.key idx) c).getD (f.reset idx)

/-- A register store with a field set; the value is cut to the field's width. -/
def csrSet (c : Csr) (f : Fld) (idx : List Nat) (v : Nat) : Csr :=
  aset (f.key idx) (v % 2 ^ f.width) (f.reset idx) c

/-- The current value of a field. -/
def State.reg (s : State) (f : Fld) (idx : List Nat := []) : Nat :=
  csrGet s.csr f idx

/-- Whether a one-bit field is set. -/
def State.bit (s : State) (f : Fld) (idx : List Nat := []) : Bool :=
  decide (s.reg f idx ≠ 0)

/-- Set a field. -/
def State.setReg (s : State) (f : Fld) (idx : List Nat) (v : Nat) : State :=
  { s with csr := csrSet s.csr f idx v }

/-- Add to a counter field; counters saturate (R281, R377, R407, R430, R453, R476). -/
def State.bump (s : State) (f : Fld) (idx : List Nat) (n : Nat := 1) : State :=
  s.setReg f idx (min (s.reg f idx + n) (2 ^ f.width - 1))

/-- Add to a counter field that wraps. -/
def State.wrap (s : State) (f : Fld) (idx : List Nat) (n : Nat := 1) : State :=
  s.setReg f idx (s.reg f idx + n)

/-! ### Registers by offset -/

/-- The instance indices that place an offset `o` (from the register's first instance) in a register of `bytes` bytes,
with the byte offset within it; `none` where no instance holds the byte. -/
def splitIndex (bytes : Nat) : List (Nat × Nat) → Nat → Option (List Nat × Nat)
  | [], o => if o < bytes then some ([], o) else none
  | (n, stride) :: ds, o =>
    let i := o / stride
    if i < n then (splitIndex bytes ds (o % stride)).map fun r => (i :: r.1, r.2)
    else none

/-- Place an offset in one register of the index. -/
def RegRow.locate (r : RegRow) (off : Nat) : Option (List Nat × Nat) :=
  if off < r.base then none else splitIndex r.bytes r.dims (off - r.base)

/-- The register that holds the byte at an offset, its instance and the byte's place in it (Table 19-3). -/
def locateReg : List RegRow → Nat → Option (RegRow × List Nat × Nat)
  | [], _ => none
  | r :: rs, off =>
    match r.locate off with
    | some (idx, b) => some (r, idx, b)
    | none => locateReg rs off

/-- The row of a register. -/
def regRow (n : RegName) : Option RegRow :=
  regRows.find? fun r => decide (r.name = n)

/-- The fields of a register as one value, with WO fields read as zero (R12, R14). -/
def rowValue (c : Csr) (idx : List Nat) : List Fld → Nat
  | [] => 0
  | f :: fs => (if f.acc = .wo then 0 else csrGet c f idx * 2 ^ f.lo) + rowValue c idx fs

end Sys2Proof.Machine
end

