-- ==== Sys2Proof/Machine/Ops.lean ====
section
/-! DEFINITION. Machine/Ops.lean: the operations every family shares: bytes and CRC, the clock, free values, what leaves the
device, agents and partitions, and the device address space. -/
namespace Sys2Proof.Machine

/-! ### Bytes -/

/-- The little-endian value of bytes (R8). -/
def natOfBytes : List Byte → Nat
  | [] => 0
  | b :: bs => b.toNat + 256 * natOfBytes bs

/-- The lowest `n` bytes of a value, least significant first (R8). -/
def bytesOf : Nat → Nat → List Byte
  | 0, _ => []
  | n + 1, v => BitVec.ofNat 8 v :: bytesOf n (v / 256)

/-- The big-endian value of bytes, as on the wire (R8). -/
def natOfBytesBe (bs : List Byte) : Nat :=
  natOfBytes bs.reverse

/-- Bits [hi:lo] of a value (R17). -/
def bitsOf (v hi lo : Nat) : Nat :=
  v / 2 ^ lo % 2 ^ (hi + 1 - lo)

/-- Bit `i` of a value. -/
def bitOf (v i : Nat) : Bool :=
  decide (v / 2 ^ i % 2 = 1)

/-- A field read as two's complement of width `w`. -/
def signedOf (w v : Nat) : Int :=
  let m := v % 2 ^ w
  if m < 2 ^ (w - 1) then (m : Int) else (m : Int) - 2 ^ w

/-- A signed value cut to `w` bits of two's complement. -/
def wrapOf (w : Nat) (i : Int) : Nat :=
  (i % (2 ^ w : Int)).toNat

/-- A value limited to lo..hi. -/
def clampInt (lo hi i : Int) : Int :=
  if i < lo then lo else if hi < i then hi else i

/-- ceil(a / b). -/
def ceilDiv (a b : Nat) : Nat := (a + (b - 1)) / b

/-- Number of bits set among the lowest `n`. -/
def popCount : Nat → Nat → Nat
  | 0, _ => 0
  | n + 1, v => v % 2 + popCount n (v / 2)

/-- Eight steps of the reflected CRC-32 shift register. -/
def crcStep : Nat → BitVec 32 → BitVec 32
  | 0, c => c
  | n + 1, c => crcStep n (if c.getLsbD 0 then (c >>> 1) ^^^ 0xEDB88320#32 else c >>> 1)

/-- The CRC register over bytes. -/
def crcFold (c : BitVec 32) : List Byte → BitVec 32
  | [] => c
  | b :: bs => crcFold (crcStep 8 (c ^^^ b.setWidth 32)) bs

/-- The CRC-32 of IEEE 802.3 (R58). -/
def crc32 (bs : List Byte) : BitVec 32 :=
  crcFold 0xFFFFFFFF#32 bs ^^^ 0xFFFFFFFF#32

/-! ### Clock, free values, outputs -/

/-- The clock reading in whole ns since its epoch (R68). -/
def State.now (s : State) : Nat :=
  s.clk.sec * 1000000000 + s.clk.ns

/-- A free value of `w` bits (assumption 2, DESIGN CHOICE). -/
def State.draw (s : State) (w : Nat) : BitVec w × State :=
  (Config.freeBits w s.free, { s with free := s.free + 1 })

/-- Something leaves the device. -/
def State.emit (s : State) (o : Out) : State :=
  { s with out := o :: s.out }

/-! ### Agents and partitions -/

/-- Minimal mode (R469). -/
def State.minimal (s : State) : Bool := s.bit Reg.BOOT_STATUS.minimal

/-- The domains that device sleep turns off run, and no reset is held (R71, R455, R457). -/
def State.awake (s : State) : Bool := !s.asleep && decide (s.boot.phase ≠ .held)

/-- The FE and SAFE domains run: not in minimal mode (Table 18-1, R469). -/
def State.fullOn (s : State) : Bool := s.awake && !s.minimal

/-- Function `f` is present (R410): port 1 has none in x8 mode (R409), and minimal mode has function 0 alone (R469). -/
def State.fnPresent (s : State) (f : Fin 8) : Bool :=
  if f.val = 0 then true
  else bitOf (s.reg Reg.HOST_PCIE_CFG.fn_en) (f.val - 1) && !s.minimal && !(decide (4 ≤ f.val) && s.bit Reg.HOST_PCIE_CFG.x8)

/-- The partition an agent acts for (R290, R408, R410). -/
def State.partOf (s : State) : Agent → PartId
  | .hart _ => 0
  | .ctx c => Fin.ofNat 4 (s.reg Reg.SO_CTX_CFG.part [c.val])
  | .fn f => Fin.ofNat 4 (s.reg Reg.HOST_FN_BIND.part [f.val])

/-- The source an agent's memory accesses come from (R274). -/
def State.srcOf (s : State) : Agent → Src
  | .hart _ => .app
  | .ctx c => .core (Fin.ofNat 32 (s.reg Reg.SO_CTX_CFG.core [c.val]))
  | .fn f => .pcie (Fin.ofNat 2 (f.val / 4))

/-- The core is powered, and its supply has risen since its gate bit was cleared (R456); in minimal mode no core is (R469). -/
def State.corePowered (s : State) (n : CoreId) : Bool :=
  !bitOf (s.reg Reg.PWR_CORE_GATE.gate) n.val && !s.pwr.rising.getLsbD n.val && !s.minimal

/-- An agent's accesses are made: its domain runs, a PCIe function is present (R410), and in minimal mode the one hart that runs is
hart 0 (R469). -/
def State.agentLive (s : State) : Agent → Bool
  | .fn f => s.awake && s.fnPresent f
  | .hart h => s.awake && (!s.minimal || decide (h.val = 0))
  | .ctx _ => s.fullOn

/-- The safety owner (R417). -/
def State.safetyOwner (s : State) : PartId :=
  Fin.ofNat 4 (s.reg Reg.HOST_SAFETY.owner)

/-- Boot lock is set (R472). -/
def State.locked (s : State) : Bool :=
  s.bit Reg.SEC_LOCK.locked

/-- The present function bound to a partition, the lowest if several (R410). -/
def State.boundFn (s : State) (p : PartId) : Option (Fin 8) :=
  (List.finRange 8).find? fun f =>
    s.fnPresent f && decide (s.reg Reg.HOST_FN_BIND.part [f.val] = p.val)

/-- The link of a function's port is up; in x8 mode port 1 has no function (R409). -/
def State.fnLink (s : State) (f : Fin 8) : Bool :=
  s.links[f.val / 4]!

/-! ### The device address space (R477) -/

/-- Installed capacity C in GiB (R379). -/
def State.installed (s : State) : Nat :=
  s.reg Reg.MEM_CFG.installed_gib

/-- DRAM data capacity 7C / 8 in bytes (R380). -/
def State.dataBytes (s : State) : Nat :=
  7 * s.installed * 2 ^ 30 / 8

/-- Base of the vault. -/
def vaultBase : Nat := 0x1000000000
/-- Base of the scratchpads. -/
def spmBase : Nat := 0x1100000000
/-- Base of CSR space. -/
def csrBase : Nat := 0x1200000000
/-- Base of the TCM. -/
def tcmBase : Nat := 0x1300000000
/-- Base of the host windows. -/
def hostBase : Nat := 0x1400000000

/-- The region of an address (Table 19-1). The host windows are 1 TiB each from 0x0014_0000_0000 (R413), so they pass
the end that Table 19-1 prints; R413 is followed (assumption 8, DEDUCED). -/
def regionOf (s : State) (a : Nat) : Region :=
  if a < s.dataBytes then .dram a
  else if vaultBase ≤ a ∧ a < vaultBase + 0x4000000 then .vault (a - vaultBase)
  else if spmBase ≤ a ∧ a < spmBase + 0x8000000 then
    .spm (Fin.ofNat 32 ((a - spmBase) / 0x400000)) ((a - spmBase) % 0x400000)
  else if csrBase ≤ a ∧ a < csrBase + 0x4000000 then .csr (a - csrBase)
  else if tcmBase ≤ a ∧ a < tcmBase + 0x40000 then .tcm (a - tcmBase)
  else if hostBase ≤ a ∧ a < hostBase + 4 * 2 ^ 40 then
    .host (Fin.ofNat 4 ((a - hostBase) / 2 ^ 40)) ((a - hostBase) % 2 ^ 40)
  else .unmapped

/-- The device address of a physical line of a core's scratchpad (R261). -/
def spmAddr (n : CoreId) (line : Nat) : Nat :=
  spmBase + n.val * 0x400000 + 32 * line

/-- The DRAM channel of a data address (R380). -/
def dramChannel (a : Nat) : Fin 16 :=
  Fin.ofNat 16 ((a / 2 ^ 12 % 16) ^^^ (a / 2 ^ 16 % 16))

/-- The vault bank of a vault offset (R278). -/
def vaultBank (o : Nat) : Fin 32 :=
  Fin.ofNat 32 (o / 2048)

/-! ### Records and conditions -/

/-- Insert a number into a rising list without repeats. -/
def insertNat (k : Nat) : List Nat → List Nat
  | [] => [k]
  | a :: l => if k < a then k :: a :: l else if a = k then a :: l else a :: insertNat k l

/-- Replace a core's record. -/
def State.setCore (s : State) (n : CoreId) (f : Core → Core) : State :=
  { s with cores := s.cores.set n (f s.cores[n]) }

/-- The DRAM channels are all trained (R379). -/
def State.trained (s : State) : Bool :=
  decide (s.reg Reg.MEM_CFG.trained = 0xFFFF)

/-- What a command answers. -/
abbrev Ans := Host.Outcome State Fault Refusal

/-- CCLK cycles of a core since it left reset. -/
def State.cycles (s : State) (n : CoreId) : Nat := s.cores[n].cclk / 10

/-- FCLK cycles since cold reset: 4.8 for each TCLK edge (Table 0-4). -/
def State.fclk (s : State) : Nat := s.clk.tclk * 24 / 5

end Sys2Proof.Machine
end

