-- ==== Sys2Proof/Machine/Mesh.lean ====
section
/-! DEFINITION. Machine/Mesh.lean: where cores, device-level blocks and synchronisation objects sit on the mesh (R20, R26, R27), its routes,
arbitration and order (R23 to R25, R307), and the stretch of slices that each active core receives (R42). Packets move as time passes: the
mesh keeps those of the operations of contexts and of the table engine's copies; a command of another agent is its access as it is performed
(assumption 95, DESIGN CHOICE). -/
namespace Sys2Proof.Machine

/-- Core `n`'s column and row on the 8 × 4 mesh (R20). -/
def meshX (n : CoreId) : Nat := n.val % 8
def meshY (n : CoreId) : Nat := n.val / 8

/-- Two cores are mesh neighbours where their positions differ by 1 in exactly one coordinate (R20). -/
def meshNeighbours (m n : CoreId) : Bool :=
  (decide (meshX m = meshX n) && (decide (meshY m + 1 = meshY n) || decide (meshY n + 1 = meshY m))) ||
    (decide (meshY m = meshY n) && (decide (meshX m + 1 = meshX n) || decide (meshX n + 1 = meshX m)))

/-- The blocks that attach to the mesh (Table 1-4); a block with two ports attaches at each. -/
inductive MeshBlock where
  | channel (c : Fin 16)
  | frontEndA
  | frontEndB
  | tableEngine
  | fabricDma
  | clusterA
  | clusterB
  | pcie (p : Fin 2)
  | safetyMonitor
  | bootSecurity
  deriving DecidableEq, Repr

/-- The router and the port at which a block attaches (R26, Table 1-4). -/
def attachment : MeshBlock → CoreId × MeshPort
  | .channel c => if c.val < 8 then (Fin.ofNat 32 c.val, .north) else (Fin.ofNat 32 (16 + c.val), .south)
  | .frontEndA => (0, .west)
  | .frontEndB => (8, .west)
  | .tableEngine => (16, .west)
  | .fabricDma => (24, .west)
  | .clusterA => (7, .east)
  | .clusterB => (15, .east)
  | .pcie p => if p.val = 0 then (23, .east) else (31, .east)
  | .safetyMonitor => (12, .second)
  | .bootSecurity => (19, .second)

/-- The core at whose router an object is homed (R27). -/
def objectHome (o : SoId) : CoreId := Fin.ofNat 32 o.val

/-- Hops between two routers under dimension-ordered routing (R23). -/
def meshHops (m n : CoreId) : Nat :=
  (meshX m - meshX n) + (meshX n - meshX m) + (meshY m - meshY n) + (meshY n - meshY m)

/-! ### Routing and arbitration (R23, R24) -/

/-- The output of a router at `loc` that a packet for port `exit` of router `dst` takes: along x to the destination column, then along y (R23). -/
def meshOut (loc dst : CoreId) (exit : MeshPort) : MeshPort :=
  if meshX loc < meshX dst then .east
  else if meshX dst < meshX loc then .west
  else if meshY loc < meshY dst then .south
  else if meshY dst < meshY loc then .north
  else exit

/-- The router that an output leads to. -/
def meshNext (loc : CoreId) : MeshPort → CoreId
  | .north => loc - 8
  | .east => loc + 1
  | .south => loc + 8
  | .west => loc - 1
  | _ => loc

/-- The port by which a packet comes in that left a neighbour by an output. -/
def meshCame : MeshPort → MeshPort
  | .north => .south
  | .east => .west
  | .south => .north
  | .west => .east
  | p => p

/-- The routers that a packet goes through, the first and the last included. -/
def meshPath (loc dst : CoreId) : Nat → List CoreId
  | 0 => [loc]
  | k + 1 => if loc = dst then [loc] else loc :: meshPath (meshNext loc (meshOut loc dst .home)) dst k

/-- The route from one router to another (R23). -/
def meshRoute (src dst : CoreId) : List CoreId := meshPath src dst 10

/-- Ports by number, in the order of the round-robin (assumption 95, DESIGN CHOICE). -/
def portNo : MeshPort → Nat
  | .north => 0
  | .east => 1
  | .south => 2
  | .west => 3
  | .home => 4
  | .second => 5

/-- The output at which a packet waits. -/
def Packet.out (p : Packet) : MeshPort := meshOut p.loc p.dst p.exit

/-- The packet that an output sends at FCLK `t`, of those that wait there, in the order in which they came (R24): a C2 packet that has waited 256
FCLK; else one of the highest class, by turns of the input ports after the one served last. -/
def meshPick (t last : Nat) (l : List Packet) : Option Packet :=
  match l.find? fun p => decide (p.cls = .c2 ∧ p.due + 256 ≤ t) with
  | some p => some p
  | none =>
    match [Traffic.c0, .c1, .c2].find? fun k => l.any fun p => decide (p.cls = k) with
    | none => none
    | some k => (List.range 6).findSome? fun i => l.find? fun p => decide (p.cls = k ∧ portNo p.port = (last + 1 + i) % 6)

/-- The number of a router's output. -/
def outNo (o : CoreId × MeshPort) : Nat := 6 * o.1.val + portNo o.2

/-- One output's slot at FCLK `t`: its packet goes to the next router, where it waits at an output 3 FCLK later, or leaves the mesh (R23, R24). -/
def State.meshSend (s : State) (t : Nat) (o : CoreId × MeshPort) : State :=
  match meshPick t ((alookup (outNo o) s.served).getD 5) (s.mesh.filter fun p => decide (p.loc = o.1 ∧ p.out = o.2 ∧ p.due ≤ t)) with
  | none => s
  | some p =>
    let s := { s with served := aput (outNo o) (portNo p.port) s.served }
    if p.loc = p.dst then
      { s with
        mesh := s.mesh.erase p
        flights := s.flights.map fun f => if f.seq = p.id then { f with since := t } else f }
    else { s with mesh := s.mesh.erase p ++ [{ p with loc := meshNext p.loc p.out, port := meshCame p.out, due := t + 3 }] }

/-- One FCLK of the mesh: every output at which a packet waits sends one. -/
def State.meshCycle (s : State) (t : Nat) : State :=
  (((s.mesh.filter fun p => decide (p.due ≤ t)).map fun p => (p.loc, p.out)).eraseDups).foldl (fun s o => s.meshSend t o) s

/-- FCLKs of the mesh from `t` on. -/
def State.meshRun (s : State) (t : Nat) : Nat → State
  | 0 => s
  | k + 1 => if s.mesh = [] then s else (s.meshCycle t).meshRun (t + 1) k

/-- A packet enters the mesh at a port of a router and waits at an output from FCLK `due` on. -/
def State.meshEnter (s : State) (id : Nat) (cls : Traffic) (at' : CoreId × MeshPort) (to' : CoreId × MeshPort) (due : Nat) : State :=
  { s with mesh := s.mesh ++ [⟨id, cls, at'.1, to'.1, to'.2, at'.1, at'.2, due⟩] }

/-- No packet of an operation is in the mesh any more. -/
def State.through (s : State) (id : Nat) : Bool := s.mesh.all fun p => decide (p.id ≠ id)

/-! ### Destinations (R25 to R27) -/

/-- The destinations of packets by number: memory channels 0 to 15, vault banks from 16, cores' scratchpads from 48, PCIe ports from 80, the
blocks of CSR space (Table 19-2) from 100, the Ethernet ports' from 120, the cores' from 200, and the object slices from 300. Table 1-4 does not say
at which router every block of CSR space is reached (assumption 95, DESIGN CHOICE). -/
def placeAt (d : Nat) : CoreId × MeshPort :=
  if d < 16 then attachment (.channel (Fin.ofNat 16 d))
  else if d < 80 then (Fin.ofNat 32 (d - 16), .home)
  else if d < 82 then attachment (.pcie (Fin.ofNat 2 (d - 80)))
  else if 200 ≤ d then (Fin.ofNat 32 (d - (if d < 300 then 200 else 300)), .home)
  else if d = 104 then attachment .safetyMonitor
  else if d = 105 ∨ d = 107 ∨ d = 108 ∨ 120 ≤ d then attachment .frontEndA
  else if d = 109 then attachment .tableEngine
  else if d = 110 then attachment (.channel 0)
  else if d = 111 then attachment .fabricDma
  else if d = 112 then attachment (.pcie 0)
  else attachment .bootSecurity

/-- The destination of an access by device address, if an agent stands there. -/
def State.placeOfAddr (s : State) (p : PartId) (a : Nat) : Option Nat :=
  match regionOf s a with
  | .dram o => some (dramChannel o).val
  | .vault o => some (16 + (vaultBank o).val)
  | .spm n _ => some (48 + n.val)
  | .host _ _ => (s.boundFn p).map fun f => 80 + f.val / 4
  | _ => none

/-- The offset is one of SO_VALUE. -/
def isSoValue (off : Nat) : Bool := decide (0xD00000 ≤ off ∧ off < 0xD20000)

/-- The destination of a CSR access: a block of Table 19-2, or the slice of an object whose value it reaches (R27, R297). -/
def placeOfCsr (off : Nat) : Nat :=
  if isSoValue off then 300 + off / 8 % 32
  else if 0x1000000 ≤ off ∧ off < 0x3000000 then 200 + (off - 0x1000000) / 0x100000
  else if 0x600000 ≤ off ∧ off < 0x680000 then 120 + off / 0x10000 % 8
  else 100 + off / 0x100000 % 16

/-- The lines of a vector access that some lane of its mask touches, as (index, address). -/
def vecLines (a : Nat) (m : W64) : List (Nat × Nat) :=
  ((List.range 8).map fun j => (j, a + 32 * j)).filter fun e => decide ((m >>> (8 * e.1)).toNat % 256 ≠ 0)

/-- The traffic class of an operation of a context (Table 1-3). -/
def Flight.traffic (f : Flight) : Traffic :=
  match f.op with
  | .so _ _ _ => .c0
  | .register _ => .c0
  | .csrRead _ _ _ _ => .c0
  | .csrWrite _ _ _ _ => .c0
  | _ => .c1

/-- The destinations of an operation, one for each of its packets. -/
def State.places (s : State) (f : Flight) : List Nat :=
  let p := s.partOf (.ctx f.ctx)
  match f.op with
  | .load a _ _ _ _ => (s.placeOfAddr p a.toNat).toList
  | .store a _ _ _ _ => (s.placeOfAddr p a.toNat).toList
  | .vload a _ m _ => (vecLines a.toNat m).filterMap fun e => s.placeOfAddr p e.2
  | .vstore a _ m _ _ => (vecLines a.toNat m).filterMap fun e => s.placeOfAddr p e.2
  | .csrRead off _ _ _ => [placeOfCsr off]
  | .csrWrite off _ _ _ => [placeOfCsr off]
  | .so _ o _ => [300 + o.val % 32]
  | .register o => [300 + o.val % 32]
  | .fence _ => []

/-- An operation of the context on core `n` is issued: its packets enter the mesh at the core's router 3 FCLK later (R297). -/
def State.sendFlight (s : State) (n : CoreId) (c : CtxId) (op : FlightOp) : State :=
  let f : Flight := ⟨s.stamp, c, n, s.ctxs[c].pc, op, s.fclk⟩
  (s.places f).foldl (fun s d => s.meshEnter f.seq f.traffic (n, .home) (placeAt d) (s.fclk + 3))
    { s with flights := s.flights ++ [f], stamp := s.stamp + 1 }

/-! ### Order of performance (R25, R27, R278, R303, R307, R482) -/

/-- A flight is a store. -/
def Flight.isStore (f : Flight) : Bool :=
  match f.op with
  | .store .. => true
  | .vstore .. => true
  | .csrWrite .. => true
  | _ => false

/-- A store of the context issued before number `seq` has not been performed (R303). -/
def State.storesBefore (s : State) (c : CtxId) (seq : Nat) : Bool :=
  s.flights.any fun f => decide (f.ctx = c ∧ f.seq < seq) && f.isStore

/-- A release: an add, a signal, or a write of SO_VALUE (R303). -/
def Flight.release (f : Flight) : Bool :=
  match f.op with
  | .so k _ _ => decide (k ≠ .read)
  | .csrWrite off _ _ _ => isSoValue off
  | _ => false

/-- A release still waits for the writes issued before it. -/
def State.releaseHeld (s : State) (f : Flight) : Bool := f.release && s.storesBefore f.ctx f.seq

/-- Operations from different routers are performed at the destination in the order in which they reach it: object slices and CSR blocks (R27,
R307, R482), vault banks (R278). -/
def inArrivalOrder (d : Nat) : Bool := decide ((16 ≤ d ∧ d < 48) ∨ 100 ≤ d)

/-- Operation `g` is performed before `f`: both go to one destination in one class, and `g` was sent earlier by the same core (R25), or has reached
it earlier, or in the same FCLK from a lower router (R27). A release that waits for its writes holds only itself (R307). -/
def State.goesFirst (s : State) (g f : Flight) : Bool :=
  decide (g.seq ≠ f.seq ∧ g.traffic = f.traffic) && !s.releaseHeld g &&
    (s.places g).any fun d => (s.places f).contains d &&
      (decide (g.core = f.core ∧ g.seq < f.seq) ||
        (inArrivalOrder d && s.through g.seq && decide (g.since < f.since ∨ (g.since = f.since ∧ g.core < f.core))))

/-- An operation has not reached its destinations, or others go first. -/
def State.behind (s : State) (f : Flight) : Bool := !s.through f.seq || s.flights.any fun g => s.goesFirst g f

/-- Remove a flight. -/
def State.dropFlight (s : State) (seq : Nat) : State :=
  { s with flights := s.flights.filter fun f => decide (f.seq ≠ seq) }

/-- Cores in serpentine rank order (Table 2-1). -/
def serpentine : List CoreId :=
  [0, 1, 2, 3, 4, 5, 6, 7] ++ [15, 14, 13, 12, 11, 10, 9, 8] ++ [16, 17, 18, 19, 20, 21, 22, 23] ++ [31, 30, 29, 28, 27, 26, 25, 24]

/-- The active cores of a set in rank order (R42). -/
def ranked (active : BitVec 32) : List CoreId := serpentine.filter fun n => active.getLsb n

/-- The rank of a core in an exposure, if it is active (R42). -/
def coreRank (active : BitVec 32) (n : CoreId) : Option Nat := (ranked active).findIdx? fun m => decide (m = n)

/-- The slices of the core of rank `r`, `a` cores being active and the exposure having `slices` slices: the first, and how many
(R42). -/
def stretchOf (a slices r : Nat) : Nat × Nat := (r * slices / a, (r + 1) * slices / a - r * slices / a)

/-- The stretch of a core in an exposure (R42). -/
def Exp.stretch (e : Exp) (n : CoreId) : Option (Nat × Nat) :=
  (coreRank e.active n).map (stretchOf (ranked e.active).length e.slices)

end Sys2Proof.Machine
end

