-- ==== Sys2Proof/Machine/PageCode.lean ====
section
/-! DEFINITION. Machine/PageCode.lean: the Reed-Solomon page code of R385: arithmetic of GF(2^8), the parity of a page, and the decoding of
its codewords with errors and erasures. A page is given as its 128 words of 256 bits, parity as 64 bytes, each as one number. -/
namespace Sys2Proof.Machine

/-- Multiplication by α = 2 in GF(2^8) with x^8 + x^4 + x^3 + x^2 + 1. -/
def gfTwice (x : Nat) : Nat := if x < 128 then 2 * x else (2 * x) ^^^ 0x11D

/-- The product of `x` and the low `k` bits of `y`. -/
def gfTimes : Nat → Nat → Nat → Nat
  | 0, _, _ => 0
  | k + 1, x, y => (if y % 2 = 1 then x else 0) ^^^ gfTimes k (gfTwice x) (y / 2)

/-- The product in GF(2^8). -/
def gfMul (x y : Nat) : Nat := gfTimes 8 x y

/-- x α^n. -/
def gfShift : Nat → Nat → Nat
  | 0, x => x
  | n + 1, x => gfShift n (gfTwice x)

/-- The quotient in GF(2^8). -/
def gfDiv (x y : Nat) : Nat := ((List.range 256).find? fun q => decide (gfMul q y = x)).getD 0

/-- c(1) of a polynomial, highest power first. -/
def atOne (c : List Nat) : Nat := c.foldl (fun a x => a ^^^ x) 0

/-- c(α) of a polynomial, highest power first. -/
def atAlpha (c : List Nat) : Nat := c.foldl (fun a x => gfTwice a ^^^ x) 0

/-- The parity symbols P_0 and P_1 of data symbols d_0 to d_127: c(1) = c(α) = 0. -/
def parityPair (d : List Nat) : Nat × Nat :=
  let p := gfDiv (atOne d ^^^ atAlpha (d ++ [0, 0])) (gfTwice 1 ^^^ 1)
  (p, atOne d ^^^ p)

/-- The data symbols of codeword `j` of a page: byte `j` of each word. -/
def pageColumn (page : Nat → Nat) (j : Nat) : List Nat := (List.range 128).map fun i => page i / 256 ^ j % 256

/-- The 64 parity bytes of a page: P_0 and P_1 of codeword `j` at bytes 2j and 2j + 1. -/
def pageParity (page : Nat → Nat) : Nat :=
  (List.range 32).foldr (fun j a => (parityPair (pageColumn page j)).1 + 256 * (parityPair (pageColumn page j)).2 + 65536 * a) 0

/-- The parity of a page that is zero but for one word. -/
def wordParity (i v : Nat) : Nat := pageParity fun k => if k = i then v else 0

/-- Codeword `j` of a page with its parity, highest power first. -/
def codeword (page : Nat → Nat) (parity j : Nat) : List Nat :=
  pageColumn page j ++ [parity / 65536 ^ j % 256, parity / 65536 ^ j / 256 % 256]

/-- A symbol of a codeword changes by `e`. -/
def mendAt (c : List Nat) (i e : Nat) : List Nat := c.modify i fun x => x ^^^ e

/-- Decoding a codeword of 130 symbols with erasures at the places `er`: it succeeds where 2e + f ≤ 2 errors and erasures explain c(1) and
c(α). Place `i` is the power 129 - i. -/
def mendColumn (c : List Nat) : List Nat → Option (List Nat)
  | [] =>
    if atOne c = 0 ∧ atAlpha c = 0 then some c
    else ((List.range 130).find? fun i => decide (atOne c ≠ 0 ∧ gfShift (129 - i) (atOne c) = atAlpha c)).map fun i => mendAt c i (atOne c)
  | [i] => if gfShift (129 - i) (atOne c) = atAlpha c then some (mendAt c i (atOne c)) else none
  | [i, k] =>
    let x := gfDiv (atAlpha c ^^^ gfShift (129 - k) (atOne c)) (gfShift (129 - i) 1 ^^^ gfShift (129 - k) 1)
    some (mendAt (mendAt c i x) k (atOne c ^^^ x))
  | _ => none

/-- Every value of a list, if none is missing. -/
def allMended {α : Type} : List (Option α) → Option (List α)
  | [] => some []
  | none :: _ => none
  | some a :: l => (allMended l).map (a :: ·)

/-- Every codeword of a page decoded: the 128 words of the corrected page, if all succeed. -/
def mendPage (page : Nat → Nat) (parity : Nat) (er : List Nat) : Option (List Nat) :=
  (allMended ((List.range 32).map fun j => mendColumn (codeword page parity j) er)).map fun cols =>
    (List.range 128).map fun i => cols.foldr (fun c a => c.getD i 0 + 256 * a) 0

end Sys2Proof.Machine
end

