-- ==== Sys2Proof/Machine/SafeOps.lean ====
section
/-! DEFINITION. Machine/SafeOps.lean: what the safety monitor does whatever command it meets: the status frame, detection and
entry to the safe state, completion of stages (R433, R434, R441 to R448). -/
namespace Sys2Proof.Machine
open Reg

/-- A list of exposures' record of a number. -/
def State.expRec (s : State) (j : Nat) : Option Exp :=
  s.exps.find? fun e => decide (e.num = j)

/-- Change the record of exposure `j`. -/
def State.setExp (s : State) (j : Nat) (f : Exp → Exp) : State :=
  { s with exps := s.exps.map fun e => if e.num = j then f e else e }

/-- The exposure open now, if one is. -/
def State.openExp (s : State) : Option Exp :=
  s.exps.find? fun e => decide (e.closeNs = none)

/-- The lowest exposure not complete, else the next to open (R443). -/
def State.lowestIncomplete (s : State) : Nat :=
  (s.exps.filter fun e => !e.complete).foldl (fun m e => min m e.num) (s.reg FE_EXP_NUMBER.open_number)

/-- Bit i: exposure (e − i) disagreed, for i = 0 to 7 (Table 17-4). -/
def histOf (l : List Nat) (e : Nat) : Nat :=
  ((List.range 8).map fun i => if i ≤ e ∧ l.contains (e - i) then 2 ^ i else 0).foldl (· + ·) 0

/-- Bytes 0 to 27 of the status frame (Table 17-4). -/
def State.frameBytes (s : State) (seq : Nat) : List Byte :=
  let flags := s.reg SAFE_STATUS.warn + 2 * s.reg SAFE_STATUS.pf_pass + (if s.mon.testing ≠ 0 then 4 else 0)
  bytesOf 1 1 ++ bytesOf 1 (s.reg SAFE_STATUS.state) ++ bytesOf 2 seq ++
  bytesOf 1 (if s.reg SAFE_STATUS.state = 2 then 0 else s.reg SAFE_STATUS.cause) ++
  bytesOf 1 (s.reg SAFE_STATUS.detail) ++ bytesOf 1 (s.reg SAFE_STATUS.more) ++ bytesOf 1 flags ++
  bytesOf 8 s.mon.latest ++ bytesOf 4 (s.reg SAFE_STATUS.withdraw_from) ++
  bytesOf 2 (s.reg SAFE_TDET.sec) ++ bytesOf 4 (s.reg SAFE_TDET.ns) ++
  bytesOf 1 (histOf s.mon.disagreed s.mon.latest) ++ bytesOf 1 0

/-- One update of the status frame, where the SAFE domain runs: seq counts modulo 2^16 and the CRC covers bytes 0 to 27 (R446, R447). -/
def State.frameUpdate (s : State) : State :=
  if !s.fullOn then s else
  let seq := (s.mon.frameSeq + 1) % 65536
  let b := s.frameBytes seq
  let f := natOfBytes (b ++ bytesOf 4 (crc32 b).toNat)
  ({ s with mon := { s.mon with frameSeq := seq, frameT := s.clk.tclk } }).setReg SAFE_FRAME.frame [] f

/-- A maskable cause counts as a detection only while its bit of SAFE_FAULT_EN is 1 (R441). -/
def State.causeOn (s : State) (code : Nat) : Bool :=
  if 0x40 ≤ code ∧ code ≤ 0x43 then bitOf (s.reg SAFE_FAULT_EN.en) (code - 0x40) else true

/-- Note that a cause that only cold reset clears has been detected (Table 17-2). -/
def State.noteCold (s : State) (code : Nat) : State :=
  if 0x50 ≤ code then { s with mon := { s.mon with coldCause := true } } else s

/-- Record t_det, cause and detail, and enter the safe state (R442, R443): SAFEA_N low, SAFEB frozen. -/
def State.enterSafe (s : State) (code detail concerns : Nat) : State :=
  let s := s.setReg SAFE_STATUS.state [] 0
  let s := s.setReg SAFE_STATUS.cause [] code
  let s := s.setReg SAFE_STATUS.detail [] detail
  let s := s.setReg SAFE_STATUS.withdraw_from [] concerns
  let s := s.setReg SAFE_TDET.sec [] s.clk.sec
  let s := s.setReg SAFE_TDET.ns [] s.clk.ns
  let s := { s with mon := { s.mon with
    safeaLow := true, detectT := some s.clk.tclk, withdraw := concerns, restartT := none, restartR := none } }
  s.frameUpdate

/-- A detection while already in the safe state (R448): it adds 1 to more and lowers withdraw_from; on the edge of the
recorded detection the lowest code stands. -/
def State.moreSafe (s : State) (code detail concerns : Nat) : State :=
  let s := s.bump SAFE_STATUS.more []
  let s :=
    if s.mon.detectT = some s.clk.tclk ∧ code < s.reg SAFE_STATUS.cause then
      (s.setReg SAFE_STATUS.cause [] code).setReg SAFE_STATUS.detail [] detail
    else s
  let s :=
    if concerns < s.mon.withdraw then
      ({ s with mon := { s.mon with withdraw := concerns } }).setReg SAFE_STATUS.withdraw_from [] concerns
    else s
  s.frameUpdate

/-- A fault is detected (R441 to R443, R448), where the SAFE domain runs. `about` is the judged exposure of causes 0x10 to 0x31. -/
def State.detect (s : State) (code detail : Nat) (about : Option Nat) : State :=
  if s.fullOn && s.causeOn code then
    let concerns := about.getD s.lowestIncomplete
    let s := s.noteCold code
    let s := { s with mon := { s.mon with lastT := some s.clk.tclk } }
    if s.reg SAFE_STATUS.state = 0 then s.moreSafe code detail concerns
    else s.enterSafe code detail concerns
  else s

/-! ### Stages -/

/-- The judged exposure `j`. -/
def State.judge (s : State) (j : Nat) : Option Judge :=
  s.mon.judged.find? fun g => decide (g.exp = j)

/-- Change a judged exposure. -/
def State.setJudge (s : State) (j : Nat) (f : Judge → Judge) : State :=
  { s with mon := { s.mon with judged := s.mon.judged.map fun g => if g.exp = j then f g else g } }

/-- The settings a stage is judged by: stage 0 from step 5, the others from step 3 (R453). -/
def Judge.wdg (g : Judge) (st : Nat) (f : Fld) : Nat :=
  csrGet (if st = 0 then g.cfg0 else g.cfg) f [st]

/-- The edge from which stage `st` of a judged exposure is measured, once it is known (R434). -/
def Judge.stageRef (g : Judge) (st : Nat) : Option Nat :=
  if st = 0 then some g.openT
  else if g.wdg st SAFE_WDG.ref = 0 then g.closeT
  else g.done[st - 1]!

/-- Elapsed whole µs on the tick of 250 TCLK (R434). -/
def elapsedUs (t0 t : Nat) : Nat := (t - t0) / 250

/-- Stage `st` is judged for this exposure: stages 1 to 15 of an overrun exposure are not (R434). -/
def Judge.stageOn (g : Judge) (st : Nat) : Bool :=
  decide (g.wdg st SAFE_WDG.en = 1) && !(g.overrun && decide (st ≠ 0))

/-- Stage `st` of exposure `j` completes now: an early completion is detected (R433, R434). -/
def State.stageComplete (s : State) (j st : Nat) : State :=
  match s.judge j with
  | none => s
  | some g =>
    if (g.done[st]!).isSome then s
    else
      let t := s.clk.tclk
      let s := s.setJudge j fun g => { g with done := g.done.set! st (some t) }
      if g.stageOn st then
        match g.stageRef st with
        | some t0 => if elapsedUs t0 t < g.wdg st SAFE_WDG.min_us then s.detect 0x10 st (some j) else s
        | none => s
      else s

/-- Nothing more is found of stage `st`: it is late, or what it is measured from never completes. -/
def Judge.dead (g : Judge) : Nat → Bool
  | 0 => (g.done[0]!).isNone && g.late[0]!
  | st + 1 => (g.done[st + 1]!).isNone && (g.late[st + 1]! || (decide (g.wdg (st + 1) SAFE_WDG.ref = 1) && g.dead st))

/-- Every judged stage of an exposure has completed, been found late, or waits for one that never completes, so the monitor is done with
it (DEDUCED). -/
def Judge.finished (g : Judge) : Bool :=
  g.closeT.isSome && (List.range 16).all fun st =>
    !g.stageOn st || (g.done[st]!).isSome || g.dead st

/-- Drop the exposures the monitor is done with. -/
def State.judgeTidy (s : State) : State :=
  { s with mon := { s.mon with judged := s.mon.judged.filter fun g => !g.finished } }

/-- The settings that an exposure's proof frame is judged by. -/
def State.proofCfg (s : State) (j : Nat) : Csr :=
  match s.expRec j with
  | some e => e.cfg
  | none => s.csr

/-- Object `o` stands at `v`: the comparison of every exposure j with j + 1 ≤ v whose proof frame is due begins where `o` is its pf_so
(R433, R437). -/
def State.proofBegin (s : State) (o v : Nat) : State :=
  { s with mon := { s.mon with comparing := s.mon.comparing.map fun c =>
      if c.2.1 = none ∧ c.1 + 1 ≤ v ∧ csrGet (s.proofCfg c.1) SAFE_PF_CFG.pf_so [] = o then (c.1, some s.clk.tclk, false) else c } }

/-- The proof frame of exposure `j`, which closes now and is no overrun exposure, is due where proof frames are judged (R438). -/
def State.proofDue (s : State) (j : Nat) : State :=
  match s.expRec j with
  | none => s
  | some e =>
    if !e.overrun && decide (csrGet e.cfg SAFE_PF_CFG.en [] = 1) then
      { s with mon := { s.mon with comparing := s.mon.comparing ++ [(j, none, false)] } }
    else s

/-- Object `o` has been left at `v`: where it is pf_so, stage 1 of every judged exposure j with j + 1 ≤ v that has closed
completes (R433), and the proof comparisons of such exposures begin. -/
def State.proofSignal (s : State) (o v : Nat) : State :=
  ((s.mon.judged.filter fun g =>
    decide (csrGet g.cfg SAFE_PF_CFG.pf_so [] = o ∧ g.exp + 1 ≤ v) && g.closeT.isSome && !g.overrun).foldl
    (fun s g => s.stageComplete g.exp 1) s).proofBegin o v

end Sys2Proof.Machine
end

