-- ==== Sys2Proof/Machine/SyncOps.lean ====
section
/-! DEFINITION. Machine/SyncOps.lean: contexts, their registers and scheduling (R55 to R57, R287 to R294), object operations
(R295 to R300), arrival counters (R277), exceptions (R308 to R311). -/
namespace Sys2Proof.Machine
open Reg

/-! ### Registers of a context -/

/-- Change a context's record. -/
def State.setCtx (s : State) (c : CtxId) (f : Ctx → Ctx) : State :=
  { s with ctxs := s.ctxs.set c (f s.ctxs[c]) }

/-- A scalar register; s0 reads 0 (R287). -/
def Ctx.getS (x : Ctx) (i : Fin 32) : W64 :=
  if i.val = 0 then 0 else x.s[i]

/-- Write a scalar register; s0 ignores writes (R287). -/
def Ctx.setS (x : Ctx) (i : Fin 32) (v : W64) : Ctx :=
  if i.val = 0 then x else { x with s := x.s.set i v }

/-- A predicate register; p0 reads all ones (R287). -/
def Ctx.getP (x : Ctx) (i : Fin 8) : W64 :=
  if i.val = 0 then BitVec.allOnes 64 else x.p[i]

/-- Write a predicate register; p0 ignores writes (R287). -/
def Ctx.setP (x : Ctx) (i : Fin 8) (v : W64) : Ctx :=
  if i.val = 0 then x else { x with p := x.p.set i v }

/-- Write a scalar register of a context. -/
def State.putS (s : State) (c : CtxId) (i : Fin 32) (v : W64) : State :=
  s.setCtx c fun x => x.setS i v

/-! ### Fixed-latency results (R283, R284, R319, R320) -/

/-- An effect stands: the register takes its bits. -/
def Ctx.put (x : Ctx) : Effect → Ctx
  | .s d v => x.setS d v
  | .p d m v => x.setP d ((v &&& m) ||| (x.getP d &&& ~~~m))
  | .v d m v => { x with v := x.v.set d ((v &&& m) ||| (x.v[d] &&& ~~~m)) }
  | .t d m v => { x with t := x.t.set d ((v &&& m) ||| (x.t[d] &&& ~~~m)) }
  | .window _ => x
  | .line _ _ => x

/-- One issue cycle passes: the effects due at its end stand, those of later instructions over those of earlier ones (R320). -/
def Ctx.tick (x : Ctx) : Ctx :=
  let y := (x.late.filter fun l => decide (l.left ≤ 1)).foldl (fun y l => y.put l.effect) x
  { y with late := (x.late.filter fun l => decide (1 < l.left)).map fun l => { l with left := l.left - 1 } }

/-- Issue cycles pass. -/
def Ctx.pass (x : Ctx) : Nat → Ctx
  | 0 => x
  | k + 1 => (if x.late = [] then x else x.tick).pass k

/-- Every effect stands: no fixed latency exceeds 16 cycles (R283, R286). -/
def Ctx.landed (x : Ctx) : Ctx := x.pass 16

/-- Issue cycles of a context pass. -/
def State.pass (s : State) (c : CtxId) (k : Nat) : State := s.setCtx c fun x => x.pass k

/-- An effect of the same shape with a free value (assumption 2, DESIGN CHOICE). -/
def State.freeEffect (s : State) : Effect → Effect × State
  | .s d _ => match s.draw 64 with | (v, s) => (.s d v, s)
  | .p d m _ => match s.draw 64 with | (v, s) => (.p d m v, s)
  | .v d m _ => match s.draw 2048 with | (v, s) => (.v d m v, s)
  | .t d m _ => match s.draw 256 with | (v, s) => (.t d m v, s)
  | e => (e, s)

/-- Change the compute instructions under way of a core that a test selects. -/
def Core.mark (k : Core) (p : Issued → Bool) (f : Issued → Issued) : Core :=
  let g (i : Issued) : Issued := if p i then f i else i
  { k with array := k.array.map g, grid := k.grid.map g, select := k.select.map g, sort := k.sort.map g, table := k.table.map g }

/-- The compute instructions under way of a core. -/
def Core.issued (k : Core) : List Issued := k.array ++ k.grid ++ k.select ++ k.sort ++ k.table

/-- A register write of the context's program meets a compute instruction under way that names the register (R345). -/
def State.clashes (s : State) (c : CtxId) (p : Issued → Bool) : Bool :=
  s.cores[s.ctxs[c].spm].issued.any fun i => decide (i.ctx = c) && p i

/-- The compute instructions of the context that name the register have undefined results from now on (R345). -/
def State.spoil (s : State) (c : CtxId) (p : Issued → Bool) : State :=
  s.setCore s.ctxs[c].spm fun k => k.mark (fun i => decide (i.ctx = c) && p i) fun i => { i with spoilt := true }

/-- A compute instruction names the register that an effect writes; s0 is not written. -/
def Effect.namedBy (e : Effect) (i : Issued) : Bool :=
  match e with
  | .s d _ => decide (d.val ≠ 0) && i.names.contains d
  | .v d _ _ => i.vnames.contains d
  | _ => false

/-- What an instruction writes to a register: an undefined value where the program must not write it yet, which spoils the compute instruction
as well (R345). -/
def State.allowed (s : State) (c : CtxId) (e : Effect) : Effect × State :=
  if s.clashes c e.namedBy then (s.spoil c e.namedBy).freeEffect e else (e, s)

/-- The program of a context writes lines of core `n`'s scratchpad while compute instructions that a test selects are under way (R345). -/
def State.overwrite (s : State) (n : CoreId) (c : CtxId) (p : Issued → Bool) (ls : List Nat) : State :=
  s.setCore n fun k => k.mark (fun i => decide (i.ctx = c) && p i) fun i => { i with wrote := ls ++ i.wrote }

/-- An instruction writes a register at once (R345). -/
def State.give (s : State) (c : CtxId) (e : Effect) : State :=
  match s.allowed c e with
  | (e, s) => s.setCtx c fun x => x.put e

/-- The result of a fixed-latency instruction of the context stands after `lat` issue cycles; a register read before then holds an undefined
value (R284, R319). -/
def State.result (s : State) (c : CtxId) (lat : Nat) (e : Effect) : State :=
  match s.allowed c e with
  | (e, s) =>
    if lat ≤ 1 then s.setCtx c fun x => { x with late := x.late ++ [⟨lat, e⟩] }
    else
      match s.freeEffect e with
      | (u, s) => s.setCtx c fun x => { x.put u with late := x.late ++ [⟨lat, e⟩] }

/-! ### State, slots, scheduling -/

/-- The state of a context (Table 11-3). -/
def State.ctxState (s : State) (c : CtxId) : Nat :=
  s.reg SO_CTX_STATE.state [c.val]

/-- Set the state of a context. -/
def State.setCtxState (s : State) (c : CtxId) (v : Nat) : State :=
  s.setReg SO_CTX_STATE.state [c.val] v

/-- The core a context is bound to (R290). -/
def State.coreOf (s : State) (c : CtxId) : CoreId :=
  Fin.ofNat 32 (s.reg SO_CTX_CFG.core [c.val])

/-- The slot of a core that holds a context. -/
def State.slotOf (s : State) (n : CoreId) (c : CtxId) : Option (Fin 4) :=
  (List.finRange 4).find? fun k => decide (s.cores[n].slots[k] = some c)

/-- The running context of a core. -/
def State.runningOn (s : State) (n : CoreId) : Option CtxId :=
  match s.cores[n].run with
  | none => none
  | some k => s.cores[n].slots[k]

/-- Tenths of a CCLK cycle in one TCLK edge: 3.6, 2.7 or 1.8 cycles (Tables 0-4 and 18-7). -/
def State.cclkTenths (s : State) : Nat :=
  match s.reg PWR_STATUS.cclk_step with
  | 0 => 36
  | 1 => 27
  | _ => 18

/-- A partition has used its share of the core's cycles in this 1 ms period (R415). -/
def State.overShare (s : State) (n : CoreId) (p : PartId) : Bool :=
  let sh := s.reg HOST_PART_CTRL.share [p.val]
  decide (sh ≠ 0 ∧ s.cclkTenths * 250000 * sh ≤ 64 * s.cores[n].used[p])

/-- A core is out for self-test (R450, R451). -/
def State.coreOut (s : State) (n : CoreId) : Bool :=
  bitOf (s.reg SAFE_STEST_STATUS.out) n.val

/-- A context is ready to issue or issuing: not while its core is out (R451), nor once it is to halt or fault. -/
def State.isReady (s : State) (c : CtxId) : Bool :=
  decide ((s.ctxState c = 2 ∨ s.ctxState c = 3) ∧ s.ctxs[c].ending = .none) && !s.coreOut (s.coreOf c)

/-- The better of two ready contexts (R55): higher priority, then the one longest since it last ran, then the lower number; the rule
states the second only where a quantum ends (DESIGN CHOICE, assumption 108). -/
def State.better (s : State) (a b : CtxId) : Bool :=
  let x := s.ctxs[a]
  let y := s.ctxs[b]
  decide (y.prio < x.prio ∨ (x.prio = y.prio ∧ (x.lastRan < y.lastRan ∨ (x.lastRan = y.lastRan ∧ a < b))))

/-- The best of some contexts. -/
def State.bestOf (s : State) : List CtxId → Option CtxId
  | [] => none
  | a :: l =>
    match s.bestOf l with
    | none => some a
    | some b => some (if s.better a b then a else b)

/-- The ready resident contexts of a core; those over their partition's share count only when no other is ready (R415). -/
def State.readyOn (s : State) (n : CoreId) : List CtxId :=
  let l := (s.cores[n].slots.toList.filterMap id).filter fun c => s.isReady c
  let l' := l.filter fun c => !s.overShare n (s.partOf (.ctx c))
  if l' = [] then l else l'

/-- The running context stops issuing and takes the state given; it counts as having run last now, and its fixed-latency instructions complete
(R286). -/
def State.stopRunning (s : State) (n : CoreId) (state : Nat) : State :=
  match s.runningOn n with
  | none => s
  | some c =>
    let s := (s.setCtxState c state).setCtx c fun x => { x.landed with lastRan := s.stamp }
    ({ s with stamp := s.stamp + 1 }).setCore n fun k => { k with run := none }

/-- The cell contents of a context's held sets are lost (R347). -/
def Ctx.loseCells (x : Ctx) : Ctx :=
  { x with weightsA := x.weightsA.map fun h => { h with lost := true }, weightsS := x.weightsS.map fun h => { h with lost := true } }

/-- The other resident contexts of a core lose the contents of the cells (R152, R347). -/
def State.loseOthers (s : State) (n : CoreId) (c : CtxId) : State :=
  ((s.cores[n].slots.toList.filterMap id).filter fun d => decide (d ≠ c)).foldl (fun s d => s.setCtx d Ctx.loseCells) s

/-- The core issues from a resident context. The images that the Developer has prepared for others are discarded (R185). -/
def State.startRunning (s : State) (n : CoreId) (c : CtxId) : State :=
  ((s.loseOthers n c).setCtxState c 3).setCore n fun k => { k with
    run := s.slotOf n c, prep := k.prep.filter fun e => decide (e.ctx = c) }

/-- An idle core runs its best ready resident context (R55). -/
def State.pickNext (s : State) (n : CoreId) : State :=
  match s.cores[n].run with
  | some _ => s
  | none =>
    match s.bestOf (s.readyOn n) with
    | none => s
    | some c => s.startRunning n c

/-- A context's wait ends: it becomes ready and takes a new quantum (R55, R298, R299). One that has not come to wait goes on: it still
issues, or was pre-empted with its count paused. -/
def State.wake (s : State) (c : CtxId) : State :=
  if s.ctxState c ≠ 4 then s.setCtx c fun x => { x with stop := .clear }
  else
    let s := (s.setCtxState c 2).setCtx c fun x => { x with stop := .clear, quantum := 0 }
    s.pickNext (s.coreOf c)

/-- The running context waits (R285). -/
def State.sleep (s : State) (c : CtxId) : State :=
  let n := s.coreOf c
  if s.runningOn n = some c then (s.stopRunning n 4).pickNext n else s.setCtxState c 4

/-! ### Interrupts and object operations -/

/-- Send MSI-X vector `v` of a function under its table and mask (R418). -/
def State.sendMsix (s : State) (f : Fin 8) (v : Nat) : State :=
  let m := s.msix[f]
  if !m.enabled || !s.fnLink f then s
  else if m.masked || m.mask.getLsbD v then
    { s with msix := s.msix.set f { m with pba := m.pba ||| (1#64 <<< v) } }
  else s.emit (.msix f v)

/-- Raise vector `v` of partition `p` (R418). -/
def State.raiseVector (s : State) (p : PartId) (v : Nat) : State :=
  let s := if p = 0 then s.emit (.appIrq (64 + v)) else s
  match s.boundFn p with
  | none => s
  | some f => s.sendMsix f v

/-- Judge the arm of an object after an operation or a write of its attributes (R300): with arm 1, an owner, and the
target reached, the vector is raised and arm clears. -/
def State.judgeArm (s : State) (o : Nat) : State :=
  if s.bit SO_ATTR.arm [o] && s.bit SO_ATTR.own_valid [o] &&
      decide (s.reg SO_ARM.target [o] ≤ s.reg SO_VALUE.value [o]) then
    (s.setReg SO_ATTR.arm [o] 0).raiseVector (Fin.ofNat 4 (s.reg SO_ATTR.owner [o])) (s.reg SO_ATTR.vector [o])
  else s

/-- One context's wait, judged against an object's new value (R298). -/
def State.judgeWait (s : State) (o v : Nat) (c : CtxId) : State :=
  match s.ctxs[c].stop with
  | .object q target d expiry phase =>
    if q.val = o ∧ target.toNat ≤ v ∧ s.ctxs[c].ending = .none then
      match phase with
      | .held => (s.give c (.s d 0)).wake c
      | .answered false => s.setCtx c fun x => { x with stop := .object q target d expiry (.answered true) }
      | _ => s
    else s
  | _ => s

/-- Every registered wait on an object, judged against its new value. -/
def State.judgeWaits (s : State) (o v : Nat) : State :=
  (List.finRange 256).foldl (fun s c => s.judgeWait o v c) s

/-- The value an operation leaves (Table 11-4); a result above 2^64 - 1 saturates (R295). -/
def soResult (kind : SoKind) (v x : Nat) : Nat :=
  match kind with
  | .read => v
  | .add => min (v + x) (2 ^ 64 - 1)
  | .signal => max v x

/-- An operation executes at an object's home (R295, R298, R300, R433): the value, saturation, waits, arm, pf_so. -/
def State.soExec (s : State) (o : Nat) (kind : SoKind) (x : Nat) : State :=
  let v := s.reg SO_VALUE.value [o]
  let v' := soResult kind v x
  let s := s.setReg SO_VALUE.value [o] v'
  let s := if kind = .add ∧ 2 ^ 64 ≤ v + x then s.setReg SO_ATTR.sat [o] 1 else s
  let s := s.judgeWaits o v'
  let s := s.judgeArm o
  if kind = .read then s else s.proofSignal o v'

/-- The result of an object operation is on its way to the context that waits for it (R297). -/
def State.soReturn (s : State) (c : CtxId) (seq : Nat) (v : Nat) : State :=
  match s.ctxs[c].stop with
  | .result q d _ =>
    if q = seq then s.setCtx c fun x => { x with stop := .result q d (some (BitVec.ofNat 64 v)) } else s
  | _ => s

/-- A registration executes at the home: the context's wait is answered, the answer saying whether the target is met (R298). -/
def State.registerAt (s : State) (f : Flight) : State :=
  match s.ctxs[f.ctx].stop with
  | .object o x d e (.sent q) =>
    if q = f.seq then
      (s.setCtx f.ctx fun r => { r with stop := .object o x d e (.answered (decide (x.toNat ≤ s.reg SO_VALUE.value [o.val]))) }).judgeArm o.val
    else s
  | _ => s

/-- An operation of a context executes at its slice (R295, R298). -/
def State.atSlice (s : State) (f : Flight) : State :=
  match f.op with
  | .so kind o x => ((s.dropFlight f.seq).soExec o.val kind x.toNat).soReturn f.ctx f.seq (s.reg SO_VALUE.value [o.val])
  | .register _ => (s.dropFlight f.seq).registerAt f
  | _ => s

/-- The slice of an operation on an object, by the object's number modulo 32 (R27). -/
def Flight.slice (f : Flight) : Option Nat :=
  match f.op with
  | .so _ o _ => some (o.val % 32)
  | .register o => some (o.val % 32)
  | _ => none

/-- Put an operation behind those that reached the slice no later (R27). -/
def insertFlight (f : Flight) : List Flight → List Flight
  | [] => [f]
  | g :: l => if f.since < g.since ∨ (f.since = g.since ∧ f.core < g.core) then f :: g :: l else g :: insertFlight f l

/-- The operations that wait at the slice of an object execute, before one that comes now (R307). -/
def State.drainSlice (s : State) (o : Nat) : State :=
  if s.flights = [] then s
  else
    ((s.flights.filter fun f => decide (f.slice = some (o % 32)) && s.through f.seq && !s.releaseHeld f).foldl (fun l f => insertFlight f l) []).foldl
      (fun s f => s.atSlice f) s

/-- An operation of an agent other than a context comes to an object's home (R307). -/
def State.soCome (s : State) (o : Nat) (kind : SoKind) (x : Nat) : State := (s.drainSlice o).soExec o kind x

/-- A hardware agent adds to the object its register names, where enabled (R296). -/
def State.hwAdd (s : State) (on : Bool) (o : Nat) : State :=
  if on then s.soCome o .add 1 else s

/-- Partition `p` may operate on an object (R296). -/
def State.soPermits (s : State) (p : PartId) (o : Nat) : Bool :=
  s.bit SO_ATTR.own_valid [o] &&
    (decide (s.reg SO_ATTR.owner [o] = p.val) || bitOf (s.reg SO_ATTR.share [o]) p.val)

/-! ### Arrival counters -/

/-- The counter meets a target (R277). -/
def ctrMeets (count target : BitVec 32) : Bool :=
  decide ((count - target).toNat < 2 ^ 31)

/-- One context's wait on an arrival counter, judged against the count (R277, R299). -/
def State.judgeCtr (s : State) (n : CoreId) (k : CtrId) (c : CtxId) : State :=
  match s.ctxs[c].stop with
  | .counter k' target d _ =>
    if k' = k ∧ s.coreOf c = n ∧ s.ctxs[c].ending = .none ∧
        ctrMeets (BitVec.ofNat 32 (s.reg SPM_ARRIVAL.count [n.val, k.val])) target then
      (s.give c (.s d 0)).wake c
    else s
  | _ => s

/-- Judge every wait on an arrival counter. -/
def State.judgeCtrs (s : State) (n : CoreId) (k : CtrId) : State :=
  (List.finRange 256).foldl (fun s c => s.judgeCtr n k c) s

/-- The merge that counts its arrivals on a counter keeps the edge of each advance (R220, R358). -/
def State.climbTime (s : State) (n : CoreId) (k : CtrId) : State :=
  match s.cores[n].climb with
  | some q =>
    if q.ctr = k then s.setCore n fun k => { k with climb := some { q with times := q.times ++ [s.clk.tclk] } } else s
  | none => s

/-- A local arrival counter advances by 1, modulo 2^32 (R277). -/
def State.advanceCtr (s : State) (n : CoreId) (k : CtrId) : State :=
  ((s.wrap SPM_ARRIVAL.count [n.val, k.val]).climbTime n k).judgeCtrs n k

/-- A counter may be used by a context: its group is assigned to it or shared (R294, R331). -/
def State.ctrAllowed (s : State) (n : CoreId) (c : CtxId) (k : CtrId) : Bool :=
  let i := [n.val, k.val / 8]
  s.bit CORE_CTR_GRP.assigned i && (s.bit CORE_CTR_GRP.shared i || decide (s.reg CORE_CTR_GRP.ctx i = c.val))

/-! ### Exceptions and endings -/

/-- A counted operation (R283): its counter advances when it is performed. -/
def Flight.counted (f : Flight) : Bool :=
  match f.op with
  | .so _ _ _ => false
  | .register _ => false
  | .store _ _ _ _ k => k.isSome
  | .vstore _ _ _ _ k => k.isSome
  | _ => true

/-- The channel acts for a context. -/
def chanOf (c : CtxId) : Option Chan → Bool
  | none => false
  | some d => decide (d.ctx = c)

/-- Counted work a context has outstanding (R286): global and CSR accesses and fences, compute instructions, DMA. -/
def State.busyCtx (s : State) (c : CtxId) : Bool :=
  let k := s.cores[s.coreOf c]
  s.flights.any (fun f => decide (f.ctx = c) && f.counted) ||
  (k.array ++ k.grid ++ k.select ++ k.sort ++ k.table).any (fun i => decide (i.ctx = c)) ||
  k.dma.toList.any (chanOf c)

/-- Add `n` to fault_so of a context, one advance for each exception, where enabled (R308). -/
def State.faultSo (s : State) (c : CtxId) : Nat → State
  | 0 => s
  | n + 1 => (s.hwAdd (s.bit SO_CTX_STATE.fault_so_en [c.val]) (s.reg SO_CTX_STATE.fault_so [c.val])).faultSo c n

/-- A context that is to halt or fault does so once the counted instructions it has issued have completed (R292, R308). -/
def State.settle (s : State) (c : CtxId) : State :=
  if s.ctxs[c].ending = .none ∨ s.busyCtx c then s
  else
    let v := if s.ctxs[c].ending = .halting then 6 else 5
    let owed := s.ctxs[c].owed
    ((s.setCtxState c v).setCtx c fun x => { x with ending := .none, owed := 0 }).faultSo c owed

/-- Issue of a context stops, and it is to take the state named once its counted instructions complete (R292, R308). A halt
stands over a fault. -/
def State.endCtx (s : State) (c : CtxId) (e : Ending) : State :=
  let n := s.coreOf c
  let e := if s.ctxs[c].ending = .halting then .halting else e
  let s := s.setCtx c fun x => { x with stop := .clear, ending := e }
  let s :=
    if s.runningOn n = some c then (s.stopRunning n (s.ctxState c)).pickNext n else s
  s.settle c

/-- Record an exception: the first stands, later ones add 1 to more (R308). -/
def State.recordExc (s : State) (c : CtxId) (code info pcFault pcNext : Nat) : State :=
  let i := [c.val]
  if s.reg SO_CTX_EXC.code i = 0 then
    (((s.setReg SO_CTX_EXC.code i code).setReg SO_CTX_EXC.pc_fault i pcFault).setReg SO_CTX_EXC.pc_next i pcNext).setReg
      SO_CTX_INFO.info i info
  else s.bump SO_CTX_EXC.more i

/-- TAKING AN EXCEPTION (R308): it is recorded, and a live context stops issue and becomes faulted once the counted
instructions it has issued complete; fault_so then advances. For a context that is halted, unbound or faulted it is recorded
and fault_so advances; for a disabled one it is not recorded. -/
def State.raise (s : State) (c : CtxId) (code info : Nat) (pcFault pcNext : BitVec 48) : State :=
  let st := s.ctxState c
  if st = 0 then s
  else
    let s := s.recordExc c code info pcFault.toNat pcNext.toNat
    if st = 2 ∨ st = 3 ∨ st = 4 then
      (s.setCtx c fun x => { x with owed := x.owed + 1 }).endCtx c .faulting
    else s.faultSo c 1

/-- A precise exception at issue: pc_fault and pc_next hold the instruction's address (R308). -/
def State.precise (s : State) (c : CtxId) (code info : Nat) : State :=
  s.raise c code info s.ctxs[c].pc s.ctxs[c].pc

/-- A completion exception of the instruction at `pc` (R308). -/
def State.completion (s : State) (c : CtxId) (code info : Nat) (pc : BitVec 48) : State :=
  s.raise c code info pc s.ctxs[c].pc

/-- The info of invalid operand: unit and operand index (Table 11-5). -/
def opInfo (unit index : Nat) : Nat := unit + 256 * index

end Sys2Proof.Machine
end

