-- ==== Sys2Proof/Machine/Ecc.lean ====
section
/-! DEFINITION. Machine/Ecc.lean: decoding stored words, the page code, logging and counting of memory errors, hard faults
(R380 to R389, R395 to R403). The model stores error-free codewords as data and the errors beside them as bit patterns, and a parity slot as
its difference from the parity of its page. -/
namespace Sys2Proof.Machine
open Reg

/-! ### Words -/

/-- The lowest set bit of a pattern, by search. -/
def lowBit : Nat → Nat → Nat
  | 0, _ => 0
  | n + 1, p => if p % 2 = 1 then 0 else 1 + lowBit n (p / 2)

/-- The error pattern is confined to one aligned nibble. -/
def inNibble (p : Nat) : Bool :=
  decide (p < 2 ^ (4 * (lowBit 272 p / 4) + 4))

/-- Decoding a stored codeword that differs by pattern `p` from the one written (R383, R384). -/
def decodeWord (p : Nat) : Decoded :=
  if p = 0 then .clean 0
  else if popCount 272 p = 1 then .fixed (lowBit 272 p) 0
  else if popCount 272 p = 2 ∨ inNibble p then .bad
  else Config.wordBeyond (BitVec.ofNat 272 p)

/-- The error pattern of a word. -/
def State.flipAt (s : State) (w : Nat) : Nat := (alookup w s.flips).getD 0

/-- Set the error pattern of a word. -/
def State.setFlip (s : State) (w p : Nat) : State := { s with flips := aset w (p % 2 ^ 272) 0 s.flips }

/-- The word has been written (R390), or lies in a valid block (R391); other words read zero without decoding. -/
def State.wordLive (s : State) (w : Nat) : Bool :=
  if 32 * w < s.dataBytes then s.valid.contains (32 * w / 8192) else s.written.contains w

/-- The unit of Table 15-6 that holds a word. -/
def unitOf (s : State) (w : Nat) : Nat :=
  match regionOf s (32 * w) with
  | .dram o => (dramChannel o).val
  | .spm n _ => 16 + n.val
  | .vault o => 48 + (vaultBank o).val
  | .tcm _ => 113
  | _ => 127

/-- The word lies in DRAM. -/
def inDram (s : State) (w : Nat) : Bool := decide (32 * w < s.dataBytes)

/-- Store bytes that differ from those stored by the bits of `e`. -/
def xorBytes (m : List Host.Cell) (a : Nat) (e : Nat) : Nat → List Host.Cell
  | 0 => m
  | n + 1 =>
    xorBytes (aset a (((alookup a m).getD 0) ^^^ BitVec.ofNat 8 e) 0 m) (a + 1) (e / 256) n

/-- The data of a word, without its errors. -/
def State.dataWord (s : State) (w : Nat) : Nat := natOfBytes ((List.range 32).map fun i => (alookup (32 * w + i) s.mem).getD 0)

/-- The check field of a word, without its errors (R383, R396). -/
def State.checkField (s : State) (w : Nat) : Nat :=
  (Config.wordCheck (BitVec.ofNat 256 (s.dataWord w))).toNat ^^^ (if s.poison.contains w then 0xFFFF else 0)

/-- The errors the decoder leaves in the data of a word that it does not call uncorrectable. -/
def leftover (p : Nat) : Nat :=
  match decodeWord p with
  | .clean e => e.toNat
  | .fixed _ e => e.toNat
  | .poisoned => p % 2 ^ 256
  | .bad => 0

/-! ### Pages and their parity slots (R380 to R382, R385, R386) -/

/-- The 4 KiB data page of a word: its channel and local page (R380). -/
def pageOf (w : Nat) : Nat × Nat := ((dramChannel (32 * w)).val, 32 * w / 2 ^ 16)

/-- The first word of the page of a word. -/
def pageBase (w : Nat) : Nat := w / 128 * 128

/-- P_d, the data pages of a channel (R381). -/
def State.dataPages (s : State) : Nat := s.dataBytes / 65536

/-- The page index of a word's page in its channel (R381): that of the spare page which a remap entry puts in its place, or its own. -/
def State.pageIndex (s : State) (w : Nat) : Nat :=
  let p := pageOf w
  match (List.range 32).find? fun i => s.bit ECC_REMAP_DRAM.valid [p.1, i] && decide (s.reg ECC_REMAP_DRAM.page [p.1, i] = p.2) with
  | some i => s.dataPages + i
  | none => p.2

/-- The place of a word's check field (R381, Table 15-2): its check page in the channel, and its number among the 2,048 fields there. -/
def State.checkPlace (s : State) (w : Nat) : Nat × Nat :=
  let x := 128 * s.pageIndex w + w % 128
  (x / 2048, x % 2048)

/-- The word of a channel's page index and place in the page. -/
def State.wordAt (s : State) (c q j : Nat) : Nat :=
  let q := if s.dataPages ≤ q then s.reg ECC_REMAP_DRAM.page [c, q - s.dataPages] else q
  (65536 * q + 4096 * (c ^^^ q % 16)) / 32 + j

/-- A parity slot among those of all channels. -/
def slotKey (c i : Nat) : Nat := 16 * i + c

/-- The parity slot of a word's page. -/
def State.pageSlot (s : State) (w : Nat) : Nat := slotKey (pageOf w).1 (s.pageIndex w)

/-- The parity slot of the check page of a word. -/
def State.checkSlot (s : State) (w : Nat) : Nat := slotKey (pageOf w).1 (s.dataPages + 32 + (s.checkPlace w).1)

/-- A slot that holds the parity of its page. -/
def ParitySlot.good : ParitySlot := ⟨0, 0, true, true⟩

/-- A parity slot; one that is not listed holds the parity of its page as that is stored. -/
def State.slot (s : State) (k : Nat) : ParitySlot := (alookup k s.parity).getD ParitySlot.good

/-- Set a parity slot. -/
def State.setSlot (s : State) (k : Nat) (p : ParitySlot) : State := { s with parity := aset k p ParitySlot.good s.parity }

/-- A page has changed by what has the parity `e`, and its slot has not. -/
def State.moveSlot (s : State) (k e : Nat) : State :=
  s.setSlot k { s.slot k with a := (s.slot k).a ^^^ e, b := (s.slot k).b ^^^ e }

/-- The data of a word have changed by `e`, and the parity of its page has not. -/
def State.moveData (s : State) (w e : Nat) : State :=
  if 32 * w < s.dataBytes then s.moveSlot (s.pageSlot w) (wordParity (w % 128) e) else s

/-- The check field of a word has changed by `e`, and the parity of its check page has not. -/
def State.moveCheck (s : State) (w e : Nat) : State :=
  if 32 * w < s.dataBytes then
    s.moveSlot (s.checkSlot w) (wordParity ((s.checkPlace w).2 / 16) (e % 65536 * 2 ^ (16 * ((s.checkPlace w).2 % 16))))
  else s

/-- The word lies in DRAM of class Full (R382). -/
def State.pageFull (s : State) (w : Nat) : Bool := decide (32 * w < s.dataBytes) && bitOf (s.reg MEM_CLASS.full) (32 * w / 2 ^ 30)

/-- The word lies in DRAM of class Word, whose parity slots are not updated (R382). -/
def State.pageWord (s : State) (w : Nat) : Bool := decide (32 * w < s.dataBytes) && !bitOf (s.reg MEM_CLASS.full) (32 * w / 2 ^ 30)

/-- A word is stored: in class Word its parity slots stay as they were (R382), else they follow it (R387). -/
def State.keeping (s : State) (w : Nat) (f : State → State) : State :=
  if s.pageWord w then ((f s).moveData w (s.dataWord w ^^^ (f s).dataWord w)).moveCheck w (s.checkField w ^^^ (f s).checkField w) else f s

/-- A parity slot that nothing has written holds anything (R391; no rule gives its contents). -/
def State.anySlot (s : State) (k : Nat) : State :=
  if (alookup k s.parity).isSome then s
  else
    match s.draw 1026 with
    | (x, s) => s.setSlot k ⟨x.toNat % 2 ^ 512, x.toNat / 2 ^ 512 % 2 ^ 512, x.getLsbD 1024, x.getLsbD 1025⟩

/-- The page of word `w` has been written as a whole: with the matching parity in class Full; in class Word its slots stay. -/
def State.freshPage (s : State) (w : Nat) : State :=
  if s.pageFull w then s.setSlot (s.pageSlot w) ParitySlot.good else (s.anySlot (s.pageSlot w)).anySlot (s.checkSlot w)

/-- The zero-fill of an invalid block's two pages (R391). -/
def State.zeroFill (s : State) (b : Nat) : State :=
  ({ s with valid := insertNat b s.valid }.freshPage (256 * b)).freshPage (256 * b + 128)

/-! ### Logging and counting -/

/-- No corrected bit. -/
def noBit : Nat := 0x1FF

/-- Write an event to the log ring (R402). -/
def State.logEvent (s : State) (type unit addr synd bit : Nat) (scrub : Bool) : State :=
  let e := [s.reg ECC_LOG_PTR.next]
  let s := s.setReg ECC_LOG.scrub e (if scrub then 1 else 0)
  let s := s.setReg ECC_LOG.bit e bit
  let s := s.setReg ECC_LOG.syndrome e synd
  let s := s.setReg ECC_LOG.type e type
  let s := s.setReg ECC_LOG.unit e unit
  let s := s.setReg ECC_LOG.address e addr
  let s := s.setReg ECC_LOG.seconds e s.clk.sec
  let s := s.setReg ECC_LOG.ns e s.clk.ns
  (s.wrap ECC_LOG_PTR.next []).bump ECC_LOG_PTR.events []

/-- The error object advances where enabled (R398, R401). -/
def State.eccSignal (s : State) : State := s.hwAdd (s.bit ECC_CTRL.so_en) (s.reg ECC_CTRL.ecc_so)

/-- A correctable event of a unit (R401): its bucket gains 1; at the threshold it overflows. -/
def State.bucketAdd (s : State) (u : Nat) : State :=
  let k := s.reg ECC_BUCKET.count [u] + 1
  if max 1 (s.reg ECC_BUCKET.threshold [u]) ≤ k then
    ((s.setReg ECC_BUCKET.count [u] 0).setReg ECC_BUCKET.ovf [u] 1).eccSignal
  else s.setReg ECC_BUCKET.count [u] k

/-- An uncorrectable event (R398): counted, signalled, and a detection of cause 0x40, or 0x51 in the monitor's SRAM. -/
def State.uncorrEvent (s : State) (u : Nat) : State :=
  let s := ((s.bump ECC_STATUS.uncorr_count []).setReg ECC_STATUS.uncorr [] 1).eccSignal
  if u = 114 then s.detect 0x51 0 none else s.detect 0x40 u none

/-- A read of the diagnostic address is recorded (R405). -/
def State.diagRecord (s : State) (w : Nat) : State :=
  if s.diagRd && decide (s.reg ECC_DIAG.addr = w) then
    let p := s.flipAt w
    let good := (Config.wordCheck (BitVec.ofNat 256 (s.dataWord w))).toNat
    let pois := s.poison.contains w
    let chk := if pois then good ^^^ 0xFFFF else good ^^^ (p / 2 ^ 256)
    let syn := if pois then 0xFFFF else if p = 0 then 0 else (Config.wordSyndrome (BitVec.ofNat 272 p)).toNat
    let s := { s with diagRd := false }
    ((s.setReg ECC_DIAG_CHK.check_rd [] chk).setReg ECC_DIAG_CHK.syndrome [] syn).setReg ECC_DIAG_CHK.read_valid [] 1
  else s

/-- No correction is written back to the word (R405). -/
def State.diagHeld (s : State) (w : Nat) : Bool :=
  s.bit ECC_DIAG.hold && decide (s.reg ECC_DIAG.addr = w)

/-! ### Where words lie -/

/-- The macro group and line of an SRAM word (R403). -/
def macroOf (s : State) (w : Nat) : Option (Nat × Nat) :=
  match regionOf s (32 * w) with
  | .spm n o => some (16 * n.val + o / 32 % 16, o / 512)
  | .vault o => some (512 + (vaultBank o).val, (o / 65536 * 2048 + o % 2048) / 32)
  | .tcm o => some (609, o / 32)
  | _ => none

/-- The lowest remap entry of a DRAM channel or macro group that is free (R403). -/
def State.freeSpare (s : State) (dram : Bool) (g : Nat) : Option Nat :=
  if dram then (List.range 32).find? fun i => !s.bit ECC_REMAP_DRAM.valid [g, i]
  else (List.range 16).find? fun i => !s.bit ECC_REMAP_SRAM.valid [g, i]

/-- The data of a word change by the bits of `e`, and the parity of its page does not. -/
def State.xorWord (s : State) (w e : Nat) : State := { s with mem := xorBytes s.mem (32 * w) e 32 }.moveData w e

/-- Store a word poisoned (R396). -/
def State.setPoison (s : State) (w : Nat) : State :=
  { s with poison := insertNat w s.poison }

/-- A word is stored poisoned: its data stays as it decodes (R388 step 4, R395, R396), so that its parity does not change. -/
def State.poisonWord (s : State) (w : Nat) : State :=
  let p := s.flipAt w
  (((s.xorWord w (p % 2 ^ 256)).moveCheck w (p / 2 ^ 256)).setFlip w 0).setPoison w

/-- A word is stored anew, with a fresh check field, as it decodes (R394, R404): the errors its decoder leaves become its data, and one
that is uncorrectable or poisoned is stored poisoned. -/
def State.absorb (s : State) (w : Nat) : State :=
  let p := s.flipAt w
  if p = 0 then s
  else if decodeWord p = .bad ∨ decodeWord p = .poisoned then s.poisonWord w
  else (s.xorWord w (leftover p)).setFlip w 0

/-! ### The page code -/

/-- The number of a read of the slot's parity, `truth` being the parity of its page: copy A if its CRC holds, else copy B (R386). -/
def ParitySlot.read (p : ParitySlot) (truth : Nat) : Option Nat :=
  if p.crcA then some (truth ^^^ p.a) else if p.crcB then some (truth ^^^ p.b) else none

/-- The page of a word as its words decode. -/
def State.pageSeen (s : State) (w i : Nat) : Nat := s.dataWord (pageBase w + i) ^^^ leftover (s.flipAt (pageBase w + i))

/-- The words of the page whose decode is uncorrectable (R388 step 2). -/
def State.erasures (s : State) (w : Nat) : List Nat :=
  (List.range 128).filter fun i => decide (decodeWord (s.flipAt (pageBase w + i)) = .bad)

/-- A corrected word is written back with a fresh check field. -/
def State.putWord (s : State) (w v : Nat) : State :=
  (s.xorWord w (s.dataWord w ^^^ v)).setFlip w 0

/-- The words of a corrected page that differ from what was read are written back, unless held (R388, R405). -/
def State.storePage (s : State) (w : Nat) (ws : List Nat) : State :=
  (ws.zipIdx).foldl (fun s e =>
    let x := pageBase w + e.2
    if (decide (decodeWord (s.flipAt x) = .bad) || decide (e.1 ≠ s.pageSeen w e.2)) && !s.diagHeld x then s.putWord x e.1 else s) s

/-- Step 2 of R388: the page and its parity are read and every codeword decoded; if all succeed the corrected words are written back. -/
def State.fixPage (s : State) (w : Nat) : Option State :=
  match (s.slot (s.pageSlot w)).read (pageParity fun i => s.dataWord (pageBase w + i)) with
  | none => none
  | some q => (mendPage (s.pageSeen w) q (s.erasures w)).map (s.storePage w)

/-- The errors in word `i` of the check page of a word. -/
def State.checkErrors (s : State) (w i : Nat) : Nat :=
  (s.flips.filter fun f => inDram s f.1 && decide (2 ^ 256 ≤ f.2 ∧ (pageOf f.1).1 = (pageOf w).1 ∧ (s.checkPlace f.1).1 = (s.checkPlace w).1 ∧
    (s.checkPlace f.1).2 / 16 = i)).foldl (fun a f => a ^^^ f.2 / 2 ^ 256 * 2 ^ (16 * ((s.checkPlace f.1).2 % 16))) 0

/-- The check field of a word comes to differ from the right one by `e`. -/
def State.storeCheck (s : State) (x e : Nat) : State :=
  if e ≠ s.flipAt x / 2 ^ 256 then s.setFlip x (s.flipAt x % 2 ^ 256 + e * 2 ^ 256) else s

/-- The check fields of the check page of a word come to differ from the right ones by `es`. -/
def State.storeChecks (s : State) (w : Nat) (es : List Nat) : State :=
  let r := (s.checkPlace w).1
  (List.range 2048).foldl (fun s l =>
    s.storeCheck (s.wordAt (pageOf w).1 (16 * r + l / 128) (l % 128)) (es.getD (l / 16) 0 / 2 ^ (16 * (l % 16)) % 65536)) s

/-- Step 3 of R388: the check page with the page's check fields is corrected by its own parity and written back. The code is linear, so that
its errors decode as it does. -/
def State.fixChecks (s : State) (w : Nat) : Option State :=
  match (s.slot (s.checkSlot w)).read 0 with
  | none => none
  | some q => (mendPage (s.checkErrors w) q []).map (s.storeChecks w)

/-- Steps 2 and 3 of a recovery (R388): the type of the event if it succeeds. -/
def State.pageSteps (s : State) (w : Nat) : Option Nat × State :=
  match s.fixPage w with
  | some s => (some 2, s)
  | none =>
    match s.fixChecks w with
    | none => (none, s)
    | some s =>
      match s.fixPage w with
      | some s => (some 3, s)
      | none => (none, s)

/-- A read of the parity slot of a word's page, of which the CRC of copy A or B may have come to fail: a copy whose CRC fails is rewritten from
the other and the event logged (R386). -/
def State.readSlot (s : State) (w : Nat) (crcA crcB : Bool) : State :=
  let p := s.slot (s.pageSlot w)
  let p : ParitySlot := { p with crcA := p.crcA && crcA, crcB := p.crcB && crcB }
  if p.crcA = p.crcB then s.setSlot (s.pageSlot w) p
  else
    let s := s.setSlot (s.pageSlot w) (if p.crcA then ⟨p.a, p.a, true, true⟩ else ⟨p.b, p.b, true, true⟩)
    (s.logEvent 8 (unitOf s w) (32 * w) 0 noBit false).bucketAdd (unitOf s w)

/-- Neither copy of the parity slot of a word's page can be read (R386). -/
def State.slotLost (s : State) (w : Nat) : Bool := !(s.slot (s.pageSlot w)).crcA && !(s.slot (s.pageSlot w)).crcB

/-- A correctable event of type 2 or 3. -/
def State.pageEvent (s : State) (type w p : Nat) (scrub : Bool) : State :=
  let u := unitOf s w
  let s := s.logEvent type u (32 * w) (Config.wordSyndrome (BitVec.ofNat 272 p)).toNat noBit scrub
  (s.bump ECC_STATUS.page_corr_count []).bucketAdd u

/-- The entry of type 4 and the event of an uncorrectable word (R388 step 4). -/
def State.uncorrWord (s : State) (w u p : Nat) (scrub : Bool) : State :=
  (s.logEvent 4 u (32 * w) (Config.wordSyndrome (BitVec.ofNat 272 p)).toNat noBit scrub).uncorrEvent u

/-- An uncorrectable word: poison is returned and written, type 4 is logged (R388 step 4, R395). -/
def State.giveUp (s : State) (w p : Nat) (scrub : Bool) : State :=
  (if s.diagHeld w then s else s.poisonWord w).uncorrWord w (unitOf s w) p scrub

/-- What steps 2 and 3 of a recovery came to is logged, or the word given up (R388). -/
def State.recovered (w p : Nat) (scrub : Bool) : Option Nat × State → State
  | (some t, s) => s.pageEvent t w p scrub
  | (none, s) => s.giveUp w p scrub

/-- Whether the page code can be tried on a word (R382, R386). -/
def State.pageCoded (s : State) (w : Nat) : Bool := s.pageFull w && !s.slotLost w

/-- A recovery of a word whose parity slot has been read (R388). -/
def State.recoverWord (s : State) (w : Nat) (scrub : Bool) : State :=
  if s.pageCoded w then State.recovered w (s.flipAt w) scrub (s.pageSteps w) else s.giveUp w (s.flipAt w) scrub

/-- A copy reads a word: one that is uncorrectable is recovered if it can be, and it is stored as it decodes (R404). -/
def State.copyWord (s : State) (w : Nat) : State :=
  (if decodeWord (s.flipAt w) = .bad then s.recoverWord w false else s).absorb w

/-- A location has been copied, corrected (R403, R404). -/
def State.copyCorrected (s : State) (here : Nat → Bool) : State :=
  ((s.flips.map (·.1)).filter here).foldl State.copyWord s

/-! ### Hard faults -/

/-- A unit has no spare left for a hard fault: an entry of type 7 and `remap_full` (R403). -/
def State.spareFull (s : State) (addr u : Nat) : State :=
  (s.setReg ECC_STATUS.remap_full [] 1).logEvent 7 u addr 0 noBit false

/-- A spare has been taken: it is counted, with an entry of type 6 (R403). -/
def State.spareTaken (s : State) (addr u : Nat) : State :=
  (s.bump ECC_STATUS.remap_count []).logEvent 6 u addr 0 noBit false

/-- Spare page `i` of channel `u` takes the page's place, with its corrected data and their parity (R381, R403). -/
def State.sparePage (s : State) (w u i : Nat) : State :=
  let s := s.copyCorrected fun x => inDram s x && decide (pageOf x = pageOf w)
  ((s.setReg ECC_REMAP_DRAM.page [u, i] (pageOf w).2).setReg ECC_REMAP_DRAM.valid [u, i] 1).freshPage w

/-- Spare line `i` of macro group `g` takes the place of line `l` (R403). -/
def State.spareLine (s : State) (g l i : Nat) : State :=
  (s.setReg ECC_REMAP_SRAM.line [g, i] l).setReg ECC_REMAP_SRAM.valid [g, i] 1

/-- A hard fault in DRAM (R403). -/
def State.hardPage (s : State) (w u : Nat) : State :=
  match s.freeSpare true u with
  | none => s.spareFull (32 * w) u
  | some i => (s.sparePage w u i).spareTaken (32 * w) u

/-- A hard fault in on-chip memory: macro group and line (R403). -/
def State.hardLine (s : State) (addr u : Nat) (gl : Nat × Nat) : State :=
  match s.freeSpare false gl.1 with
  | none => s.spareFull addr u
  | some i => (s.spareLine gl.1 gl.2 i).spareTaken addr u

/-- An error that recurs after its correction was written back (R403). -/
def State.hardFault (s : State) (w : Nat) : State :=
  if !s.bit ECC_CTRL.auto_remap then s
  else if inDram s w then s.hardPage w (unitOf s w)
  else
    match macroOf s w with
    | none => s
    | some gl => s.hardLine (32 * w) (unitOf s w) gl

/-- A hard fault of a word would find a spare. -/
def State.hasSpare (s : State) (w : Nat) : Bool :=
  s.bit ECC_CTRL.auto_remap &&
    if inDram s w then (s.freeSpare true (unitOf s w)).isSome
    else
      match macroOf s w with
      | none => false
      | some gl => (s.freeSpare false gl.1).isSome

/-- A correction of a word is written back, unless held; where the error recurs the location has a hard fault, and with no spare the error
stays (R399, R403). -/
def State.writeFix (s : State) (w : Nat) (recurs : Bool) : State :=
  if s.diagHeld w then s
  else if !recurs then s.absorb w
  else if s.hasSpare w then (s.hardFault w).absorb w
  else s.hardFault w

/-- RECOVERY of an uncorrectable DRAM word (R388), with the state of the parity slot's two copies (R386) and whether the error
recurs after the write-back (R403). -/
def State.recover (s : State) (w : Nat) (crcA crcB recurs scrub : Bool) : State :=
  let s := if s.pageFull w then s.readSlot w crcA crcB else s
  let t := s.recoverWord w scrub
  if recurs && s.pageCoded w && decide ((s.pageSteps w).1.isSome) && !s.diagHeld w then t.hardFault w else t

/-! ### Reading a word -/

/-- A poisoned word is met: an entry of type 5 (R395). -/
def State.meetPoison (s : State) (w : Nat) (scrub : Bool) : State :=
  s.logEvent 5 (unitOf s w) (32 * w) 0xFFFF noBit scrub

/-- Bit `b` of a word has been corrected: logged, counted and written back (R383, R396). -/
def State.fixWord (s : State) (w p b : Nat) (recurs scrub : Bool) : State :=
  ((s.logEvent 1 (unitOf s w) (32 * w) (if p = 0 then 0 else (Config.wordSyndrome (BitVec.ofNat 272 p)).toNat) b scrub).bucketAdd
    (unitOf s w)).writeFix w recurs

/-- What a word's error pattern leads to (R383). -/
def State.decodePattern (s : State) (w p : Nat) (recurs scrub : Bool) : Bool × State :=
  match decodeWord p with
  | .clean _ => (false, s)
  | .fixed b _ => (false, s.fixWord w p b recurs scrub)
  | .poisoned => (false, s.meetPoison w scrub)
  | .bad => if inDram s w then (true, s) else (false, s.giveUp w p scrub)

/-- A stored word is read and decoded (R383, R395, R396): events are logged and corrections written back; the answer is true
where a DRAM word is uncorrectable and a recovery is due (R388). -/
def State.decodeRead (s : State) (w : Nat) (recurs scrub : Bool) : Bool × State :=
  if !s.wordLive w then (false, s)
  else if (s.diagRecord w).poison.contains w then (false, (s.diagRecord w).meetPoison w scrub)
  else (s.diagRecord w).decodePattern w ((s.diagRecord w).flipAt w) recurs scrub

/-- A reader meets a word: it is decoded, and a recovery it calls for ends before the reader goes on (R389). -/
def State.readEcc (s : State) (w : Nat) (scrub : Bool) : State :=
  if (s.decodeRead w false scrub).1 then (s.decodeRead w false scrub).2.recover w true true false scrub
  else (s.decodeRead w false scrub).2

/-- A reader meets the words of `n` bytes at `a`. -/
def State.settleWords (s : State) (w : Nat) : Nat → State
  | 0 => s
  | n + 1 => (s.readEcc w false).settleWords (w + 1) n

/-- The words of `n` bytes at `a` are decoded; where memory holds no error, no poison and no diagnostic read is awaited, nothing
happens. -/
def State.settleRange (s : State) (a n : Nat) : State :=
  if s.flips = [] ∧ s.poison = [] ∧ s.diagRd = false then s
  else s.settleWords (a / 32) ((a + n + 31) / 32 - a / 32)

/-! ### SRAM that no device address reaches (R383, R395, R399, R403) -/

/-- The unit of Table 15-6 of a word of other SRAM. The replica sets lie in the vault (R243). -/
def sramUnit : Sram → Nat
  | .acc n _ => 80 + n.val
  | .stage n _ => 80 + n.val
  | .icache n _ => 80 + n.val
  | .l2 _ => 112
  | .monitor _ => 114
  | .replica b _ _ _ => 48 + b.val
  | .rowLine _ _ _ => 115
  | .sums _ _ _ => 115
  | .store _ => 116
  | .metadata _ _ => 117

/-- The macro group of a word of other SRAM (R403); the metadata caches have none. -/
def sramGroup : Sram → Option Nat
  | .acc n _ => some (544 + n.val)
  | .stage n _ => some (576 + n.val)
  | .icache n _ => some (576 + n.val)
  | .l2 _ => some 608
  | .monitor _ => some 610
  | .replica b _ _ _ => some (512 + b.val)
  | .rowLine _ _ _ => some 611
  | .sums _ _ _ => some 611
  | .store _ => some 612
  | .metadata _ _ => none

/-- The error pattern of a word of other SRAM. -/
def State.sramFlip (s : State) (k : Sram) : Nat := ((s.sram.find? fun e => decide (e.1 = k)).map (·.2)).getD 0

/-- Set the error pattern of a word of other SRAM. -/
def State.setSram (s : State) (k : Sram) (p : Nat) : State :=
  let l := s.sram.filter fun e => decide (e.1 ≠ k)
  { s with sram := if p % 2 ^ 272 = 0 then l else l ++ [(k, p % 2 ^ 272)] }

/-- A word of other SRAM is stored poisoned; a poisoned accumulator word has its entries marked (R169). -/
def State.sramIsBad (s : State) : Sram → Bool
  | .acc n k => s.cores[n].accBad.any fun e => decide (e / 8 = k)
  | k => s.sramBad.contains k

/-- A word of other SRAM is stored poisoned (R395). -/
def State.sramPoison (s : State) (k : Sram) : State :=
  let s := s.setSram k 0
  match k with
  | .acc n w => s.setCore n fun x => { x with accBad := (List.range 8).foldl (fun l i => insertNat (8 * w + i) l) x.accBad }
  | k => { s with sramBad := k :: s.sramBad.filter fun e => decide (e ≠ k) }

/-- A word of other SRAM is written as a whole: errors and poison are gone (R396). -/
def State.sramFresh (s : State) (here : Sram → Bool) : State :=
  if s.sram = [] ∧ s.sramBad = [] then s
  else { s with sram := s.sram.filter fun e => !here e.1, sramBad := s.sramBad.filter fun k => !here k }

/-- The data of a word of other SRAM differ by `e` from now on: of those whose contents the model holds word by word. -/
def State.sramXor (s : State) (k : Sram) (e : Nat) : State :=
  match k with
  | .acc n w => s.setCore n fun x => { x with
      acc := (List.range 8).foldl (fun l i => aset (8 * w + i) (((alookup (8 * w + i) l).getD 0) ^^^ e / 2 ^ (32 * i) % 2 ^ 32) 0 l) x.acc }
  | .stage n w => s.setCore n fun x =>
      let f (b : BitVec 16384) : BitVec 16384 := b ^^^ BitVec.ofNat 16384 (e % 2 ^ 256 * 2 ^ (256 * (w % 64)))
      { x with staging := x.staging.set! (w / 64) (f (x.staging.getD (w / 64) 0)), prep := x.prep.map fun q => if q.slot = w / 64 then { q with image := f q.image } else q }
  | _ => s

/-- An event of other SRAM is logged. Its words have no device address, so that the address is a free value (R402 states none). -/
def State.sramEvent (s : State) (k : Sram) (type synd bit : Nat) (scrub : Bool) : State :=
  match s.draw 48 with
  | (a, s) => s.logEvent type (sramUnit k) a.toNat synd bit scrub

/-- An error of other SRAM that recurs (R403); where a line lies in its macro group is stated for the accumulator alone, and free for the others. -/
def State.sramHard (s : State) (k : Sram) : State :=
  match sramGroup k with
  | none => s
  | some g =>
    if !s.bit ECC_CTRL.auto_remap then s
    else
      match s.draw 65 with
      | (x, s) => s.hardLine (x.toNat % 2 ^ 48) (sramUnit k) (g, match k with
        | .acc _ w => w / 2
        | _ => x.toNat / 2 ^ 48)

/-- A word of other SRAM is read and decoded (R383, R395, R396, R399, R403). -/
def State.sramRead (s : State) (k : Sram) (recurs scrub : Bool) : State :=
  let p := s.sramFlip k
  let syn := if p = 0 then 0 else (Config.wordSyndrome (BitVec.ofNat 272 p)).toNat
  if s.sramIsBad k then
    let s := s.sramEvent k 5 0xFFFF noBit scrub
    if (sramUnit k) = 114 then s.detect 0x51 0 none else s
  else if p = 0 then s
  else
    match decodeWord p with
    | .clean e => (s.setSram k 0).sramXor k e.toNat
    | .fixed b e =>
      let s := (s.sramEvent k 1 syn b scrub).bucketAdd (sramUnit k)
      let s := (s.setSram k 0).sramXor k e.toNat
      if recurs then s.sramHard k else s
    | .poisoned => (s.sramPoison k).sramEvent k 5 0xFFFF noBit scrub
    | .bad => ((s.sramPoison k).sramEvent k 4 syn noBit scrub).uncorrEvent (sramUnit k)

/-- A reader meets the words of other SRAM that a test selects: those with an error or poison are decoded. -/
def State.sramMeet (s : State) (here : Sram → Bool) : State :=
  if s.sram = [] ∧ s.sramBad = [] then s
  else ((s.sram.map (·.1) ++ s.sramBad).filter here).foldl (fun s k => s.sramRead k false false) s

/-- A word of other SRAM that a test selects is poisoned. -/
def State.sramAny (s : State) (here : Sram → Bool) : Bool := s.sramBad.any here

end Sys2Proof.Machine
end

