-- ==== Sys2Proof/Machine/Mem.lean ====
section
/-! DEFINITION. Machine/Mem.lean: memory through its merge buffers (R270, R271, R390 to R396), who may access what (R274, R279,
R412), windows, handles and task boundaries (R263 to R268, R276). -/
namespace Sys2Proof.Machine
open Reg

/-! ### Memory -/

/-- The stored byte at an address; an unlisted byte reads 0 (R390, R391). -/
def memByte (m : List Host.Cell) (a : Nat) : Byte :=
  (alookup a m).getD 0

/-- The canonical form of memory: addresses strictly rising, and no entry equal to what an unlisted byte reads. -/
def Memory.wf (m : List Host.Cell) : Bool := asorted m && m.all fun e => decide (e.2 ≠ 0)

/-- Store one byte, keeping the canonical form. -/
def memPut (m : List Host.Cell) (a : Nat) (b : Byte) : List Host.Cell :=
  aset a b 0 m

/-- Store pending bytes (byte number, value) of the line at `base`. The first entry for a byte stands. -/
def memPutAll (m : List Host.Cell) (base : Nat) : List (Nat × Byte) → List Host.Cell
  | [] => m
  | (i, b) :: l => memPut (memPutAll m base l) (base + i) b

/-- Store consecutive bytes. -/
def memPutBytes (m : List Host.Cell) (a : Nat) : List Byte → List Host.Cell
  | [] => m
  | b :: bs => memPutBytes (memPut m a b) (a + 1) bs

/-- The event that made the byte at an address undefined, if it is. -/
def hazeAt (a : Nat) : List (Nat × Nat × Nat) → Option Nat
  | [] => none
  | (x, n, e) :: l => if x ≤ a ∧ a < x + n then some e else hazeAt a l

/-- The parts of an undefined range outside [lo, lo + n). -/
def hazeCut (lo n : Nat) (r : Nat × Nat × Nat) : List (Nat × Nat × Nat) :=
  let x := r.1
  let y := r.1 + r.2.1
  (if x < min y lo then [(x, min y lo - x, r.2.2)] else []) ++
    (if max x (lo + n) < y then [(max x (lo + n), y - max x (lo + n), r.2.2)] else [])

/-- The bytes [lo, lo + n) are defined from now on. -/
def hazeClear (lo n : Nat) (l : List (Nat × Nat × Nat)) : List (Nat × Nat × Nat) :=
  l.flatMap (hazeCut lo n)

/-- The listed bytes of the line at `base` are defined from now on. -/
def hazeClearAll (l : List (Nat × Nat × Nat)) (base : Nat) : List (Nat × Byte) → List (Nat × Nat × Nat)
  | [] => l
  | (i, _) :: bs => hazeClear (base + i) 1 (hazeClearAll l base bs)

/-- The byte stored at an address, as its word decodes: a free value where its contents are undefined (R266, R267). -/
def State.rawByte (s : State) (a : Nat) : Byte :=
  match hazeAt a s.haze with
  | some e => Config.freeByte e a
  | none =>
    let b := memByte s.mem a
    if s.flips = [] then b else b ^^^ BitVec.ofNat 8 (leftover (s.flipAt (a / 32)) / 256 ^ (a % 32))

/-- The pending byte of a merge buffer, the newest entry first (R270, R271). -/
def pendingByte (line i : Nat) : List Gather → Option Byte
  | [] => none
  | g :: gs =>
    if g.line = line then
      match alookup i g.bytes with
      | some b => some b
      | none => pendingByte line i gs
    else pendingByte line i gs

/-- The merge buffers: of a core's scratchpad, a vault bank, a DRAM channel (R270, R394). -/
inductive BufId where
  | spm (n : CoreId)
  | bank (b : Fin 32)
  | chan (c : Fin 16)
  deriving DecidableEq, Repr

/-- The merge buffer an address goes through. -/
def bufOf (s : State) (a : Nat) : Option BufId :=
  match regionOf s a with
  | .dram o => some (.chan (dramChannel o))
  | .vault o => some (.bank (vaultBank o))
  | .spm n o => if o < 0x300000 then some (.spm n) else none
  | _ => none

/-- The entries of a merge buffer, newest first. Lines are numbered by device address / 32. -/
def State.buf (s : State) : BufId → List Gather
  | .spm n => s.cores[n].gather
  | .bank b => s.bankBuf[b]
  | .chan c => s.chanBuf[c]

/-- Replace the entries of a merge buffer. -/
def State.setBuf (s : State) (b : BufId) (l : List Gather) : State :=
  match b with
  | .spm n => s.setCore n fun c => { c with gather := l }
  | .bank b => { s with bankBuf := s.bankBuf.set b l }
  | .chan c => { s with chanBuf := s.chanBuf.set c l }

/-- The address lies in the TCM. -/
def inTcm (a : Nat) : Bool := decide (tcmBase ≤ a ∧ a < tcmBase + 0x40000)

/-- The byte that a read at an address returns below the L2: pending bytes of the merge buffers first (R271, R394). -/
def State.lowByte (s : State) (a : Nat) : Byte :=
  match bufOf s a with
  | none => if inTcm a then (if s.written.contains (a / 32) then s.rawByte a else Config.freeByte 0 a) else 0
  | some b => (pendingByte (a / 32) (a % 32) (s.buf b)).getD (s.rawByte a)

/-- The byte that a read at an address returns: one that is dirty in the L2 of the application cluster first (R29). -/
def State.byteAt (s : State) (a : Nat) : Byte := (pendingByte (a / 32) (a % 32) s.l2).getD (s.lowByte a)

/-- `n` bytes from an address. -/
def State.readBytes (s : State) (a : Nat) : Nat → List Byte
  | 0 => []
  | n + 1 => s.byteAt a :: s.readBytes (a + 1) n

/-- The little-endian value of `n` bytes. -/
def State.readNat (s : State) (a n : Nat) : Nat :=
  natOfBytes (s.readBytes a n)

/-- The cycle count a merge buffer ages by (R270, R394). -/
def State.bufClock (s : State) : BufId → Nat
  | .spm n => s.cycles n
  | _ => s.fclk

/-- Note that the 32-byte word `w` has been written: the written bit of an SRAM line, or the valid bit of a DRAM block
with the zero-fill of R391 (bytes of an invalid block are unlisted, so they read zero already). -/
def State.markWritten (s : State) (w : Nat) : State :=
  if 32 * w < s.dataBytes then (if s.valid.contains (32 * w / 8192) then s else s.zeroFill (32 * w / 8192))
  else { s with written := insertNat w s.written }

/-- The armed diagnostic write (R405): the word is stored with check_wr in place of the computed check field. -/
def State.diagWrite (s : State) (w : Nat) (bs : List Byte) : State :=
  if s.bit ECC_DIAG.arm && decide (s.reg ECC_DIAG.addr = w) then
    let e := s.reg ECC_DIAG_CHK.check_wr ^^^ (Config.wordCheck (BitVec.ofNat 256 (natOfBytes bs))).toNat
    let s := { (s.setReg ECC_DIAG.arm [] 0) with diagRd := true }
    if e = 0xFFFF then s.setPoison w else s.setFlip w (e * 2 ^ 256)
  else s

/-- The pending entry of a line is dropped from its merge buffer, if it has one (R270). -/
def State.dropFrom (s : State) (w : Nat) : Option BufId → State
  | none => s
  | some b => s.setBuf b ((s.buf b).filter fun g => decide (g.line ≠ w))

/-- The pending entry of a line is dropped (R270). -/
def State.dropEntry (s : State) (w : Nat) : State := s.dropFrom w (bufOf s (32 * w))

/-- The bytes of a line are stored, without poison, error or undefined bytes (R396). -/
def State.storeLine (s : State) (w : Nat) (bs : List Byte) : State :=
  { s with
    mem := memPutBytes s.mem (32 * w) bs
    haze := hazeClear (32 * w) 32 s.haze
    poison := s.poison.filter fun p => decide (p ≠ w)
    flips := adel w s.flips }

/-- In class Full a write reads the old word first, for the parity: an error there is met, and what its decode leaves is taken as the old
data (R387; assumption 122, DEDUCED). -/
def State.oldWord (s : State) (w : Nat) : State := if s.pageFull w then (s.settleRange (32 * w) 32).absorb w else s

/-- Write a whole 32-byte word: it drops any pending entry for its line, clears poison and any error (R270, R396). -/
def State.writeLine (s : State) (w : Nat) (bs : List Byte) : State :=
  ((((s.dropEntry w).oldWord w).markWritten w).keeping w fun s => s.storeLine w (bs.take 32)).diagWrite w (bs.take 32)

/-- A scratchpad's performance counter `k` counts (Table 12). -/
def State.countSpm (s : State) (b : BufId) (k : Nat) : State :=
  match b with
  | .spm n => s.bump Reg.SPM_PERF.count [n.val, k]
  | _ => s

/-- The pending bytes of an entry are stored. -/
def State.storeBytes (s : State) (g : Gather) : State :=
  { s with mem := memPutAll s.mem (32 * g.line) g.bytes, haze := hazeClearAll s.haze (32 * g.line) g.bytes }

/-- Write one merge-buffer entry into its word by read-modify-write (R270, R394): the old word is decoded and corrected where it can
be; where it cannot, it is poisoned and stays so under the new bytes. -/
def State.writeBack (s : State) (b : BufId) (g : Gather) : State :=
  ((((s.countSpm b 2).settleRange (32 * g.line) 32).absorb g.line).markWritten g.line).keeping g.line fun s => s.storeBytes g

/-- Merge bytes into a pending entry. -/
def mergeBytes (i : Nat) (l : List (Nat × Byte)) : List Byte → List (Nat × Byte)
  | [] => l
  | b :: bs => mergeBytes (i + 1) (aput i b l) bs

/-- The entry of a line, and the other entries. -/
def takeEntry (line : Nat) : List Gather → Option Gather × List Gather
  | [] => (none, [])
  | g :: gs =>
    if g.line = line then (some g, gs)
    else match takeEntry line gs with
      | (r, l) => (r, g :: l)

/-- Bytes merged into the entry of their line, which keeps its age: a full entry is written as a whole line, `rest` being the others (R270). -/
def State.mergeInto (s : State) (b : BufId) (rest : List Gather) (g : Gather) : State :=
  if g.bytes.length ≥ 32 then ((s.countSpm b 1).setBuf b rest).writeLine g.line (g.bytes.map (·.2))
  else s.setBuf b ((s.buf b).map fun h => if h.line = g.line then g else h)

/-- A new entry, in the place of `old` where one has to be written back (R270). -/
def State.entryFor (s : State) (b : BufId) (g : Gather) : Option Gather → State
  | none => s.setBuf b (g :: s.buf b)
  | some old => (s.writeBack b old).setBuf b (g :: (s.buf b).dropLast)

/-- A new entry: where all eight are in use the oldest is written back (R270). -/
def State.newEntry (s : State) (b : BufId) (g : Gather) : State :=
  s.entryFor b g (if (s.buf b).length ≥ 8 then (s.buf b).getLast? else none)

/-- Bytes for a line whose entry, if it has one, is given, with the other entries (R270). -/
def State.mergeFound (s : State) (b : BufId) (line i : Nat) (bs : List Byte) (rest : List Gather) : Option Gather → State
  | some g => s.mergeInto b rest { g with bytes := mergeBytes i g.bytes bs }
  | none => s.newEntry b ⟨line, mergeBytes i [] bs, s.bufClock b⟩

/-- A write narrower than a line enters the merge buffer (R270): it merges into its line's entry, or takes a free one,
the oldest being written back if none is free; an entry that becomes full is written as a whole line. -/
def State.writeNarrow (s : State) (b : BufId) (line i : Nat) (bs : List Byte) : State :=
  s.mergeFound b line i bs (takeEntry line (s.buf b)).2 (takeEntry line (s.buf b)).1

/-- Bytes of a cleared grid table are written by something else (R124). -/
def State.notClean (s : State) (a n : Nat) : State :=
  if s.clean = [] then s else { s with clean := s.clean.filter fun r => !decide (a < r.1 + r.2 ∧ r.1 < a + n) }

/-- Bytes are stored as they are. -/
def State.storePlain (s : State) (a : Nat) (bs : List Byte) : State :=
  { s with mem := memPutBytes s.mem a bs, haze := hazeClear a bs.length s.haze }

/-- Write bytes that lie within one line, through a merge buffer where the memory has one. -/
def State.writeVia (s : State) (a : Nat) (bs : List Byte) : Option BufId → State
  | none => if inTcm a then (s.markWritten (a / 32)).storePlain a bs else s
  | some b => if bs.length = 32 then s.writeLine (a / 32) bs else s.writeNarrow b (a / 32) (a % 32) bs

/-- Write bytes of a line one by one. -/
def State.writeEach (s : State) (w : Nat) : List (Nat × Byte) → State
  | [] => s
  | (i, b) :: l => (s.writeVia (32 * w + i) [b] (bufOf s (32 * w))).writeEach w l

/-- A word that is dirty in the L2 is written back and leaves it (R29). -/
def State.l2Back (s : State) (w : Nat) : Option Gather × List Gather → State
  | (none, _) => s
  | (some g, l) =>
    let here (k : Sram) : Bool := decide (k = .l2 w)
    let s := s.sramMeet here
    let bad := s.sramAny here
    let s := ((({ s with l2 := l }).sramFresh here).writeEach w g.bytes)
    if bad then s.setPoison w else s

/-- A write by another agent invalidates the matching words of the L2; dirty bytes of such a word that it does not write are kept (R29). -/
def State.l2Out (s : State) (w : Nat) : State := s.l2Back w (takeEntry w s.l2)

/-- Write bytes that lie within one line. -/
def State.writePart (s : State) (a : Nat) (bs : List Byte) : State :=
  ((s.l2Out (a / 32)).notClean a bs.length).writeVia a bs (bufOf s a)

/-- Write bytes line by line in rising order (at most `fuel` lines). -/
def State.writeLoop (s : State) (a : Nat) (bs : List Byte) : Nat → State
  | 0 => s
  | fuel + 1 =>
    if bs = [] then s
    else
      let k := 32 - a % 32
      (s.writePart a (bs.take k)).writeLoop (a + k) (bs.drop k) fuel

/-- Write bytes at a device address: whole lines directly, partial lines through the merge buffers (R270, R364, R394). -/
def State.writeBytes (s : State) (a : Nat) (bs : List Byte) : State :=
  s.writeLoop a bs (bs.length / 32 + 2)

/-- Write the low `n` bytes of a value. -/
def State.writeNat (s : State) (a n v : Nat) : State :=
  s.writeBytes a (bytesOf n v)

/-- Write back entries of a merge buffer, the last first. -/
def State.writeBackAll (s : State) (b : BufId) : List Gather → State
  | [] => s
  | g :: l => (s.writeBackAll b l).writeBack b g

/-- Write back every pending entry of a buffer that a test selects, the oldest first (R270). -/
def State.flushBuf (s : State) (b : BufId) (sel : Gather → Bool) : State :=
  (s.writeBackAll b ((s.buf b).filter sel)).setBuf b ((s.buf b).filter fun g => !sel g)

/-- The word that holds an address is stored poisoned (R396). -/
def State.poisonedAt (s : State) (a : Nat) : Bool :=
  s.poison.contains (a / 32)

/-- Some word of a range is stored poisoned, or decodes as poisoned. -/
def State.poisonedIn (s : State) (a n : Nat) : Bool :=
  s.poison.any (fun w => decide (a / 32 ≤ w ∧ w * 32 < a + n)) ||
    s.flips.any fun f => decide (a / 32 ≤ f.1 ∧ f.1 * 32 < a + n ∧ decodeWord f.2 = .poisoned)

/-- The contents of `n` bytes from an address become undefined (R266, R267). -/
def State.blur (s : State) (a n : Nat) : State :=
  let s := s.notClean a n
  { s with haze := (a, n, s.free) :: hazeClear a n s.haze, free := s.free + 1 }

/-! ### Who may access what -/

/-- The map entry of partition `p` whose valid field has bit address `k`. -/
def mapIndex (p : PartId) (k : Nat) : Option Nat :=
  let b := 8 * (0xC10000 + p.val * 0x8000)
  if b ≤ k ∧ k < b + 8 * 0x8000 ∧ (k - b) % 64 = 63 then some ((k - b) / 64) else none

/-- Some valid entry of the partition's map names the page of the address with the permission (R412). -/
def State.mapped (s : State) (p : PartId) (wr : Bool) (a : Nat) : Bool :=
  s.csr.any fun e =>
    match mapIndex p e.1 with
    | none => false
    | some i =>
      decide (e.2 ≠ 0) && s.bit (if wr then Reg.HOST_MAP.wr else Reg.HOST_MAP.rd) [p.val, i] &&
        decide (s.reg Reg.HOST_MAP.page [p.val, i] = a / 2 ^ 21)

/-- The vault offset lies in the region that TBL_VAULT reserves, in 64 KiB units (R279). -/
def State.inTableRegion (s : State) (o : Nat) : Bool :=
  decide (s.reg Reg.TBL_VAULT.base * 65536 ≤ o ∧
    o < (s.reg Reg.TBL_VAULT.base + s.reg Reg.TBL_VAULT.size) * 65536)

/-- The lines of an open window: its handle's first line and size (R273). -/
def State.winLines (s : State) (n : CoreId) (w : Fin 8) : Nat × Nat :=
  let h := s.ctxs[s.cores[n].winOwner[w]].handles[Fin.ofNat 256 (s.reg Reg.SPM_WIN.handle [n.val, w.val])]
  (bitsOf h.toNat 16 0, bitsOf h.toNat 48 32)

/-- A window is open to remote requesters: win.open has run its latency (R336). -/
def State.winOpen (s : State) (n : CoreId) (w : Fin 8) : Bool :=
  s.bit Reg.SPM_WIN.open [n.val, w.val] && !(s.ctxs[s.cores[n].winOwner[w]].late.any fun l => decide (l.effect = .window w))

/-- The open window that covers a physical line, the lowest if several. -/
def State.winOf (s : State) (n : CoreId) (line : Nat) : Option (Fin 8) :=
  (List.finRange 8).find? fun w =>
    s.winOpen n w &&
      (let r := s.winLines n w; decide (r.1 ≤ line ∧ line < r.1 + r.2))

/-- The requester passes a window's masks (R274). -/
def State.winPasses (s : State) (n : CoreId) (w : Fin 8) (src : Src) (p : PartId) : Bool :=
  bitOf (s.reg Reg.SPM_WIN.part_mask [n.val, w.val]) p.val &&
    match src with
    | .core m => bitOf (s.reg Reg.SPM_WIN.core_mask [n.val, w.val]) m.val
    | _ => s.bit Reg.SPM_WIN.ext [n.val, w.val]

/-- Why a line access into a scratchpad by another agent is denied, if it is (R274). -/
def State.winDenial (s : State) (n : CoreId) (line : Nat) (wr : Bool) (src : Src) (p : PartId) : Option Denial :=
  match s.winOf n line with
  | none => some (.window n none)
  | some w =>
    if s.bit (if wr then Reg.SPM_WIN.wr else Reg.SPM_WIN.rd) [n.val, w.val] && s.winPasses n w src p then none
    else some (.window n (some w))

/-- Why an access is denied, if it is (R274, R279, R379, R380, R408, R412, R413, R478). -/
def State.denial (s : State) (src : Src) (p : PartId) (wr : Bool) (a : Nat) : Option Denial :=
  match regionOf s a with
  | .dram _ => if !s.trained then some .unmapped else if s.mapped p wr a then none else some .map
  | .vault o => if s.inTableRegion o then some .table else if s.mapped p wr a then none else some .map
  | .spm n o => if o < 0x300000 then s.winDenial n (o / 32) wr src p else none
  | .csr _ => some .map
  | .tcm _ => some .map
  | .host q _ =>
    if q = p ∧ s.mapped p wr a then
      match s.boundFn p with
      | some f => if s.fnLink f then none else some .map
      | none => some .map
    else some .map
  | .unmapped => some .unmapped

/-- The source code of a denial in SPM_STATUS (Table 10-4). -/
def srcCode : Src → Nat
  | .core n => n.val
  | .app => 0x41
  | .pcie p => 0x42 + p.val
  | .fabric => 0x44

/-- What a denial records (R274, R279, R412). -/
def State.recordDenial (s : State) (src : Src) (p : PartId) : Denial → State
  | .map => s.bump Reg.HOST_PART_STATUS.map_denied [p.val]
  | .table => s.bump Reg.TBL_PERF.count [8]
  | .window n w =>
    let i := [n.val]
    let s := s.bump Reg.SPM_STATUS.denied_count i
    let s := s.setReg Reg.SPM_STATUS.last_src i (srcCode src)
    let s := s.setReg Reg.SPM_STATUS.last_part i p.val
    let s := s.setReg Reg.SPM_STATUS.last_nowin i (if w.isNone then 1 else 0)
    let s := match w with
      | some w => s.setReg Reg.SPM_STATUS.last_win i w.val
      | none => s
    s.setReg Reg.SPM_STATUS.denied i 1
  | .bell n w isOpen =>
    let i := [n.val]
    let s := s.bump Reg.SPM_STATUS.denied_count i
    let s := s.setReg Reg.SPM_STATUS.last_src i (srcCode src)
    let s := s.setReg Reg.SPM_STATUS.last_part i p.val
    let s := s.setReg Reg.SPM_STATUS.last_nowin i (if isOpen then 0 else 1)
    let s := if isOpen then s.setReg Reg.SPM_STATUS.last_win i w.val else s
    s.setReg Reg.SPM_STATUS.denied i 1
  | .chunk => s
  | .unmapped => s

/-- The host address of an offset in a partition's host window (R413). -/
def State.hostAddr (s : State) (p : PartId) (o : Nat) : Nat :=
  (o + s.reg Reg.HOST_HWIN.offset [p.val]) % 2 ^ 64

/-! ### The chip's own engines -/

/-- An engine that acts for no partition (Ethernet queues, IMU ring, front end) reaches DRAM whose channels are trained and the
vault outside the table region (R79, Table 3-24, R279, R379). -/
def State.hwReach (s : State) (a : Nat) : Bool :=
  match regionOf s a with
  | .dram _ => s.trained
  | .vault o => !s.inTableRegion o
  | _ => false

/-- Such an engine's access is not performed; one into the table region is counted (R279). -/
def State.hwRefused (s : State) (a : Nat) : State :=
  match regionOf s a with
  | .vault _ => s.bump Reg.TBL_PERF.count [8]
  | _ => s

/-- Such an engine writes bytes. -/
def State.hwWrite (s : State) (a : Nat) (bs : List Byte) : State :=
  if s.hwReach a then s.writeBytes a bs else s.hwRefused a

/-- The words that such an engine reads are decoded first (R383, R395). -/
def State.hwSettle (s : State) (a n : Nat) : State :=
  if s.hwReach a then s.settleRange a n else s.hwRefused a

/-- Such an engine reads bytes that have been decoded; where nothing is reached they read zero. -/
def State.hwRead (s : State) (a n : Nat) : List Byte :=
  if s.hwReach a then s.readBytes a n else List.replicate n 0

/-! ### Windows, handles and task boundaries -/

/-- Close a window: later accesses are denied, and pending bytes of its lines are written back (R270, R276). -/
def State.closeWindow (s : State) (n : CoreId) (w : Fin 8) : State :=
  let r := s.winLines n w
  let lo := spmAddr n r.1 / 32
  let s := s.flushBuf (.spm n) fun g => decide (lo ≤ g.line ∧ g.line < lo + r.2)
  s.setReg SPM_WIN.open [n.val, w.val] 0

/-- Close the open windows of a core that a test selects. -/
def State.closeWindows (s : State) (n : CoreId) (sel : Fin 8 → Bool) : State :=
  (List.finRange 8).foldl (fun s w => if s.bit SPM_WIN.open [n.val, w.val] && sel w then s.closeWindow n w else s) s

/-- Close the open windows of a context on every core that a test of the handle number selects. -/
def State.closeOwned (s : State) (c : CtxId) (sel : Fin 256 → Bool) : State :=
  (List.finRange 32).foldl (fun s n =>
    s.closeWindows n fun w => decide (s.cores[n].winOwner[w] = c) && sel (Fin.ofNat 256 (s.reg SPM_WIN.handle [n.val, w.val]))) s

/-- Window `w` of core `n` stands on handle `h` of context `c`. -/
def State.winOn (s : State) (n : CoreId) (c : CtxId) (h : Nat) (w : Fin 8) : Bool :=
  decide (s.cores[n].winOwner[w] = c ∧ s.reg SPM_WIN.handle [n.val, w.val] = h)

/-- A handle entry's fields (Table 10-1). -/
def hValid (h : BitVec 128) : Bool := h.getLsbD 127
/-- pin. -/
def hPin (h : BitVec 128) : Bool := h.getLsbD 126
/-- twod. -/
def hTwod (h : BitVec 128) : Bool := h.getLsbD 125
/-- Block columns W. -/
def hCols (h : BitVec 128) : Nat := bitsOf h.toNat 79 64 + 1
/-- Size in lines. -/
def hLines (h : BitVec 128) : Nat := bitsOf h.toNat 48 32
/-- First physical line. -/
def hBase (h : BitVec 128) : Nat := bitsOf h.toNat 16 0

/-- A handle entry made invalid; its other fields stay (R265). -/
def hClear (h : BitVec 128) : BitVec 128 :=
  h &&& ~~~(1#128 <<< 127)

/-- The handles that keep lines of core `n` defined when context `c` drops a handle: the pinned ones of `c`, and the valid ones of the
other contexts resident there (R266, R267). -/
def State.keepers (s : State) (n : CoreId) (c : CtxId) : List (BitVec 128) :=
  (s.ctxs[c].handles.toList.filter fun g => hValid g && hPin g) ++
    ((s.cores[n].slots.toList.filterMap id).filter fun d => decide (d ≠ c)).flatMap fun d =>
      s.ctxs[d].handles.toList.filter hValid

/-- A handle covers a line. -/
def hCovers (g : BitVec 128) (l : Nat) : Bool := decide (hBase g ≤ l ∧ l < hBase g + hLines g)

/-- Make the contents of a handle's lines undefined, except lines that other handles keep (R266, R267). -/
def State.blurHandle (s : State) (n : CoreId) (keep : List (BitVec 128)) (h : BitVec 128) : State :=
  let pins := keep.filter fun g => decide (hBase g < hBase h + hLines h ∧ hBase h < hBase g + hLines g)
  if pins = [] then s.blur (spmAddr n (hBase h)) (32 * hLines h)
  else
    (List.range (hLines h)).foldl (fun s i =>
      let l := hBase h + i
      if pins.any (fun g => hCovers g l) then s else s.blur (spmAddr n l) 32) s

/-- A task boundary (R267): windows on unpinned handles of the context close, those handles become invalid, and the contents
they alone covered, on the core in which they lie, become undefined. -/
def State.taskBoundary (s : State) (c : CtxId) : State :=
  let n := s.ctxs[c].spm
  let tab := s.ctxs[c].handles
  let s := s.closeOwned c fun h => !hPin tab[h]
  let s := s.flushBuf (.spm n) fun g =>
    tab.toList.any fun h => hValid h && decide (spmAddr n (hBase h) / 32 ≤ g.line ∧ g.line < spmAddr n (hBase h) / 32 + hLines h)
  let s := (tab.toList.filter fun h => hValid h && !hPin h).foldl (fun s h => s.blurHandle n (s.keepers n c) h) s
  s.setCtx c fun x => { x with handles := x.handles.map fun h => if hPin h then h else hClear h }

end Sys2Proof.Machine
end

