-- ==== Sys2Proof/Machine/RegOps.lean ====
section
/-! DEFINITION. Machine/RegOps.lean: what every CSR write and read does whatever the register: who may make it, which fields
it reaches (R12, R15, R481), and the latches of reads. -/
namespace Sys2Proof.Machine
open Reg

/-- A write that has reached a register: the agent, the fields that take effect, and the register's bits as written. -/
structure Wr where
  agent : Agent
  taken : List Fld
  val   : Nat
  deriving DecidableEq, Repr

/-- The field takes effect. -/
def Wr.has (w : Wr) (f : Fld) : Bool := w.taken.contains f

/-- The value written to a field. -/
def Wr.get (w : Wr) (f : Fld) : Nat := w.val / 2 ^ f.lo % 2 ^ f.width

/-- A non-zero value is written to a field that takes effect. -/
def Wr.sets (w : Wr) (f : Fld) : Bool := w.has f && decide (w.get f ≠ 0)

/-- What one field takes from a write, by its access code (Table 0-5): RW is set, RWL is set until boot lock, W1C clears on 1;
RO takes nothing, WO acts as its register says, RWT is staged elsewhere. -/
def State.writeField (s : State) (w : Wr) (idx : List Nat) (f : Fld) : State :=
  match f.acc with
  | .rw => s.setReg f idx (w.get f)
  | .rwl => if s.locked then s else s.setReg f idx (w.get f)
  | .w1c => if w.get f = 0 then s else s.setReg f idx 0
  | _ => s

/-- A write with no rule of its own (R12). -/
def plainWrite (s : State) (w : Wr) (idx : List Nat) : State :=
  w.taken.foldl (fun s f => s.writeField w idx f) s

/-- The plain effect on every field but those named. -/
def plainBut (skip : List Fld) (s : State) (w : Wr) (idx : List Nat) : State :=
  (w.taken.filter fun f => !skip.contains f).foldl (fun s f => s.writeField w idx f) s

/-- Partition `p` may write the register's fields (Machine/Regs.lean, Writer). -/
def State.mayWrite (s : State) (a : Agent) (wr : Writer) (idx : List Nat) : Bool :=
  let p := s.partOf a
  match wr with
  | .any => true
  | .none => false
  | .p0 => decide (p = 0)
  | .safetyOwner => decide (p = s.safetyOwner)
  | .p0OrSafetyOwner => decide (p = 0 ∨ p = s.safetyOwner)
  | .posePart => decide (p.val = csrGet s.acq FE_POSE_CTRL.pose_part [])
  | .channelOwner => decide (p.val = s.reg DMA_OWN.part [idx.headD 0])
  | .p0OrPart => decide (p = 0 ∨ p.val = idx.headD 0)
  | .ctxOwner => decide (p.val = s.reg SO_CTX_CFG.part [idx.headD 0])
  | .soRule => true

/-- Partition `p` may read the register; to others it reads zero (R290, R296, R377, R407, R430). -/
def State.mayRead (s : State) (a : Agent) (rd : Reader) (idx : List Nat) : Bool :=
  let p := s.partOf a
  match rd with
  | .all => true
  | .ctxOwnerOrP0 => decide (p = 0 ∨ p.val = s.reg SO_CTX_CFG.part [idx.headD 0])
  | .ownPart => decide (p.val = idx.headD 0)
  | .p0OrSafetyOwner => decide (p = 0 ∨ p = s.safetyOwner)
  | .p0OrPart => decide (p = 0 ∨ p.val = idx.headD 0)
  | .soRule => s.soPermits p (idx.headD 0)

/-- The lower part of a write held for an agent at an offset (R15, R481). -/
def heldAt (a : Agent) (off : Nat) (l : List (Agent × Nat × Nat)) : Option Nat :=
  (l.find? fun e => decide (e.1 = a ∧ e.2.1 = off)).map (·.2.2)

/-- Without the entry of an agent at an offset. -/
def dropHeld (a : Agent) (off : Nat) (l : List (Agent × Nat × Nat)) : List (Agent × Nat × Nat) :=
  l.filter fun e => !decide (e.1 = a ∧ e.2.1 = off)

/-- The field lies in the span [lo, hi) of register bits. -/
def Fld.within (f : Fld) (lo hi : Nat) : Bool :=
  decide (lo ≤ f.lo ∧ f.lo + f.width ≤ hi)

/-- The field takes effect only with the register's last part (R15, R69, R481): it spans both halves of a 64-bit register,
lies in a register wider than 64 bits, or is one of PTP_INCR's two. RO, W1C and RWT fields are not so held. -/
def Fld.joined (r : RegRow) (f : Fld) : Bool :=
  decide (f.acc = .rw ∨ f.acc = .rwl ∨ f.acc = .wo) &&
    (decide (8 < r.bytes) || decide (f.lo < 32 ∧ 32 < f.lo + f.width) ||
      decide (f = PTP_INCR.incr_ns ∨ f = PTP_INCR.incr_frac))

/-- The bits of the register at the write of its last part: the parts held for the agent below it, the current bits where
no part is held (assumption 9, DEDUCED). -/
def State.heldBits (s : State) (a : Agent) (addr : Nat) (cur : Nat) : Nat → Nat
  | 0 => 0
  | k + 1 =>
    s.heldBits a addr cur k +
      ((heldAt a (addr + 4 * k) s.halves).getD (bitsOf cur (32 * k + 31) (32 * k))) * 2 ^ (32 * k)

/-- The instance's byte offset in CSR space. -/
def RegRow.addr (r : RegRow) (idx : List Nat) : Nat :=
  r.base + strideSum (r.dims.map (·.2)) idx

/-- Take one access of `n` bytes at byte `b` of a register: the fields that take effect and the register's bits as written, with
lower parts held for the agent (R15, R481). -/
def State.takeWrite (s : State) (a : Agent) (r : RegRow) (idx : List Nat) (b n v : Nat) : State × Wr :=
  let v := v % 2 ^ (8 * n)
  let last := decide (r.bytes ≤ b + n)
  let direct := r.fields.filter fun f => f.within (8 * b) (8 * (b + n)) && !f.joined r
  let addr := r.addr idx
  let cur := rowValue s.csr idx r.fields
  if last then
    let val := s.heldBits a addr cur (b / 4) + v * 2 ^ (8 * b)
    let s' := { s with halves := s.halves.filter fun e => !decide (e.1 = a ∧ addr ≤ e.2.1 ∧ e.2.1 < addr + r.bytes) }
    (s', ⟨a, direct ++ r.fields.filter (fun f => f.joined r), val⟩)
  else
    let put (k x : Nat) (l : List (Agent × Nat × Nat)) := (a, addr + k, x) :: dropHeld a (addr + k) l
    let h := put b (v % 2 ^ 32) s.halves
    let h := if n = 8 then put (b + 4) (v / 2 ^ 32) h else h
    ({ s with halves := h }, ⟨a, direct, v * 2 ^ (8 * b)⟩)

/-- The block of an offset is off: of a core that is gated or not ready yet (R456), or of a domain that minimal mode turns off (R469). -/
def State.blockOff (s : State) (off : Nat) : Bool :=
  if 0x1000000 ≤ off ∧ off < 0x3000000 then !s.corePowered (Fin.ofNat 32 ((off - 0x1000000) / 0x100000))
  else s.minimal && decide ((0x400000 ≤ off ∧ off < 0x500000) ∨ (0x600000 ≤ off ∧ off < 0x680000) ∨ (0x700000 ≤ off ∧ off < 0x800000))

/-- One access to a register that the agent may write and whose block runs, with the register's own effect `act`. -/
def State.regWrite (s : State) (a : Agent) (r : RegRow) (idx : List Nat) (b n v : Nat)
    (act : State → Wr → List Nat → State) : State :=
  if s.agentLive a && s.mayWrite a r.wr idx && !s.blockOff (r.addr idx) then
    match s.takeWrite a r idx b n v with
    | (s, w) => act s w idx
  else s

/-- The byte place and size of an access by halves. -/
def halfPlace : Half → Nat × Nat
  | .whole => (0, 8)
  | .lower => (0, 4)
  | .upper => (4, 4)

/-- The value of a write whose bit `k` of the register is 1, where the half written holds that bit. -/
def withBit (h : Half) (k : Nat) (v : W64) : W64 :=
  match h with
  | .upper => if k < 32 then v else v ||| (1#64 <<< (k - 32))
  | _ => v ||| (1#64 <<< k)

/-- A write to a register by name: the row's own command. Nothing happens where the index has no such register. -/
def State.writeNamed (s : State) (a : Agent) (nm : RegName) (idx : List Nat) (h : Half) (v : Nat)
    (act : State → Wr → List Nat → State) : State :=
  match regRow nm with
  | none => s
  | some r =>
    if r.bytes ≤ 4 then s.regWrite a r idx 0 4 v act
    else s.regWrite a r idx (halfPlace h).1 (halfPlace h).2 v act

/-! ### Read latches -/

/-- Latch the 32-bit parts of a register above the part read (R15, R481). -/
def latchUp (a : Agent) (addr val : Nat) (from' : Nat) : Nat → List (Agent × Nat × Nat) → List (Agent × Nat × Nat)
  | 0, l => l
  | k + 1, l =>
    latchUp a addr val (from' + 1) k
      ((a, addr + 4 * from', bitsOf val (32 * from' + 31) (32 * from')) :: dropHeld a (addr + 4 * from') l)

/-- Read one 32-bit part: the agent's latch if one is held, which it consumes, else the current bits; a live read of the lower
half of a 64-bit word alone latches its upper half (R15). -/
def State.readPart (s : State) (a : Agent) (addr val k : Nat) (alone : Bool) : Nat × State :=
  match heldAt a (addr + 4 * k) s.latches with
  | some x => (x, { s with latches := dropHeld a (addr + 4 * k) s.latches })
  | none =>
    (bitsOf val (32 * k + 31) (32 * k),
      if alone && decide (k % 2 = 0) then { s with latches := latchUp a addr val (k + 1) 1 s.latches } else s)

/-- Read `n` bytes at byte `b` of a register of `bytes` bytes whose bits are `val` (R15, R481): a read of its lowest part latches
every higher part; a read of another part returns and consumes a latch. A read of all 64 bits of a register leaves a latch that its
agent holds for the upper half as it is (DESIGN CHOICE, assumption 107). -/
def State.readWord (s : State) (a : Agent) (addr bytes val b n : Nat) : Nat × State :=
  if b = 0 then
    (val % 2 ^ (8 * n), { s with latches := latchUp a addr val (n / 4) ((bytes - n) / 4) s.latches })
  else if n = 4 then s.readPart a addr val (b / 4) true
  else
    match s.readPart a addr val (b / 4) false with
    | (x, s) =>
      match s.readPart a addr val (b / 4 + 1) false with
      | (y, s) => (x + y * 2 ^ 32, s)

end Sys2Proof.Machine
end

