-- ==== Sys2Proof/Machine/Clock.lean ====
section
/-! DEFINITION. Machine/Clock.lean: the passage of time: the local clock, its steps, the slice timer, and the cycle counts of the
cores (R35, R55, R68 to R73, R85, R415). -/
namespace Sys2Proof.Machine
open Reg

/-- The increment in force, in 2^-32 ns (R69). -/
def State.increment (s : State) : Nat :=
  s.reg PTP_INCR.incr_ns * 2 ^ 32 + s.reg PTP_INCR.incr_frac

/-- A written increment takes effect (R69). -/
def State.takeIncr (s : State) : State :=
  match s.clk.nextIncr with
  | none => s
  | some (ns, fr, clamped) =>
    let s := (s.setReg PTP_INCR.incr_ns [] ns).setReg PTP_INCR.incr_frac [] fr
    let s := if clamped then s.setReg PTP_INCR.incr_clamped [] 1 else s
    { s with clk := { s.clk with nextIncr := none } }

/-- Clock time in 2^-32 ns since its epoch. -/
def Clock.units (k : Clock) : Nat := (k.sec * 1000000000 + k.ns) * 2 ^ 32 + k.frac

/-- Set the clock from a time in 2^-32 ns; seconds count modulo 2^48. -/
def Clock.ofUnits (k : Clock) (u : Nat) : Clock :=
  { k with frac := u % 2 ^ 32, ns := u / 2 ^ 32 % 1000000000, sec := u / 2 ^ 32 / 1000000000 % 2 ^ 48 }

/-- After a forward step, a periodic output whose next edge lies more than one period in the past takes the first scheduled
time not before the clock; the skipped edges are counted (R85). -/
def State.reschedule (s : State) (k : Fin 4) : State :=
  match s.pulses[k].lead with
  | none => s
  | some t =>
    let per := s.reg PTP_PULSE_SHAPE.period_ns [k.val]
    if s.bit PTP_PULSE_CTRL.periodic [k.val] && decide (0 < per ∧ (t + per) * 2 ^ 32 < s.clk.units) then
      let n := ceilDiv (s.clk.units - t * 2 ^ 32) (per * 2 ^ 32)
      ({ s with pulses := s.pulses.set k { s.pulses[k] with lead := some (t + n * per) } }).bump
        PTP_PULSE_CTRL.missed_count [k.val] n
    else s

/-- A step correction is applied (R35, R72, R73, R85): the clock moves by whole ns with its fraction unchanged, step_gen counts,
time_step is set, the open exposure notes it, and the schedules of the pulse outputs follow. The slice timer does not move. -/
def State.applyStep (s : State) (delta : Int) : State :=
  let span : Int := 2 ^ 48 * 1000000000
  let t := (((s.now : Int) + delta) % span).toNat
  let s := { s with clk := { (s.clk.ofUnits (t * 2 ^ 32 + s.clk.frac)) with stepped := true, lastStep := delta, swept := 0 } }
  let s := s.wrap PTP_STEP_CTRL.step_gen []
  let s := s.setReg FE_EXP_STATUS.time_step [] 1
  let s := { s with exps := s.exps.map fun e => if e.closeNs = none then { e with stepped := true } else e }
  if 0 < delta then (List.finRange 4).foldl (fun s k => s.reschedule k) s else s

/-- A confirmed step is applied at a TCLK edge (R73). -/
def State.takeStep (s : State) : State :=
  match s.clk.step with
  | none => s
  | some d => ({ s with clk := { s.clk with step := none } }).applyStep d

/-- The clock advances over `dt` edges by the increment in force, the slice timer with it (R35, R68). In Safelight sleep it
advances on each REFCLK edge, every tenth TCLK edge, by ten times as much (R71). -/
def State.runClock (s : State) (dt : Nat) : State :=
  let edges := if s.asleep then (s.clk.tclk + dt) / 10 * 10 - s.clk.tclk / 10 * 10 else dt
  let d := edges * s.increment
  { s with clk := { (s.clk.ofUnits (s.clk.units + d)) with
    tclk := s.clk.tclk + dt, swept := if edges = 0 then s.clk.swept else if s.asleep then 10 * s.increment else s.increment }, sliceT := s.sliceT + d }

/-- A core's cycles over `dt` TCLK edges: half of them while its detector stretches its clock (R462). -/
def State.coreTenths (s : State) (n : CoreId) (dt : Nat) : Nat :=
  if s.cores[n].stretch then dt * s.cclkTenths / 2 else dt * s.cclkTenths

/-- A powered core's cycle count, the quantum of its running context, and the cycles its partition used (R55, R415). -/
def State.runCore (s : State) (dt : Nat) (n : CoreId) : State :=
  if !s.corePowered n then s else
  let d := s.coreTenths n dt
  let s := s.setCore n fun k => { k with cclk := k.cclk + d }
  match s.runningOn n with
  | none => s
  | some c =>
    let p := s.partOf (.ctx c)
    (s.setCtx c fun x => { x with quantum := x.quantum + d }).setCore n fun k =>
      { k with used := k.used.set p (k.used[p] + d) }

/-- `dt` TCLK edges pass: a written increment and a confirmed step take effect at the first of them (R69, R73, R85), cores' cycles count, and packets
move through the mesh (R24). While a reset is
held the clock stands (R68, R455). -/
def State.advance (s : State) (dt : Nat) : State :=
  if dt = 0 ∨ s.boot.phase = .held then s
  else
    let f := s.fclk
    let s := ((s.takeIncr.runClock 1).takeStep).runClock (dt - 1)
    if s.asleep then s else ((List.finRange 32).foldl (fun s n => s.runCore dt n) s).meshRun f (s.fclk - f)

end Sys2Proof.Machine
end

