-- ==== Sys2Proof/Machine/Num.lean ====
section
/-! DEFINITION. Machine/Num.lean: number formats (R164, Tables 6-4 and 6-5, R333): values as exact rationals, and one rounding to
nearest with ties to even. -/
namespace Sys2Proof.Machine

/-- A floating-point value: NaN, an infinity, or n/d with a sign (so that zero keeps its sign). -/
inductive Val where
  | nan
  | inf (neg : Bool)
  | num (neg : Bool) (n d : Nat)
  deriving DecidableEq, Repr

/-- A floating-point format: mantissa bits, exponent bits, bias, whether it has infinities, whether conversion saturates, and the
NaN it writes (Tables 6-4 and 6-5). -/
structure Fmtf where
  man  : Nat
  ebs  : Nat
  bias : Nat
  ieee : Bool
  sat  : Bool
  nan  : Nat
  deriving DecidableEq, Repr

/-- FP8 E4M3. -/
def e4m3 : Fmtf := ⟨3, 4, 7, false, true, 0x7F⟩
/-- FP8 E5M2. -/
def e5m2 : Fmtf := ⟨2, 5, 15, true, true, 0x7E⟩
/-- FP16. -/
def fp16 : Fmtf := ⟨10, 5, 15, true, false, 0x7E00⟩
/-- BF16. -/
def bf16 : Fmtf := ⟨7, 8, 127, true, false, 0x7FC0⟩
/-- FP32. -/
def fp32 : Fmtf := ⟨23, 8, 127, true, false, 0x7FC00000⟩
/-- binary64, in which the deskew of R106 is stated. -/
def fp64 : Fmtf := ⟨52, 11, 1023, true, false, 0x7FF8000000000000⟩

/-- Width in bits. -/
def Fmtf.width (f : Fmtf) : Nat := 1 + f.ebs + f.man

/-- The bits of the first magnitude beyond the largest finite value. -/
def Fmtf.top (f : Fmtf) : Nat := if f.ieee then (2 ^ f.ebs - 1) * 2 ^ f.man else 2 ^ (f.ebs + f.man) - 1

/-- The value of a bit pattern. -/
def Fmtf.read (f : Fmtf) (b : Nat) : Val :=
  let neg := bitOf b (f.ebs + f.man)
  let mag := b % 2 ^ (f.ebs + f.man)
  if f.top ≤ mag then (if f.ieee && decide (mag = f.top) then .inf neg else .nan)
  else
    let e := mag / 2 ^ f.man
    let k := if e = 0 then mag else mag % 2 ^ f.man + 2 ^ f.man
    let x := max e 1
    let z := f.bias + f.man
    if z ≤ x then .num neg (k * 2 ^ (x - z)) 1 else .num neg k (2 ^ (z - x))

/-- Nearest integer to n/d, ties to even. -/
def rne (n d : Nat) : Nat :=
  let q := n / d
  let r := n % d
  if 2 * r < d then q else if d < 2 * r then q + 1 else q + q % 2

/-- Nearest integer to n/d, ties away from zero. -/
def rnd (n d : Nat) : Nat := (2 * n + d) / (2 * d)

/-- Floor of the base-2 logarithm of n/d. -/
def ilog (n d : Nat) : Int :=
  let e : Int := (Nat.log2 n : Int) - Nat.log2 d
  let ge := if 0 ≤ e then decide (d * 2 ^ e.toNat ≤ n) else decide (d ≤ n * 2 ^ (-e).toNat)
  if ge then e else e - 1

/-- n/d rounded to a magnitude of the format, unbounded above. -/
def Fmtf.mag (f : Fmtf) (n d : Nat) : Nat :=
  if n = 0 then 0
  else
    let emin : Int := 1 - f.bias
    let e := max (ilog n d) emin
    let q := e - f.man
    let k := if 0 ≤ q then rne n (d * 2 ^ q.toNat) else rne (n * 2 ^ (-q).toNat) d
    (e - emin).toNat * 2 ^ f.man + k

/-- The sign bit. -/
def Fmtf.sign (f : Fmtf) (neg : Bool) : Nat := if neg then 2 ^ (f.ebs + f.man) else 0

/-- A value in the format: the bits, and whether it left the range (Table 6-5). -/
def Fmtf.put (f : Fmtf) (v : Val) : Nat × Bool :=
  match v with
  | .nan => (f.nan, false)
  | .inf neg => if f.sat then (f.sign neg + (f.top - 1), true) else (f.sign neg + f.top, false)
  | .num neg n d =>
    let m := f.mag n d
    if m < f.top then (f.sign neg + m, false)
    else if f.sat then (f.sign neg + (f.top - 1), true)
    else (f.sign neg + f.top, true)

/-- A value in the format. -/
def Fmtf.write (f : Fmtf) (v : Val) : Nat := (f.put v).1

/-- A value rounded to FP32 and read again. -/
def Val.round (v : Val) (f : Fmtf) : Val := f.read (f.write v)

/-- An integer as a value. -/
def Val.ofInt (i : Int) : Val := .num (decide (i < 0)) i.natAbs 1

/-- The sign of a value. -/
def Val.neg? : Val → Bool
  | .nan => false
  | .inf b => b
  | .num b _ _ => b

/-- The negative of a value. -/
def Val.neg : Val → Val
  | .nan => .nan
  | .inf b => .inf !b
  | .num b n d => .num (!b) n d

/-- The absolute value. -/
def Val.abs : Val → Val
  | .nan => .nan
  | .inf _ => .inf false
  | .num _ n d => .num false n d

/-- The signed numerator. -/
def signedNum (neg : Bool) (n : Nat) : Int := if neg then -(n : Int) else n

/-- Exact sum; a sum of opposite infinities is NaN; an exact zero sum of unlike signs is +0. -/
def Val.add (a b : Val) : Val :=
  match a, b with
  | .nan, _ => .nan
  | _, .nan => .nan
  | .inf x, .inf y => if x = y then .inf x else .nan
  | .inf x, _ => .inf x
  | _, .inf y => .inf y
  | .num x n d, .num y m e =>
    let g := Nat.gcd d e
    let t := signedNum x n * ((e / g : Nat) : Int) + signedNum y m * ((d / g : Nat) : Int)
    if t = 0 then .num (x && y && decide (n = 0)) 0 1 else .num (decide (t < 0)) t.natAbs (d / g * e)

/-- Exact difference. -/
def Val.sub (a b : Val) : Val := a.add b.neg

/-- Exact product; zero times infinity is NaN. -/
def Val.mul (a b : Val) : Val :=
  match a, b with
  | .nan, _ => .nan
  | _, .nan => .nan
  | .inf x, .inf y => .inf (x != y)
  | .inf x, .num y m _ => if m = 0 then .nan else .inf (x != y)
  | .num x n _, .inf y => if n = 0 then .nan else .inf (x != y)
  | .num x n d, .num y m e => .num (x != y) (n * m) (d * e)

/-- Exact quotient; zero by zero and infinity by infinity are NaN. -/
def Val.div (a b : Val) : Val :=
  match a, b with
  | .nan, _ => .nan
  | _, .nan => .nan
  | .inf _, .inf _ => .nan
  | .inf x, .num y _ _ => .inf (x != y)
  | .num x _ _, .inf y => .num (x != y) 0 1
  | .num x n d, .num y m e =>
    if m = 0 then (if n = 0 then .nan else .inf (x != y)) else .num (x != y) (n * e) (d * m)

/-- The square root, exact or a value strictly between its two neighbours on a grid of 2^-k / d. -/
def Val.sqrt (k : Nat) : Val → Val
  | .nan => .nan
  | .inf true => .nan
  | .inf false => .inf false
  | .num neg n d =>
    if n = 0 then .num neg 0 1
    else if neg then .nan
    else
      let x := n * d * 4 ^ k
      let t := Nat.sqrt x
      if t * t = x then .num false t (d * 2 ^ k) else .num false (2 * t + 1) (2 * (d * 2 ^ k))

/-- Less than; false where an operand is NaN. -/
def Val.lt (a b : Val) : Bool :=
  match a, b with
  | .nan, _ => false
  | _, .nan => false
  | .inf x, .inf y => x && !y
  | .inf x, _ => x
  | _, .inf y => !y
  | .num x n d, .num y m e => decide (signedNum x n * (e : Int) < signedNum y m * (d : Int))

/-- Equal as numbers; false where an operand is NaN. -/
def Val.eq (a b : Val) : Bool :=
  match a, b with
  | .nan, _ => false
  | _, .nan => false
  | _, _ => !a.lt b && !b.lt a

/-- The value is NaN. -/
def Val.isNan : Val → Bool
  | .nan => true
  | _ => false

/-- min and max (R333): the other operand where one is NaN; between zeros of unlike sign the manual states no choice. -/
def Val.pick (small : Bool) (a b : Val) : Val :=
  if a.isNan then b
  else if b.isNan then a
  else if a.eq b && (a.neg? != b.neg?) then .num (Config.zeroPick small) 0 1
  else if a.lt b == small then a else b

/-- The nearest integer, ties to even; none for NaN and infinities. -/
def Val.toInt : Val → Option Int
  | .num neg n d => some (signedNum neg (rne n d))
  | _ => none

/-- The nearest integer, ties away from zero (R107). -/
def Val.rndInt : Val → Option Int
  | .num neg n d => some (signedNum neg (rnd n d))
  | _ => none

/-- A value as an integer of `w` bits (Table 6-5), and whether it saturated or replaced a NaN. -/
def Val.toBits (w : Nat) (v : Val) : Nat × Bool :=
  let lo : Int := -(2 ^ (w - 1) : Int)
  let hi : Int := 2 ^ (w - 1) - 1
  match v with
  | .nan => (0, true)
  | .inf true => (wrapOf w lo, true)
  | .inf false => (wrapOf w hi, true)
  | .num neg n d =>
    let i := signedNum neg (rne n d)
    (wrapOf w (clampInt lo hi i), decide (i < lo ∨ hi < i))

/-! ### The eight formats of y_fmt (Tables 7-3 and 11-2) -/

/-- A format by code: an integer width or a floating-point format. -/
inductive Num where
  | int (w : Nat)
  | flt (f : Fmtf)
  deriving DecidableEq, Repr

/-- Codes 0 to 7. -/
def numOf (code : Nat) : Num :=
  match code with
  | 0 => .int 8
  | 1 => .flt e4m3
  | 2 => .flt e5m2
  | 3 => .int 4
  | 4 => .flt fp16
  | 5 => .flt bf16
  | 6 => .int 32
  | _ => .flt fp32

/-- Width in bits. -/
def Num.width : Num → Nat
  | .int w => w
  | .flt f => f.width

/-- The value of a bit pattern. -/
def Num.read : Num → Nat → Val
  | .int w, b => .ofInt (signedOf w b)
  | .flt f, b => f.read b

/-- A value converted by Table 6-5, and whether it saturated or a NaN was replaced in an integer destination. -/
def Num.put : Num → Val → Nat × Bool
  | .int w, v => v.toBits w
  | .flt f, v =>
    match f.put v with
    | (b, out) => (b, out && f.sat)

/-! ### Lanes -/

/-- The element `i` of width `w` of a register or line. -/
def laneOf (w v i : Nat) : Nat := v / 2 ^ (w * i) % 2 ^ w

/-- The lowest `n` elements of width `w`. -/
def lanesOf (w : Nat) : Nat → Nat → List Nat
  | 0, _ => []
  | n + 1, v => v % 2 ^ w :: lanesOf w n (v / 2 ^ w)

/-- Elements packed, the first lowest. -/
def packLanes (w : Nat) : List Nat → Nat
  | [] => 0
  | a :: l => a % 2 ^ w + 2 ^ w * packLanes w l

end Sys2Proof.Machine
end

