-- ==== Sys2Proof/Machine/MemRows.lean ====
section
/-! DEFINITION. Machine/MemRows.lean: the commands of the chapter Main memory and data integrity, and accesses to the vault (R278,
R379 to R405). -/
namespace Sys2Proof.Machine
open Reg

/-! ### Accesses of agents -/

/-- Why an agent's access is denied, if it is: harts alone reach the TCM (R408). -/
def State.agentDenial (s : State) (a : Agent) (wr : Bool) (addr : Nat) : Option Denial :=
  match a with
  | .hart _ => if inTcm addr then none else s.denial (s.srcOf a) (s.partOf a) wr addr
  | _ => s.denial (s.srcOf a) (s.partOf a) wr addr

/-- An agent's denied access: it is recorded and the agent gets its access fault or Completer Abort; a PCIe write is dropped (R412,
R478). In the table region a write is dropped and a read returns zero (R279). -/
def State.refuseAccess (s : State) (a : Agent) (wr : Bool) (d : Denial) : State :=
  let s := s.recordDenial (s.srcOf a) (s.partOf a) d
  match a, d with
  | _, .table => if wr then s else s.emit (.data a 0)
  | .fn _, _ => if wr then s else s.emit (.abort a)
  | _, _ => s.emit (.abort a)

/-- The DRAM page of an address has a recovery under way, or its channel is paused: the access is held (R389, R406). -/
def State.dramHeld (s : State) (addr : Nat) : Bool :=
  decide (addr < s.dataBytes) && (bitOf (s.reg MEM_STATUS.paused) (dramChannel addr).val ||
    s.recov.any fun r => decide (pageOf (r.2.1 / 32) = pageOf (addr / 32)))

/-- The data of a read by an agent: poison reaches a hart as an access fault and a PCIe function as a poisoned completion (Table
15-5). -/
def State.deliver (s : State) (a : Agent) (addr n : Nat) : State :=
  if s.poisonedIn addr n then
    match a with
    | .fn _ => s.emit (.poisoned a (s.readNat addr n))
    | _ => s.emit (.abort a)
  else s.emit (.data a (s.readNat addr n))

/-- Bits of a stored codeword flip, where the word holds one. -/
def State.upset (s : State) (w : Nat) (p : BitVec 272) : State :=
  if p ≠ 0 ∧ s.wordLive w then s.setFlip w (s.flipAt w ^^^ p.toNat) else s

/-- Bits of a stored codeword of other SRAM flip. -/
def State.upsetSram (s : State) (k : Sram) (p : BitVec 272) : State := s.setSram k (s.sramFlip k ^^^ p.toNat)

/-- The number of bytes of an access that lie in its word. -/
def inWord (addr n : Nat) : Nat := min n (32 - addr % 32)

/-- Every byte of a range within one word is dirty in the L2. -/
def State.l2Holds (s : State) (a n : Nat) : Bool := (List.range n).all fun i => (pendingByte (a / 32) (a % 32 + i) s.l2).isSome

/-- The agent is a hart. -/
def isHart : Agent → Bool
  | .hart _ => true
  | _ => false

/-- A hart's read meets the L2's copy of a word (R395). -/
def State.l2Read (s : State) (a : Agent) (d : Nat) : State := if isHart a then s.sramMeet fun k => decide (k = .l2 (d / 32)) else s

/-- An agent reads `n` bytes of the DRAM word at `d`; those that are dirty in the L2 come from there (R29). -/
def State.dramRead (s : State) (a : Agent) (d n : Nat) (upset : BitVec 272) (recurs : Bool) : State :=
  if !s.agentLive a then s
  else
    match s.agentDenial a false d with
    | some r => s.refuseAccess a false r
    | none =>
      let s := s.l2Read a d
      if isHart a && s.sramAny (fun k => decide (k = .l2 (d / 32))) then s.emit (.abort a)
      else if s.l2Holds d (inWord d n) then s.emit (.data a (s.readNat d (inWord d n)))
      else if s.dramHeld d then s
      else
        match (s.upset (d / 32) upset).decodeRead (d / 32) recurs false with
        | (true, s) => { s with recov := s.recov ++ [(a, d, inWord d n)] }
        | (false, s) => s.deliver a d (inWord d n)

/-- A hart's write stays in the L2: its word is dirty there. -/
def State.l2Keep (s : State) (a : Nat) (bs : List Byte) : State :=
  match takeEntry (a / 32) s.l2 with
  | (some g, l) => { s with l2 := { g with bytes := mergeBytes (a % 32) g.bytes bs } :: l }
  | (none, l) => { s with l2 := ⟨a / 32, mergeBytes (a % 32) [] bs, s.clk.tclk⟩ :: l }

/-- The oldest dirty word of the L2 is written back. -/
def State.l2Evict (s : State) : State :=
  match s.l2.getLast? with
  | some g => s.l2Out g.line
  | none => s

/-- Words of 32 bytes in the 4 MiB of the L2 (Table 1-1). -/
def l2Words : Nat := 131072

/-- A hart's write of a whole word clears what was wrong with the L2's copy (R396). -/
def State.l2Fresh (s : State) (a : Nat) (bs : List Byte) : State :=
  if bs.length = 32 then s.sramFresh fun k => decide (k = .l2 (a / 32)) else s

/-- A hart writes bytes of a DRAM word through the L2: the manual does not say when a written line stays dirty there and when it is written
back, so free values decide both; at most 4 MiB can be dirty (assumption 121, DESIGN CHOICE). -/
def State.hartStore (s : State) (a : Nat) (bs : List Byte) : State :=
  match s.draw 2 with
  | (x, s) =>
    let s := if x.getLsbD 1 || decide (l2Words ≤ s.l2.length) then s.l2Evict else s
    if x.getLsbD 0 then ((s.notClean a bs.length).l2Fresh a bs).l2Keep a bs else s.writeBytes a bs

/-- An agent writes bytes within the DRAM word at `d`. -/
def State.dramWrite (s : State) (a : Agent) (d : Nat) (bs : List Byte) (upset : BitVec 272) : State :=
  if !s.agentLive a then s
  else
    match s.agentDenial a true d with
    | some r => s.refuseAccess a true r
    | none =>
      if s.dramHeld d then s
      else
        let b := bs.take (inWord d bs.length)
        let s := match a with
          | .hart _ => s.hartStore d b
          | _ => s.writeBytes d b
        s.upset (d / 32) upset

/-- DRAM_RECOVERY (R388): the oldest recovery under way ends, with the parity slot's copies as given (R386), and its reader gets the
data. -/
def execDramRecovery (crcA crcB recurs : Bool) (s : State) : Ans :=
  .next (match s.recov with
    | [] => s
    | (a, d, n) :: l =>
      let s := { s with recov := l }
      (s.recover (d / 32) crcA crcB recurs false).deliver a d n)

/-- An access of an agent to the vault, or of a hart to the TCM (R408): `n` bytes are read, or the bytes `bs` written where there are any. -/
def State.vaultAccess (s : State) (a : Agent) (d n : Nat) (bs : List Byte) (upset : BitVec 272) : State :=
  if !s.agentLive a then s
  else
    match s.agentDenial a (bs ≠ []) d with
    | some r => s.refuseAccess a (bs ≠ []) r
    | none =>
      if bs = [] then
        let s := (s.upset (d / 32) upset).settleRange d 1
        s.deliver a d (inWord d n)
      else (s.writeBytes d (bs.take (inWord d bs.length))).upset (d / 32) upset

/-- An access at or above the data capacity and below the vault is not performed (R380, R478). -/
def State.noMemory (s : State) (a : Agent) (wr : Bool) : State := if s.agentLive a then s.refuseAccess a wr .unmapped else s

/-- DRAM_READ (R383): an agent reads up to 32 bytes of one word, in which the bits `upset` have flipped meanwhile; `recurs` says
that the error comes back after its correction is written (R403). -/
def execDramRead (a : Agent) (addr : BitVec 48) (n : Nat) (upset : BitVec 272) (recurs : Bool) (s : State) : Ans :=
  .next (match regionOf s addr.toNat with
    | .dram _ => s.dramRead a addr.toNat n upset recurs
    | .tcm _ => s.vaultAccess a addr.toNat n [] upset
    | .unmapped => s.noMemory a false
    | _ => s)

/-- DRAM_WRITE (R387, R394): an agent writes bytes within one word; the bits `upset` of the stored codeword flip afterwards. -/
def execDramWrite (a : Agent) (addr : BitVec 48) (bs : List Byte) (upset : BitVec 272) (s : State) : Ans :=
  .next (match regionOf s addr.toNat with
    | .dram _ => s.dramWrite a addr.toNat bs upset
    | .tcm _ => if bs = [] then s else s.vaultAccess a addr.toNat 0 bs upset
    | .unmapped => s.noMemory a true
    | _ => s)

/-- VAULT_ACCESS (R278, R279): an agent reads `n` bytes of a vault line, or writes the bytes `bs` where there are any. -/
def execVaultAccess (a : Agent) (off : BitVec 26) (n : Nat) (bs : List Byte) (upset : BitVec 272) (s : State) : Ans :=
  .next (s.vaultAccess a (vaultBase + off.toNat) n bs upset)

/-- MERGE_BUFFER_WRITEBACK (R394): entries of a DRAM channel (0 to 15) or vault bank (16 to 47) that have been held for 64 FCLK are
written back. -/
def execMergeBufferWriteback (dt : Nat) (b : Fin 48) (s : State) : Ans :=
  let s := s.advance dt
  let id : BufId := if b.val < 16 then .chan (Fin.ofNat 16 b.val) else .bank (Fin.ofNat 32 (b.val - 16))
  .next (s.flushBuf id fun g => decide (g.since + 64 ≤ s.fclk))

/-- GATHER_WRITEBACK (R270): entries of a core's gather buffer held for 64 CCLK are written back. -/
def execGatherWriteback (dt : Nat) (n : CoreId) (s : State) : Ans :=
  let s := s.advance dt
  .next (s.flushBuf (.spm n) fun g => decide (g.since + 64 ≤ s.cycles n))

/-! ### Configuration -/

/-- C in GiB for ranks and density codes, where R379 allows them. -/
def capacity (ranks density : Nat) : Option Nat :=
  match ranks, density with
  | 0, 0 => some 16
  | 0, 1 => some 32
  | 1, 0 => some 32
  | 0, 2 => some 64
  | 1, 1 => some 64
  | _, _ => none

/-- A write of MEM_CFG (R379). -/
def onMemCfg (s : State) (w : Wr) (idx : List Nat) : State :=
  let skip := [MEM_CFG.ranks, MEM_CFG.density, MEM_CFG.rate]
  let s := plainBut skip s w idx
  if s.locked then s
  else
    match capacity (w.get MEM_CFG.ranks) (w.get MEM_CFG.density) with
    | some c =>
      if w.get MEM_CFG.rate ≤ 4 then
        let s := (s.setReg MEM_CFG.ranks [] (w.get MEM_CFG.ranks)).setReg MEM_CFG.density [] (w.get MEM_CFG.density)
        (s.setReg MEM_CFG.rate [] (w.get MEM_CFG.rate)).setReg MEM_CFG.installed_gib [] c
      else s.setReg MEM_CFG.cfg_err [] 1
    | none => s.setReg MEM_CFG.cfg_err [] 1

/-- MEM_CFG_WRITE (R379). `trains` names the channels that firmware has trained under the configuration by the end of the command; the
manual gives training no register (assumption 12, DESIGN CHOICE). Before boot lock only. -/
def execMemCfgWrite (a : Agent) (v : BitVec 32) (trains : BitVec 16) (s : State) : Ans :=
  let s := s.writeNamed a .MEM_CFG [] .whole v.toNat onMemCfg
  .next (if s.partOf a = 0 ∧ s.agentLive a ∧ !s.locked then s.setReg MEM_CFG.trained [] trains.toNat else s)

/-- A write of MEM_ZERO (R392). -/
def onMemZero (s : State) (w : Wr) (idx : List Nat) : State :=
  let s := plainWrite s w idx
  if w.sets MEM_ZERO.start && !s.bit MEM_ZERO.busy then
    { (s.setReg MEM_ZERO.busy [] 1) with zeroing := some (s.reg MEM_ZERO.first, s.reg MEM_ZERO.nblocks) }
  else s

/-- MEM_ZERO_START (R392). -/
def execMemZeroStart (a : Agent) (h : Half) (v : W64) (s : State) : Ans :=
  .next (s.writeNamed a .MEM_ZERO [] h v.toNat onMemZero)

/-- The valid bits of `n` blocks from `b` clear and what the blocks held is gone (R391, R392). -/
def State.zeroBlocks (s : State) (b n : Nat) : State :=
  let lo := 8192 * b
  let hi := min (8192 * (b + n)) s.dataBytes
  let word (w : Nat) : Bool := decide (lo ≤ 32 * w ∧ 32 * w < hi)
  { s with
    valid := s.valid.filter fun k => !decide (b ≤ k ∧ k < b + n)
    mem := s.mem.filter fun c => !decide (lo ≤ c.1 ∧ c.1 < hi)
    parity := s.parity.filter fun e => !(List.range (2 * n)).any fun i => decide (e.1 = s.pageSlot (256 * b + 128 * i))
    haze := hazeClear lo (hi - lo) s.haze
    poison := s.poison.filter fun w => !word w
    flips := s.flips.filter fun f => !word f.1
    chanBuf := s.chanBuf.map fun l => l.filter fun g => !word g.line
    l2 := s.l2.filter fun g => !word g.line }

/-- A read accepted for one of `n` blocks from `b` is still under recovery. -/
def State.readUnder (s : State) (b n : Nat) : Bool := s.recov.any fun r => decide (8192 * b ≤ r.2.1 ∧ r.2.1 < 8192 * (b + n))

/-- MEM_ZERO_DONE (R392): not before the reads accepted for the blocks have completed. -/
def execMemZeroDone (dt : Nat) (s : State) : Ans :=
  let s := s.advance dt
  .next (match s.zeroing with
    | none => s
    | some (b, n) =>
      if s.readUnder b n then s
      else
        let s := { (s.zeroBlocks b n) with zeroing := none }
        s.setReg MEM_ZERO.busy [] 0)

/-! ### Remapping, scrub, buckets -/

/-- A word lies in the location that a remap entry names (R403, R404). -/
def State.inSpareOf (s : State) (dram : Bool) (g i w : Nat) : Bool :=
  if dram then inDram s w && decide (pageOf w = (g, s.reg ECC_REMAP_DRAM.page [g, i]))
  else decide (macroOf s w = some (g, s.reg ECC_REMAP_SRAM.line [g, i]))

/-- The location that a remap entry names before or after its write, `t` being the state after it, is copied, corrected (R404). -/
def State.copyRemapped (s t : State) (dram : Bool) (g i : Nat) : State :=
  let s := s.copyCorrected fun x => s.inSpareOf dram g i x || t.inSpareOf dram g i x
  if dram then s
  else s.sramMeet fun k => match k with
    | .acc n w => decide (g = 544 + n.val ∧ (w / 2 = s.reg ECC_REMAP_SRAM.line [g, i] ∨ w / 2 = t.reg ECC_REMAP_SRAM.line [g, i]))
    | _ => false

/-- A page of a channel has been written as a whole into the place it has now (R381, R404). -/
def State.freshIn (s : State) (c q : Nat) : State := if q < s.dataPages then s.freshPage (s.wordAt c q 0) else s

/-- A write of a remap entry (R404): the location's contents are copied, corrected, into or out of the spare. -/
def onRemap (dram : Bool) (s : State) (w : Wr) (idx : List Nat) : State :=
  let v := if dram then ECC_REMAP_DRAM.valid else ECC_REMAP_SRAM.valid
  let t := plainWrite s w idx
  if w.has v then
    let i := idx.getLastD 0
    let g := idx.headD 0
    let u := plainWrite (s.copyRemapped t dram g i) w idx
    if dram then (u.freshIn g (s.reg ECC_REMAP_DRAM.page idx)).freshIn g (u.reg ECC_REMAP_DRAM.page idx) else u
  else t

/-- REMAP_WRITE (R404): entry `i` of DRAM channel or macro group `g`. -/
def execRemapWrite (a : Agent) (dram : Bool) (g : Fin 613) (i : Fin 32) (h : Half) (v : W64) (s : State) : Ans :=
  .next (if dram then
      if g.val < 16 then s.writeNamed a .ECC_REMAP_DRAM [g.val, i.val] h v.toNat (onRemap true) else s
    else if i.val < 16 then s.writeNamed a .ECC_REMAP_SRAM [g.val, i.val] h v.toNat (onRemap false) else s)

/-- Patrol scrub meets one word. -/
def State.scrubWord (s : State) (w : Nat) (recurs : Bool) : State :=
  if s.diagHeld w then s
  else
    match s.decodeRead w recurs true with
    | (true, s) => s.recover w true true recurs true
    | (false, s) => s

/-- Patrol scrub visits the valid block or the written line that holds a word (R399): in class Full the parity slots of the block's pages are
read, and every word is decoded. -/
def State.scrubDevice (s : State) (w : Nat) (recurs : Bool) : State :=
  if inDram s w then
    if s.reg ECC_CTRL.scrub_dram_h = 0 ∨ !s.wordLive w ∨ s.dramHeld (32 * w) then s
    else
      let b := w / 256 * 256
      let s := if s.pageFull w then (s.readSlot b true true).readSlot (b + 128) true true else s
      ((s.flips.map (·.1) ++ s.poison).filter fun x => decide (x / 256 = w / 256)).foldl (fun s x => s.scrubWord x recurs) s
  else if s.reg ECC_CTRL.scrub_sram_min = 0 ∨ !s.wordLive w then s
  else s.scrubWord w recurs

/-- SCRUB_VISIT (R399): patrol scrub visits a place. Bits of one of its words have flipped before, or flip once it has passed. A visit that scrub_dram_h or scrub_sram_min stops is none. -/
def execScrubVisit (dt : Nat) (p : ScrubPlace) (u : Upset) (recurs : Bool) (s : State) : Ans :=
  let s := s.advance dt
  .next (match p with
    | .device addr =>
      let w := addr.toNat / 32
      if u.after then (s.scrubDevice w recurs).upset w u.bits else (s.upset w u.bits).scrubDevice w recurs
    | .sram k =>
      let visit (s : State) : State := if s.reg ECC_CTRL.scrub_sram_min = 0 then s else s.sramRead k recurs true
      if u.after then (visit s).upsetSram k u.bits else visit (s.upsetSram k u.bits))

/-- TCLK edges in a millisecond. -/
def msEdges : Nat := 250000

/-- BUCKET_LEAK (R401): each bucket above 0 loses 1 every leak_ms. -/
def execBucketLeak (dt : Nat) (s : State) : Ans :=
  let s := s.advance dt
  let due := s.leakT + max 1 (s.reg ECC_CTRL.leak_ms) * msEdges
  .next (if due ≤ s.clk.tclk then
      let s := { s with leakT := due }
      (List.range 128).foldl (fun s u =>
        if s.reg ECC_BUCKET.count [u] = 0 then s
        else s.setReg ECC_BUCKET.count [u] (s.reg ECC_BUCKET.count [u] - 1)) s
    else s)

/-- ZQ_LATCH_DUE (R406): a pause becomes pending on every channel. -/
def execZqLatchDue (dt : Nat) (s : State) : Ans :=
  let s := s.advance dt
  let due := s.zqT + max 1 (s.reg MEM_MAINT.zq_ms) * msEdges
  .next (if due ≤ s.clk.tclk then ({ s with zqT := due }).setReg MEM_STATUS.pending [] 0xFFFF else s)

/-- RETRAIN_DUE (R406). -/
def execRetrainDue (dt : Nat) (s : State) : Ans :=
  let s := s.advance dt
  let due := s.trainT + max 1 (s.reg MEM_MAINT.retrain_ms) * msEdges
  .next (if due ≤ s.clk.tclk then ({ s with trainT := due }).setReg MEM_STATUS.pending [] 0xFFFF else s)

end Sys2Proof.Machine
end

