-- ==== Sys2Proof/Machine/Handle.lean ====
section
/-! DEFINITION. Machine/Handle.lean: handles, block and byte addresses within them (R262 to R268), accesses of other agents to a
scratchpad, doorbells (R274, R275), and the swapping of contexts (R57, R293). -/
namespace Sys2Proof.Machine
open Reg

/-! ### Handles -/

/-- Context `c` may cover chunk `k` of core `n` with a handle, pinned or not (R262). -/
def State.chunkOk (s : State) (n : CoreId) (c : CtxId) (pin : Bool) (k : Nat) : Bool :=
  let i := [n.val, k]
  let own := decide (s.reg SPM_CHUNK_OWN.ctx i = c.val)
  s.bit SPM_CHUNK_OWN.assigned i &&
    (if s.bit SPM_CHUNK_OWN.shared i then !pin else own)

/-- The chunks that lines base to base + lines - 1 lie in. -/
def chunksOf (base lines : Nat) : List Nat :=
  (List.range ((base + lines - 1) / 2048 + 1 - base / 2048)).map fun i => base / 2048 + i

/-- The row pitch W' of a two-dimensional handle (R264). -/
def hPitch (h : BitVec 128) : Nat := 16 * ceilDiv (hCols h) 16

/-- The number of block rows of a two-dimensional handle. -/
def hRows (h : BitVec 128) : Nat := hLines h / hPitch h

/-- A handle entry with valid 1 is one that context `c` may write (R264, R265). -/
def State.handleOk (s : State) (n : CoreId) (c : CtxId) (h : BitVec 128) : Bool :=
  decide (hLines h ≠ 0 ∧ hBase h + hLines h ≤ 98304) &&
    (!hTwod h || decide (hBase h % 16 = 0 ∧ hLines h % hPitch h = 0)) &&
    (chunksOf (hBase h) (hLines h)).all fun k => s.chunkOk n c (hPin h) k

/-- The physical line of block (y, x) of a two-dimensional handle (R264). -/
def hBlock (h : BitVec 128) (y x : Nat) : Nat :=
  hBase h + y * hPitch h + 16 * (x / 16) + (x + y) % 16

/-- The physical line of logical block `i`, if it lies within the handle (R264, R265): of a two-dimensional handle the blocks of its
H rows of W columns. -/
def hLine (h : BitVec 128) (i : Nat) : Option Nat :=
  if !hValid h then none
  else if hTwod h then
    if i < hRows h * hCols h then some (hBlock h (i / hCols h) (i % hCols h)) else none
  else if i < hLines h then some (hBase h + i) else none

/-- A context's handle entry. -/
def State.handle (s : State) (c : CtxId) (i : Nat) : BitVec 128 :=
  s.ctxs[c].handles[Fin.ofNat 256 i]

/-- Bytes of one line of a core's scratchpad, decoded. -/
def State.lineBytes (s : State) (n : CoreId) (line : Nat) : List Byte :=
  s.readBytes (spmAddr n line) 32

/-- One line of a core's scratchpad as a value. -/
def State.lineNat (s : State) (n : CoreId) (line : Nat) : Nat := natOfBytes (s.lineBytes n line)

/-- Write one line of a core's scratchpad. -/
def State.putLine (s : State) (n : CoreId) (line v : Nat) : State :=
  s.writeBytes (spmAddr n line) (bytesOf 32 v)

/-! ### Accesses to scratchpads by device address -/

/-- A read of up to one line of a core's scratchpad region: past the lines it reads zero (R261). -/
def State.spmRead (s : State) (n : CoreId) (o k : Nat) : Nat :=
  if o < 0x300000 then s.readNat (spmBase + n.val * 0x400000 + o) k else 0

/-- The window that a doorbell offset names. -/
def bellOf (o : Nat) : Option (Fin 8) :=
  if 0x300000 ≤ o ∧ o < 0x300040 then some (Fin.ofNat 8 ((o - 0x300000) / 8)) else none

/-- Why a doorbell write is denied, if it is (R274, R275). -/
def State.bellDenial (s : State) (n : CoreId) (w : Fin 8) (src : Src) (p : PartId) : Option Denial :=
  let o := s.winOpen n w
  if o && s.bit SPM_WIN.wr [n.val, w.val] && s.winPasses n w src p then none else some (.bell n w o)

/-- The doorbells of a core that the given bytes of a write at an offset touch (R275). -/
def bellsUnder (o : Nat) (l : List (Option Byte)) : List (Fin 8) :=
  (List.finRange 8).filter fun w => l.zipIdx.any fun e => e.1.isSome && decide (bellOf (o + e.2) = some w)

/-- Doorbells are written, each judged by itself: one that is not denied advances its window's counter, a denial is recorded (R274, R275). The
answer names the first denial. -/
def State.ring (s : State) (n : CoreId) (src : Src) (p : PartId) : List (Fin 8) → Option Denial × State
  | [] => (none, s)
  | w :: l =>
    match s.bellDenial n w src p with
    | none => (s.advanceCtr n (Fin.ofNat 64 (s.reg SPM_WIN.counter [n.val, w.val]))).ring n src p l
    | some d => (some d, ((s.recordDenial src p d).ring n src p l).2)

/-- Why an access to a device address is denied, doorbells included. -/
def State.denialAt (s : State) (src : Src) (p : PartId) (wr : Bool) (a : Nat) : Option Denial :=
  match regionOf s a with
  | .spm n o =>
    match (if wr then bellOf o else none) with
    | some w => s.bellDenial n w src p
    | none => s.denial src p wr a
  | _ => s.denial src p wr a

/-- Write bytes that lie within one line at a device address that is permitted: lines of a scratchpad, counted (Table 10-8), host memory, DRAM or
the vault. -/
def State.writeAt (s : State) (p : PartId) (a : Nat) (bs : List Byte) : State :=
  match regionOf s a with
  | .spm n o => if o < 0x300000 then (s.writeBytes a bs).bump SPM_PERF.count [n.val, 3] else s
  | .host q o =>
    match s.boundFn p with
    | some f => s.emit (.hostWrite f (s.hostAddr q o) bs)
    | none => s
  | _ => s.writeBytes a bs

/-- Write those bytes of one line that are given, at a permitted device address. -/
def State.writeSome (s : State) (p : PartId) (a : Nat) (l : List (Option Byte)) : State :=
  if l.all Option.isSome then s.writeAt p a (l.filterMap id)
  else
    let put (s : State) (e : Option Byte × Nat) : State :=
      match e.1 with
      | some b =>
        match regionOf s a with
        | .spm _ _ => s.writeBytes (a + e.2) [b]
        | _ => s.writeAt p (a + e.2) [b]
      | none => s
    match regionOf s a with
    | .spm n o => if o < 0x300000 then ((l.zipIdx).foldl put s).bump SPM_PERF.count [n.val, 3] else s
    | _ => (l.zipIdx).foldl put s

/-- A WRITE of the given bytes within one line, judged: what is denied is recorded and not written (R274, R275, R279, R412); doorbells ring. -/
def State.deposit (s : State) (src : Src) (p : PartId) (a : Nat) (l : List (Option Byte)) : Option Denial × State :=
  let plain : Option Denial × State :=
    match s.denial src p true a with
    | some d => (some d, s.recordDenial src p d)
    | none => (none, s.writeSome p a l)
  match regionOf s a with
  | .spm n o => if o < 0x300000 then plain else s.ring n src p (bellsUnder o l)
  | _ => plain

/-- Read `n` bytes within one line at a device address that is permitted; what a host memory holds comes from outside. -/
def State.readAt (s : State) (a n : Nat) (host : Nat) : Nat :=
  match regionOf s a with
  | .spm c o => s.spmRead c o n
  | .host _ _ => host % 2 ^ (8 * n)
  | _ => s.readNat a n

/-- REMOTE_ACCESS (R274): an agent reads `k` bytes of a line of a core's scratchpad region, or writes the bytes `bs` where there are
any. -/
def State.remoteAccess (s : State) (a : Agent) (n : CoreId) (o k : Nat) (bs : List Byte) : State :=
  let src := s.srcOf a
  let p := s.partOf a
  let d := spmBase + n.val * 0x400000 + o
  if !s.agentLive a then s
  else
    if bs ≠ [] then (s.deposit src p d ((bs.take (inWord d bs.length)).map some)).2
    else
      match s.denial src p false d with
      | some r => (s.recordDenial src p r).emit (.data a 0)
      | none => (s.settleRange d 1).deliver a d (inWord d k)

/-! ### Residency -/

/-- Context `c` takes slot `k` of its core, which its open windows then show; its handles lie in that core's scratchpad, and the accumulator
window of the slot is taken as it stands (R262, R293, Table 10-6). -/
def State.seat (s : State) (n : CoreId) (k : Fin 4) (c : CtxId) : State :=
  let s := s.setCtx c fun x => { x with spm := n }
  let s := (s.setReg SO_CTX_STATE.resident [c.val] 1).setReg SO_CTX_STATE.slot [c.val] k.val
  let s := (List.finRange 8).foldl (fun s w =>
    if s.bit SPM_WIN.open [n.val, w.val] && decide (s.cores[n].winOwner[w] = c) then s.setReg SPM_WIN.slot [n.val, w.val] k.val
    else s) s
  s.setCore n fun x => { x with
    slots := x.slots.set k (some c)
    accWin := x.accWin.set k (s.reg ACC_SLOT.base [n.val, k.val], s.reg ACC_SLOT.size [n.val, k.val]) }

/-- The context in slot `k` leaves it. -/
def State.unseat (s : State) (n : CoreId) (k : Fin 4) : State :=
  match s.cores[n].slots[k] with
  | none => s
  | some c =>
    let s := (s.setReg SO_CTX_STATE.resident [c.val] 0).setReg SO_CTX_STATE.slot [c.val] 0
    let s := if s.cores[n].run = some k then s.stopRunning n 2 else s
    s.setCore n fun x => { x with slots := x.slots.set k none }

/-- An array-class instruction whose context is swapped out starts again from its first pass (R160); what becomes of one with acc_in = 1 is
judged when it goes on. -/
def Issued.restarted (i : Issued) : Issued := { i with done := 0, met := none, missed := [], oob := 0 }

/-- A swap-out (R57, R293): the context leaves its slot; its save area holds its state, in a layout the manual does not give, so the
model keeps the state and the area's contents are undefined. The slot's live list and
accumulator contents are lost (R160, R213). -/
def State.swapOut (s : State) (n : CoreId) (k : Fin 4) : State :=
  match s.cores[n].slots[k] with
  | none => s
  | some c =>
    let s := s.unseat n k
    let s := s.blur (vaultBase + 16384 * s.reg SO_CTX_CFG.save_off [c.val]) 16384
    let s := s.setCore n fun x => { x with
      lists := x.lists.set k none
      table := x.table.map fun i => if i.ctx = c then { i with lost := true } else i
      array := x.array.map fun i => if i.ctx = c then i.restarted else i }
    let s := s.setReg ACC_STATUS.lost [n.val] (s.reg ACC_STATUS.lost [n.val] ||| 2 ^ k.val)
    s.setCtx c fun x => { x.loseCells with swapped := true, accLost := true }

/-- A saved pinned entry fails R262 at swap-in (R268). -/
def State.pinFails (s : State) (n : CoreId) (c : CtxId) (h : BitVec 128) : Bool :=
  hValid h && hPin h && !((chunksOf (hBase h) (hLines h)).all fun k => s.chunkOk n c true k)

/-- The saved pinned entries that fail are dropped: they become invalid, the windows on them close, and swapin_drop is set (R268, R276). -/
def State.dropPins (s : State) (n : CoreId) (c : CtxId) : State :=
  let tab := s.ctxs[c].handles
  if tab.toList.any fun h => s.pinFails n c h then
    let t := (s.closeOwned c fun h => s.pinFails n c tab[h]).setReg SPM_STATUS.swapin_drop [n.val] 1
    t.setCtx c fun x => { x with handles := x.handles.map fun h => if s.pinFails n c h then hClear h else h }
  else s

/-- A swap-in (R57, R267, R268): after a swap-out it is a task boundary; then the pinned entries are checked. -/
def State.swapIn (s : State) (n : CoreId) (k : Fin 4) (c : CtxId) : State :=
  let s := if s.ctxs[c].swapped then (s.taskBoundary c).setCtx c fun x => { x with swapped := false } else s
  (s.seat n k c).dropPins n c

/-- When a context last ran, as a stamp; the running one runs now (R57). -/
def State.ranAt (s : State) (c : CtxId) : Nat :=
  if s.runningOn (s.coreOf c) = some c then s.stamp else s.ctxs[c].lastRan

/-- The better victim of two slots' contexts (R57): lower priority, then longest since it last ran; then the lower number
(DESIGN CHOICE, assumption 108). -/
def State.worse (s : State) (a b : CtxId) : Bool :=
  let x := s.ctxs[a].prio
  let y := s.ctxs[b].prio
  decide (x < y ∨ (x = y ∧ (s.ranAt a < s.ranAt b ∨ (s.ranAt a = s.ranAt b ∧ a < b))))

/-- The first victim of some contexts. -/
def State.victim (s : State) : List CtxId → Option CtxId
  | [] => none
  | a :: l =>
    match s.victim l with
    | none => some a
    | some b => some (if s.worse a b then a else b)

/-- The context that makes room for `c` on its core, if one does (R57). -/
def State.victimFor (s : State) (n : CoreId) (c : CtxId) : Option CtxId :=
  let l := s.cores[n].slots.toList.filterMap id
  match s.victim (l.filter fun d => decide (s.ctxState d ≠ 2 ∧ s.ctxState d ≠ 3 ∧ s.ctxState d ≠ 4)) with
  | some d => some d
  | none =>
    match s.victim l with
    | some d => if s.ctxs[d].prio < s.ctxs[c].prio then some d else none
    | none => none

/-- A ready non-resident context is made resident (R57), if its core takes contexts (R456) and a slot is free or can be freed. -/
def State.makeResident (s : State) (c : CtxId) : State :=
  let n := s.coreOf c
  if !s.corePowered n then s else
  match (List.finRange 4).find? fun k => decide (s.cores[n].slots[k] = none) with
  | some k => (s.swapIn n k c).pickNext n
  | none =>
    match s.victimFor n c with
    | none => s
    | some d =>
      match s.slotOf n d with
      | none => s
      | some k => ((s.swapOut n k).swapIn n k c).pickNext n

end Sys2Proof.Machine
end

