-- ==== Sys2Proof/Machine/Ptp.lean ====
section
/-! DEFINITION. Machine/Ptp.lean: the local clock's commands, pulse outputs, capture inputs, the IMU port and MDIO (R65,
R67 to R73, R83 to R90). -/
namespace Sys2Proof.Machine
open Reg

/-- Exposures are idle (R504). -/
def State.idle (s : State) : Bool := s.openExp.isNone

/-! ### Timestamps -/

/-- Clock time in 2^-16 ns since its epoch. -/
def State.now16 (s : State) : Nat := s.clk.units / 2 ^ 16

/-- The timestamp of a time in 2^-16 ns, with the step state of the present edge (R74 to R76). Seconds count modulo 2^48. -/
def State.stampOf (s : State) (t : Int) : Stamp :=
  let u := (t % (2 ^ 48 * 1000000000 * 65536 : Int)).toNat
  { sec := u / 65536 / 1000000000, ns := u / 65536 % 1000000000, frac := u % 65536
    gen := s.reg PTP_STEP_CTRL.step_gen, pend := s.clk.heldStep.isSome }

/-- The record of a timestamp (Table 3-2). -/
def Stamp.record (t : Stamp) (source : Nat) : List Byte :=
  bytesOf 6 t.sec ++ bytesOf 4 t.ns ++ bytesOf 2 t.frac ++ bytesOf 1 t.gen ++ bytesOf 1 source ++
    bytesOf 1 (if t.pend then 1 else 0) ++ bytesOf 1 0

/-! ### PTP_INCR, PTP_STEP, PTP_STEP_CTRL -/

/-- The lowest increment, 4 ns - 500 ppm, in 2^-32 ns (R69). -/
def incrLow : Nat := 0x3FF7CED92
/-- The highest increment. -/
def incrHigh : Nat := 0x40083126E

/-- A write of PTP_INCR (R69): both fields take effect together at the next TCLK edge, within the limits. -/
def onPtpIncr (s : State) (w : Wr) (idx : List Nat) : State :=
  let s := plainBut [PTP_INCR.incr_ns, PTP_INCR.incr_frac] s w idx
  if w.has PTP_INCR.incr_ns then
    let x := w.get PTP_INCR.incr_ns * 2 ^ 32 + w.get PTP_INCR.incr_frac
    let y := max incrLow (min incrHigh x)
    { s with clk := { s.clk with nextIncr := some (y / 2 ^ 32, y % 2 ^ 32, decide (x ≠ y)) } }
  else s

/-- The N32 refuses a step: it is held pending and counted (R72). -/
def State.refuseStep (s : State) (d : Int) : State :=
  let s := { s with clk := { s.clk with heldStep := some d } }
  ((s.setReg PTP_STEP_CTRL.pending [] 1).setReg PTP_STEP_CTRL.refused [] 1).bump PTP_STEP_CTRL.refused_count []

/-- A step that the upper half of PTP_STEP requests (R72): applied at once or refused. -/
def State.requestStep (s : State) (d : Int) : State :=
  if s.clk.heldStep.isSome then s.refuseStep d
  else if d.natAbs ≤ s.reg PTP_STEP_CTRL.threshold_ns ∨ s.idle ∨ !s.clk.stepped then s.applyStep d
  else s.refuseStep d

/-- A write of PTP_STEP. -/
def onPtpStep (s : State) (w : Wr) (_idx : List Nat) : State :=
  if w.has PTP_STEP.step_ns then s.requestStep (signedOf 64 (w.get PTP_STEP.step_ns)) else s

/-- The pending step is dropped (R73). -/
def State.discardStep (s : State) : State :=
  ({ s with clk := { s.clk with heldStep := none } }).setReg PTP_STEP_CTRL.pending [] 0

/-- The pending step is confirmed and awaits the next TCLK edge (R73). -/
def State.confirmStep (s : State) : State :=
  match s.clk.heldStep with
  | none => s
  | some d =>
    ({ s with clk := { s.clk with heldStep := none, step := some d } }).setReg PTP_STEP_CTRL.pending [] 0

/-- A write of PTP_STEP_CTRL: discard stands over confirm (R73). -/
def onPtpStepCtrl (s : State) (w : Wr) (idx : List Nat) : State :=
  let s := plainWrite s w idx
  if w.sets PTP_STEP_CTRL.discard then s.discardStep
  else if w.sets PTP_STEP_CTRL.confirm then s.confirmStep
  else s

/-- PTP_INCR_WRITE (R69). -/
def execPtpIncrWrite (a : Agent) (h : Half) (v : W64) (s : State) : Ans :=
  .next (s.writeNamed a .PTP_INCR [] h v.toNat onPtpIncr)

/-- PTP_STEP_REQUEST (R72). -/
def execPtpStepRequest (a : Agent) (h : Half) (v : W64) (s : State) : Ans :=
  .next (s.writeNamed a .PTP_STEP [] h v.toNat onPtpStep)

/-- PTP_STEP_CONFIRM (R73): a write of PTP_STEP_CTRL with confirm 1. -/
def execPtpStepConfirm (a : Agent) (h : Half) (v : W64) (s : State) : Ans :=
  .next (s.writeNamed a .PTP_STEP_CTRL [] h (withBit h 45 v).toNat onPtpStepCtrl)

/-- PTP_STEP_DISCARD (R73): a write of PTP_STEP_CTRL with discard 1. -/
def execPtpStepDiscard (a : Agent) (h : Half) (v : W64) (s : State) : Ans :=
  .next (s.writeNamed a .PTP_STEP_CTRL [] h (withBit h 44 v).toNat onPtpStepCtrl)

/-! ### PTP_TIME -/

/-- The CSR offset of a register's first instance. -/
def regAddr (n : RegName) : Nat := ((regRow n).map (·.base)).getD 0

/-- The bits of PTP_TIME_NS at this edge. -/
def State.timeNs (s : State) : Nat := s.clk.ns * 2 ^ 32 + s.clk.frac / 2 ^ 16

/-- Put a latch for an agent. -/
def State.latch (s : State) (a : Agent) (off v : Nat) : State :=
  { s with latches := (a, off, v) :: dropHeld a off s.latches }

/-- A read of PTP_TIME_NS of `n` bytes at byte `b` (R70): a live read of the lower half or of the whole latches the seconds of the
same edge for PTP_TIME_SEC. -/
def State.readTimeNs (s : State) (a : Agent) (b n : Nat) : Nat × State :=
  match s.readWord a (regAddr .PTP_TIME_NS) 8 s.timeNs b n with
  | (v, s') =>
    let live := decide (b = 0) || (heldAt a (regAddr .PTP_TIME_NS + 4) s.latches).isNone
    if live then
      let s' := s'.latch a (regAddr .PTP_TIME_SEC) (s.clk.sec % 2 ^ 32)
      (v, s'.latch a (regAddr .PTP_TIME_SEC + 4) (s.clk.sec / 2 ^ 32))
    else (v, s')

/-- A read of PTP_TIME_SEC (R70): the latched seconds, which the read consumes, else the live seconds. A read of the upper half alone
consumes the latch of the seconds too. -/
def State.readTimeSec (s : State) (a : Agent) (b n : Nat) : Nat × State :=
  let p := regAddr .PTP_TIME_SEC
  let drop (s : State) : State := { s with latches := dropHeld a p s.latches }
  if b = 0 then
    match heldAt a p s.latches, heldAt a (p + 4) s.latches with
    | some x, some y =>
      let s := drop s
      if n = 8 then (x + y * 2 ^ 32, { s with latches := dropHeld a (p + 4) s.latches }) else (x, s)
    | _, _ => (drop s).readWord a p 8 s.clk.sec b n
  else (drop s).readWord a p 8 s.clk.sec b n

/-- The answer of a register read goes to its agent. -/
def answer (a : Agent) (r : Nat × State) : State := r.2.emit (.data a r.1)

/-- A read by an agent whose accesses are made. -/
def State.liveRead (s : State) (a : Agent) (f : State → Nat × State) : State :=
  if s.agentLive a then answer a (f s) else s

/-- PTP_TIME_NS_READ (R70). -/
def execPtpTimeNsRead (a : Agent) (h : Half) (s : State) : Ans :=
  .next (s.liveRead a fun s => s.readTimeNs a (halfPlace h).1 (halfPlace h).2)

/-- PTP_TIME_SEC_READ (R70). -/
def execPtpTimeSecRead (a : Agent) (h : Half) (s : State) : Ans :=
  .next (s.liveRead a fun s => s.readTimeSec a (halfPlace h).1 (halfPlace h).2)

/-! ### Pulse outputs -/

/-- The start time of output `k` in ns: the upper 14 bits of the seconds are the clock's (R83). -/
def State.pulseStart (s : State) (k : Fin 4) : Nat :=
  (s.clk.sec / 2 ^ 34 * 2 ^ 34 + s.reg PTP_PULSE_START.start_sec [k.val]) * 1000000000 +
    s.reg PTP_PULSE_START.start_ns [k.val]

/-- The shape is one that arming accepts (R84). -/
def State.pulseShapeOk (s : State) (k : Fin 4) : Bool :=
  let w := s.reg PTP_PULSE_SHAPE.width_ns [k.val]
  let p := s.reg PTP_PULSE_SHAPE.period_ns [k.val]
  decide (8 ≤ w) && (!s.bit PTP_PULSE_CTRL.periodic [k.val] || decide (1000 ≤ p ∧ w < p))

/-- A write of PTP_PULSE_CTRL (R83, R84): arm 1 schedules the output or is refused. Arm 1 on an armed output schedules it anew from its
start time; arm 0 drops the schedule and lets a pulse in progress end (DESIGN CHOICE, assumption 110). -/
def onPulseCtrl (s : State) (w : Wr) (idx : List Nat) : State :=
  let k := Fin.ofNat 4 (idx.headD 0)
  let s := plainWrite s w idx
  if w.has PTP_PULSE_CTRL.arm then
    if w.get PTP_PULSE_CTRL.arm = 1 then
      if s.pulseShapeOk k then
        { s with pulses := s.pulses.set k { s.pulses[k] with lead := some (s.pulseStart k) } }
      else
        let s := (s.setReg PTP_PULSE_CTRL.arm idx 0).setReg PTP_PULSE_CTRL.cfg_err idx 1
        { s with pulses := s.pulses.set k { s.pulses[k] with lead := none } }
    else { s with pulses := s.pulses.set k { s.pulses[k] with lead := none } }
  else s

/-- PULSE_ARM (R84). -/
def execPulseArm (a : Agent) (k : Fin 4) (v : BitVec 32) (s : State) : Ans :=
  .next (s.writeNamed a .PTP_PULSE_CTRL [k.val] .whole v.toNat onPulseCtrl)

/-- Output `k` goes to its active or inactive level. -/
def State.pulseLevel (s : State) (k : Fin 4) (active : Bool) : State :=
  s.emit (.pulse k (active != s.bit PTP_PULSE_CTRL.active_low [k.val]))

/-! ### IMU port -/

/-- The bytes the port sends for a trigger (R87): a cmd_len above 4 acts as 4 (DESIGN CHOICE, assumption 110). -/
def State.imuCmd (s : State) : List Byte :=
  bytesOf (min 4 (s.reg FE_IMU_CTRL.cmd_len)) (s.reg FE_IMU_CTRL.cmd)

/-- A read starts: IMU_CS_N is asserted and the command is sent (R87). -/
def State.imuStart (s : State) (t : ImuTrig) : State :=
  (({ s with imu := { s.imu with reading := some t } }).setReg FE_IMU_STATUS.busy [] 1).emit (.imu s.imuCmd)

/-- A trigger at a time in ns (R88): it takes the next seq and starts a read, is held, or is dropped and counted. -/
def State.imuTrigger (s : State) (t : Nat) : State :=
  let g : ImuTrig :=
    ⟨t / 1000000000, t % 1000000000, s.imu.seq, s.reg PTP_STEP_CTRL.step_gen, s.clk.heldStep.isSome⟩
  let s := { s with imu := { s.imu with seq := (s.imu.seq + 1) % 65536 } }
  if s.imu.reading.isNone && s.imu.held.isNone then s.imuStart g
  else if s.imu.held.isNone then { s with imu := { s.imu with held := some g } }
  else s.bump FE_IMU_STATUS.imu_overrun []

/-- The leading edge of output `k` scheduled at `t` (R83, R88): active level, trailing edge, the next edge; it triggers the IMU port
where that is selected. An output armed with its start time past fires at once, and its trailing edge stays at start + width_ns
(DESIGN CHOICE, assumption 110). -/
def State.pulseLead (s : State) (k : Fin 4) (t : Nat) : State :=
  let w := s.reg PTP_PULSE_SHAPE.width_ns [k.val]
  let next := if s.bit PTP_PULSE_CTRL.periodic [k.val] then some (t + s.reg PTP_PULSE_SHAPE.period_ns [k.val]) else none
  let s : State := { s with pulses := s.pulses.set k ⟨next, some (t + w), true⟩ }
  let s := s.pulseLevel k true
  if s.bit FE_IMU_CTRL.enable ∧ s.reg FE_IMU_CTRL.trigger = 2 ∧ s.reg FE_IMU_CTRL.pulse_sel = k.val then
    s.imuTrigger t
  else s

/-- PULSE_LEADING_EDGE (R83): `dt` edges pass and the clock has reached the scheduled start. -/
def execPulseLeadingEdge (dt : Nat) (k : Fin 4) (s : State) : Ans :=
  let s := s.advance dt
  match s.pulses[k].lead with
  | none => .next s
  | some t => .next (if t ≤ s.now ∧ s.fullOn then s.pulseLead k t else s)

/-- The trailing edge: inactive level; arm clears for a single pulse (R83). -/
def State.pulseTrail (s : State) (k : Fin 4) : State :=
  let s := { s with pulses := s.pulses.set k { s.pulses[k] with trail := none, active := false } }
  let s := s.pulseLevel k false
  if s.bit PTP_PULSE_CTRL.periodic [k.val] || s.pulses[k].lead.isSome then s
  else s.setReg PTP_PULSE_CTRL.arm [k.val] 0

/-- PULSE_TRAILING_EDGE (R83). -/
def execPulseTrailingEdge (dt : Nat) (k : Fin 4) (s : State) : Ans :=
  let s := s.advance dt
  match s.pulses[k].trail with
  | none => .next s
  | some t => .next (if t ≤ s.now ∧ s.fullOn then s.pulseTrail k else s)

/-- IMU_TRIGGER (R88): a rising or falling edge of IMU_DRDY, stamped at the TCLK edge after it. The scheduled edge of a pulse
output triggers in PULSE_LEADING_EDGE. -/
def execImuTrigger (dt : Nat) (falling : Bool) (s : State) : Ans :=
  let s := s.advance dt
  .next (if s.fullOn && s.bit FE_IMU_CTRL.enable &&
      decide (s.reg FE_IMU_CTRL.trigger = if falling then 1 else 0) then s.imuTrigger s.now else s)

/-- IMU_READ_START (R87, R88): a held trigger starts once the previous read has ended. -/
def execImuReadStart (dt : Nat) (s : State) : Ans :=
  let s := s.advance dt
  match s.imu.reading, s.imu.held with
  | none, some g =>
    .next (if s.fullOn then ({ s with imu := { s.imu with held := none } }).imuStart g else s)
  | _, _ => .next s

/-- The IMU record of a trigger and the bytes read (Table 3-5): a read_len above 18 gives 18 bytes, and info shows it as written (DESIGN
CHOICE, assumption 110). -/
def imuRecord (g : ImuTrig) (readLen : Nat) (bs : List Byte) : List Byte :=
  let n := min 18 readLen
  let raw := (bs ++ List.replicate n 0).take n
  bytesOf 6 g.sec ++ bytesOf 4 g.ns ++ bytesOf 2 g.seq ++ bytesOf 1 g.gen ++
    bytesOf 1 ((if g.pend then 128 else 0) + readLen) ++ raw ++ List.replicate (18 - n) 0

/-- size_log2 of a ring: values outside lo..hi act as lo. -/
def ringLog (lo hi v : Nat) : Nat := if lo ≤ v ∧ v ≤ hi then v else lo

/-- The address of the IMU record of a seq (R89). -/
def State.imuSlot (s : State) (seq : Nat) : Nat :=
  32 * s.reg FE_IMU_RING.base + 32 * (seq % 2 ^ ringLog 6 12 (s.reg FE_IMU_RING.size_log2))

/-- IMU_READ_COMPLETE (R87, R89): the bytes read arrive, first byte first, IMU_CS_N is deasserted and the record is written. -/
def execImuReadComplete (dt : Nat) (bs : List Byte) (s : State) : Ans :=
  let s := s.advance dt
  match s.imu.reading with
  | none => .next s
  | some g =>
    let s := s.hwWrite (s.imuSlot g.seq) (imuRecord g (s.reg FE_IMU_CTRL.read_len) bs)
    let raw := ((imuRecord g (s.reg FE_IMU_CTRL.read_len) bs).drop 14)
    let s := { s with imu := { s.imu with
      reading := none, csHeld := false, recs := ((g.sec * 1000000000 + g.ns, raw) :: s.imu.recs).take 4096 } }
    .next ((s.setReg FE_IMU_STATUS.wr_seq [] g.seq).setReg FE_IMU_STATUS.busy [] 0)

/-- A write of FE_IMU_XFER (R90): start is ignored while sampling is enabled or a transfer is in progress. -/
def onImuXfer (s : State) (w : Wr) (idx : List Nat) : State :=
  let s := plainWrite s w idx
  if w.sets FE_IMU_XFER.start && !s.bit FE_IMU_CTRL.enable && !s.bit FE_IMU_XFER.busy then
    (s.setReg FE_IMU_XFER.busy [] 1).emit
      (.imu (bytesOf (max 1 (min 4 (s.reg FE_IMU_XFER.len))) (s.reg FE_IMU_XFER.data)))
  else s

/-- IMU_XFER_START (R90). -/
def execImuXferStart (a : Agent) (h : Half) (v : W64) (s : State) : Ans :=
  .next (s.writeNamed a .FE_IMU_XFER [] h v.toNat onImuXfer)

/-- IMU_XFER_COMPLETE (R90): the bytes received, first byte first, replace data. A len of 0 acts as 1 and one above 4 as 4, and the bits
of data above the bytes received become 0 (DESIGN CHOICE, assumption 110). -/
def execImuXferComplete (dt : Nat) (bs : List Byte) (s : State) : Ans :=
  let s := s.advance dt
  .next (if s.bit FE_IMU_XFER.busy then
      let n := max 1 (min 4 (s.reg FE_IMU_XFER.len))
      let s := { s with imu := { s.imu with csHeld := s.bit FE_IMU_XFER.hold_cs } }
      (s.setReg FE_IMU_XFER.data [] (natOfBytes (bs.take n))).setReg FE_IMU_XFER.busy [] 0
    else s)

/-! ### Capture inputs -/

/-- An edge on CAPT0 or CAPT1 (R86): stamped at the TCLK edge after it, or counted where the FIFO is full. -/
def State.capture (s : State) (c : Fin 2) : State :=
  let q := s.capts[c]
  if q.length < 16 then { s with capts := s.capts.set c (q ++ [(s.clk.sec % 2 ^ 34, s.clk.ns)]) }
  else s.bump (if c.val = 0 then PTP_CAPT_CTRL.capt0_ovf else PTP_CAPT_CTRL.capt1_ovf) []

/-- CAPTURE_EDGE (R86). -/
def execCaptureEdge (dt : Nat) (c : Fin 2) (falling : Bool) (s : State) : Ans :=
  let s := s.advance dt
  let sel := s.bit (if c.val = 0 then PTP_CAPT_CTRL.edge_sel0 else PTP_CAPT_CTRL.edge_sel1)
  .next (if s.fullOn && (sel == falling) then s.capture c else s)

/-- The bits of PTP_CAPT_FIFO: the oldest stamp, all ones where there is none (R86). -/
def State.captValue (s : State) (c : Fin 2) : Nat :=
  match s.capts[c] with
  | [] => 2 ^ 64 - 1
  | (sec, ns) :: _ => sec * 2 ^ 30 + ns

/-- A read of PTP_CAPT_FIFO: a read of the lower half or of the whole removes the entry, and the upper half of that entry is latched
(R15, R86). -/
def State.readCapt (s : State) (a : Agent) (c : Fin 2) (b n : Nat) : Nat × State :=
  match s.readWord a (regAddr .PTP_CAPT_FIFO + 8 * c.val) 8 (s.captValue c) b n with
  | (v, s') => if b = 0 then (v, { s' with capts := s'.capts.set c (s'.capts[c].drop 1) }) else (v, s')

/-- CAPT_FIFO_READ (R86). -/
def execCaptFifoRead (a : Agent) (c : Fin 2) (h : Half) (s : State) : Ans :=
  .next (s.liveRead a fun s => s.readCapt a c (halfPlace h).1 (halfPlace h).2)

/-! ### MDIO -/

/-- The operation of ETH_MDIO reads: op 2 of Clause 22, op 2 or 3 of Clause 45 (IEEE 802.3; assumption 10, PRESUMED). -/
def State.mdioReads (s : State) (b : Fin 2) : Bool :=
  let op := s.reg ETH_MDIO.op [b.val]
  decide (op = 2 ∨ (op = 3 ∧ s.bit ETH_MDIO.clause45 [b.val]))

/-- A write of ETH_MDIO (R65): start begins one operation, a Clause 22 or a Clause 45 frame; each bus executes one at a time. -/
def onMdio (s : State) (w : Wr) (idx : List Nat) : State :=
  let b := Fin.ofNat 2 (idx.headD 0)
  let s := plainWrite s w idx
  if w.sets ETH_MDIO.start && !s.bit ETH_MDIO.busy idx then
    let s := (s.setReg ETH_MDIO.busy idx 1).emit
      (.mdio b (s.reg ETH_MDIO.clause45 idx * 2 ^ 28 + s.reg ETH_MDIO.op idx * 2 ^ 26 + s.reg ETH_MDIO.prtad idx * 2 ^ 21 + s.reg ETH_MDIO.devad idx * 2 ^ 16 +
        s.reg ETH_MDIO.data idx))
    { s with mdioRd := s.mdioRd.set b (s.mdioReads b) }
  else s

/-- MDIO_START (R65). -/
def execMdioStart (a : Agent) (b : Fin 2) (h : Half) (v : W64) (s : State) : Ans :=
  .next (s.writeNamed a .ETH_MDIO [b.val] h v.toNat onMdio)

/-- MDIO_COMPLETE (R65): busy clears and the value read appears in data. -/
def execMdioComplete (dt : Nat) (b : Fin 2) (v : BitVec 16) (s : State) : Ans :=
  let s := s.advance dt
  .next (if s.bit ETH_MDIO.busy [b.val] then
      let s := if s.mdioRd[b] then s.setReg ETH_MDIO.data [b.val] v.toNat else s
      s.setReg ETH_MDIO.busy [b.val] 0
    else s)

end Sys2Proof.Machine
end

