-- ==== Sys2Proof/Machine/CtxRows.lean ====
section
/-! DEFINITION. Machine/CtxRows.lean: the commands on contexts, their scheduling, counter groups, chunks, windows and
synchronisation objects (R55 to R57, R268, R274 to R276, R290 to R300, R309). -/
namespace Sys2Proof.Machine
open Reg

/-! ### Scheduling -/

/-- The quantum of a core in tenths of a CCLK (R55): values below 100 µs act as 100. -/
def State.quantumTenths (s : State) (n : CoreId) : Nat := max 100 (s.reg CORE_SCHED.quantum_us [n.val]) * 900 * 10

/-- The running context has used its quantum: the core rotates among contexts of its priority, or it takes a new quantum (R55). -/
def State.rotate (s : State) (n : CoreId) (c : CtxId) : State :=
  let s := s.setCtx c fun x => { x with quantum := 0 }
  match s.bestOf ((s.readyOn n).filter fun d => decide (d ≠ c ∧ s.ctxs[d].prio = s.ctxs[c].prio)) with
  | none => s
  | some d => (s.stopRunning n 2).startRunning n d

/-- QUANTUM_EXPIRY (R55). -/
def execQuantumExpiry (dt : Nat) (n : CoreId) (s : State) : Ans :=
  let s := s.advance dt
  .next (match s.runningOn n with
    | none => s
    | some c => if s.quantumTenths n ≤ s.ctxs[c].quantum then s.rotate n c else s)

/-- A ready resident context of higher priority takes the core; an idle core takes its best one (R55, R56). -/
def State.preempt (s : State) (n : CoreId) : State :=
  match s.runningOn n with
  | none => s.pickNext n
  | some c =>
    match s.bestOf ((s.readyOn n).filter fun d => decide (s.ctxs[c].prio < s.ctxs[d].prio)) with
    | none => s
    | some d => (s.stopRunning n 2).startRunning n d

/-- CONTEXT_SWITCH (R56). -/
def execContextSwitch (n : CoreId) (s : State) : Ans := .next (s.preempt n)

/-- CONTEXT_SWAP (R57): a ready context that holds no slot is made resident. -/
def execContextSwap (c : CtxId) (s : State) : Ans :=
  .next (if s.ctxState c = 2 ∧ s.slotOf (s.coreOf c) c = none then s.makeResident c else s)

/-! ### Context registers -/

/-- A write of SO_CTX_CFG (R290): only while the context is disabled, unbound or halted. A context that moves to another core is
swapped out of the slot it held (DESIGN CHOICE, assumption 120). -/
def onCtxCfg (s : State) (w : Wr) (idx : List Nat) : State :=
  let c : CtxId := Fin.ofNat 256 (idx.headD 0)
  let st := s.ctxState c
  if st = 0 ∨ st = 1 ∨ st = 6 then
    let n := s.coreOf c
    let s := plainWrite s w idx
    let s :=
      if s.coreOf c = n then s
      else match s.slotOf n c with
        | some k => s.swapOut n k
        | none => s
    if !s.bit SO_CTX_CFG.en idx then s.setCtxState c 0
    else if st = 0 then s.setCtxState c 1
    else s
  else s

/-- CTX_CFG_WRITE (R290). -/
def execCtxCfgWrite (a : Agent) (c : CtxId) (h : Half) (v : W64) (s : State) : Ans :=
  .next (s.writeNamed a .SO_CTX_CFG [c.val] h v.toNat onCtxCfg)

/-- Free values for the vector registers (R292). -/
def State.drawVecs (s : State) (c : CtxId) : Nat → State
  | 0 => s
  | k + 1 =>
    match s.draw 2048 with
    | (x, s) => (s.setCtx c fun r => { r with v := r.v.set! k x }).drawVecs c k

/-- The binding of a program (R292, R308): pc, registers, priority, task boundary; the context is ready. -/
def State.bind (s : State) (c : CtxId) : State :=
  let i := [c.val]
  let s := s.setCtx c fun x => { x with
    pc := BitVec.ofNat 48 (8 * s.reg SO_CTX_BIND.prog i), s := Vector.replicate 32 0, p := Vector.replicate 8 0
    t := Vector.replicate 16 0, prio := s.reg SO_CTX_BIND.prio i, stop := .clear, ending := .none, quantum := 0, late := [] }
  let s := s.drawVecs c 32
  let s := s.taskBoundary c
  let s := s.setReg SO_CTX_EXC.code i 0
  (s.setCtxState c 2).pickNext (s.coreOf c)

/-- A write of SO_CTX_BIND (R292). -/
def onCtxBind (s : State) (w : Wr) (idx : List Nat) : State :=
  let c : CtxId := Fin.ofNat 256 (idx.headD 0)
  let s := plainWrite s w idx
  if w.sets SO_CTX_BIND.bind then
    let st := s.ctxState c
    if st = 1 ∨ st = 5 ∨ st = 6 then s.bind c else s.setReg SO_CTX_STATE.bind_err idx 1
  else s

/-- CTX_BIND (R292). -/
def execCtxBind (a : Agent) (c : CtxId) (h : Half) (v : W64) (s : State) : Ans :=
  .next (s.writeNamed a .SO_CTX_BIND [c.val] h v.toNat onCtxBind)

/-- Kill (R292): a live context halts once its counted instructions complete; a faulted one is halted. -/
def State.kill (s : State) (c : CtxId) : State :=
  let st := s.ctxState c
  if st = 2 ∨ st = 3 ∨ st = 4 then s.endCtx c .halting
  else if st = 5 then s.setCtxState c 6
  else s

/-- Resume (R309): a faulted context is ready at pc_next; code clears. -/
def State.resume (s : State) (c : CtxId) : State :=
  let i := [c.val]
  if s.ctxState c = 5 then
    let s := s.setCtx c fun x => { x with pc := BitVec.ofNat 48 (s.reg SO_CTX_EXC.pc_next i), quantum := 0 }
    let s := s.setReg SO_CTX_EXC.code i 0
    (s.setCtxState c 2).pickNext (s.coreOf c)
  else s

/-- A write of SO_CTX_STATE (R292, R309): kill stands over resume. -/
def onCtxState (s : State) (w : Wr) (idx : List Nat) : State :=
  let c : CtxId := Fin.ofNat 256 (idx.headD 0)
  let s := plainWrite s w idx
  if w.sets SO_CTX_STATE.kill then s.kill c
  else if w.sets SO_CTX_STATE.resume then s.resume c
  else s

/-- CTX_KILL (R292): a write of SO_CTX_STATE with kill 1. -/
def execCtxKill (a : Agent) (c : CtxId) (h : Half) (v : W64) (s : State) : Ans :=
  .next (s.writeNamed a .SO_CTX_STATE [c.val] h (withBit h 62 v).toNat onCtxState)

/-- CTX_RESUME (R309): a write of SO_CTX_STATE with resume 1. -/
def execCtxResume (a : Agent) (c : CtxId) (h : Half) (v : W64) (s : State) : Ans :=
  .next (s.writeNamed a .SO_CTX_STATE [c.val] h (withBit h 63 v).toNat onCtxState)

/-- A write of CORE_CTR_GRP (R294): ignored where it would take the group from a context with an open window on one of its counters. -/
def onCtrGrp (s : State) (w : Wr) (idx : List Nat) : State :=
  let n : CoreId := Fin.ofNat 32 (idx.headD 0)
  let g := idx.getLastD 0
  let t := plainWrite s w idx
  if (List.finRange 8).any fun k =>
      s.bit SPM_WIN.open [n.val, k.val] && decide (s.reg SPM_WIN.counter [n.val, k.val] / 8 = g) &&
        !t.ctrAllowed n s.cores[n].winOwner[k] (Fin.ofNat 64 (8 * g))
  then s else t

/-- CTR_GRP_WRITE (R294). -/
def execCtrGrpWrite (a : Agent) (n : CoreId) (g : Fin 8) (v : BitVec 32) (s : State) : Ans :=
  .next (s.writeNamed a .CORE_CTR_GRP [n.val, g.val] .whole v.toNat onCtrGrp)

/-- A resident context of core `n` holds a valid handle on chunk `k` that it may no longer cover in `t` (R268). -/
def State.strips (s t : State) (n : CoreId) (k : Nat) : Bool :=
  (s.cores[n].slots.toList.filterMap id).any fun c =>
    s.ctxs[c].handles.toList.any fun h =>
      hValid h && (chunksOf (hBase h) (hLines h)).contains k && !t.chunkOk n c (hPin h) k

/-- A write of SPM_CHUNK_OWN (R268). -/
def onChunkOwn (s : State) (w : Wr) (idx : List Nat) : State :=
  let n : CoreId := Fin.ofNat 32 (idx.headD 0)
  let t := plainWrite s w idx
  if s.strips t n (idx.getLastD 0) then s.setReg SPM_STATUS.own_err [n.val] 1 else t

/-- CHUNK_OWN_WRITE (R268). -/
def execChunkOwnWrite (a : Agent) (n : CoreId) (c : Fin 48) (v : BitVec 32) (s : State) : Ans :=
  .next (s.writeNamed a .SPM_CHUNK_OWN [n.val, c.val] .whole v.toNat onChunkOwn)

/-- A write of SPM_WIN (R276). -/
def onWin (s : State) (w : Wr) (idx : List Nat) : State :=
  let n : CoreId := Fin.ofNat 32 (idx.headD 0)
  let k : Fin 8 := Fin.ofNat 8 (idx.getLastD 0)
  if w.sets SPM_WIN.close && s.bit SPM_WIN.open idx then s.closeWindow n k else s

/-- WINDOW_CLOSE_WRITE (R276): a write of SPM_WIN with close 1. -/
def execWindowCloseWrite (a : Agent) (n : CoreId) (w : Fin 8) (h : Half) (v : W64) (s : State) : Ans :=
  .next (s.writeNamed a .SPM_WIN [n.val, w.val] h (withBit h 62 v).toNat onWin)

/-! ### Windows -/

/-- REMOTE_ACCESS (R274): an agent reads `k` bytes at an offset of a core's scratchpad region, or writes `bs` where there are any. -/
def execRemoteAccess (a : Agent) (n : CoreId) (off : BitVec 22) (k : Nat) (bs : List Byte) (s : State) : Ans :=
  .next (s.remoteAccess a n off.toNat k bs)

/-- DOORBELL_WRITE (R275). -/
def execDoorbellWrite (a : Agent) (n : CoreId) (w : Fin 8) (v : W64) (s : State) : Ans :=
  .next (s.remoteAccess a n (0x300000 + 8 * w.val) 8 (bytesOf 8 v.toNat))

/-- REMOTE_TRANSFER_END (R275): the oldest core-sourced transfer whose last line has landed advances its window's counter. -/
def execRemoteTransferEnd (s : State) : Ans :=
  .next (match s.ends with
    | [] => s
    | (n, k) :: l => ({ s with ends := l }).advanceCtr n k)

/-- STEAL_STALL (R269): counted; the core's units lose one CCLK. -/
def execStealStall (n : CoreId) (s : State) : Ans := .next (s.bump SPM_PERF.count [n.val, 0])

/-! ### Synchronisation objects -/

/-- A CSR access to an object is denied: it is counted (R296). -/
def State.soDenied (s : State) : State := s.bump SO_CTRL.denied_count []

/-- A CSR operation on an object executes: of a context in its turn at the slice, of another agent after those that wait there (R307). -/
def State.soFrom (s : State) (a : Agent) (o : Nat) (kind : SoKind) (x : Nat) : State :=
  match a with
  | .ctx _ => s.soExec o kind x
  | _ => s.soCome o kind x

/-- A write of SO_VALUE performs a signal (R297). -/
def onSoValue (s : State) (w : Wr) (idx : List Nat) : State :=
  if w.has SO_VALUE.value then
    let o := idx.headD 0
    if s.soPermits (s.partOf w.agent) o then s.soFrom w.agent o .signal (w.get SO_VALUE.value) else s.soDenied
  else s

/-- SO_VALUE_WRITE (R297). -/
def execSoValueWrite (a : Agent) (o : SoId) (h : Half) (v : W64) (s : State) : Ans :=
  .next (s.writeNamed a .SO_VALUE [o.val] h v.toNat onSoValue)

/-- A read of SO_VALUE (R15, R297): a read operation at the home; a denied one returns zero and is counted. -/
def State.readSoValue (s : State) (a : Agent) (o b n : Nat) : Nat × State :=
  if s.soPermits (s.partOf a) o then
    let s := s.soFrom a o .read 0
    s.readWord a (regAddr .SO_VALUE + 8 * o) 8 (s.reg SO_VALUE.value [o]) b n
  else (0, s.soDenied)

/-- SO_VALUE_READ (R297). -/
def execSoValueRead (a : Agent) (o : SoId) (h : Half) (s : State) : Ans :=
  .next (s.liveRead a fun s => s.readSoValue a o.val (halfPlace h).1 (halfPlace h).2)

/-- A wait is registered on an object at its home (R295, R298). -/
def State.waitedOn (s : State) (o : Nat) : Bool :=
  s.ctxs.toList.any fun x =>
    match x.stop with
    | .object q _ _ _ .held => decide (q.val = o)
    | .object q _ _ _ (.answered false) => decide (q.val = o)
    | _ => false

/-- A partition may reset an object: P0, or its owner (R296). -/
def State.mayReset (s : State) (p : PartId) (o : Nat) : Bool :=
  decide (p = 0 ∨ (s.bit SO_ATTR.own_valid [o] ∧ s.reg SO_ATTR.owner [o] = p.val))

/-- The object that a write of SO_CTRL resets: the one it writes, or the one named before. -/
def State.resetObject (s : State) (w : Wr) : Nat :=
  if w.has SO_CTRL.object then w.get SO_CTRL.object else s.reg SO_CTRL.object

/-- A write of SO_CTRL (R295, R296): a denied reset is dropped with all of its write. -/
def onSoCtrl (s : State) (w : Wr) (idx : List Nat) : State :=
  if w.sets SO_CTRL.reset then
    let o := s.resetObject w
    if s.mayReset (s.partOf w.agent) o then
      let s := plainWrite s w idx
      if s.waitedOn o then s.setReg SO_CTRL.reset_err [] 1
      else (s.setReg SO_VALUE.value [o] 0).setReg SO_ATTR.arm [o] 0
    else s.soDenied
  else plainWrite s w idx

/-- SO_RESET (R295): a write of SO_CTRL with reset 1. -/
def execSoReset (a : Agent) (h : Half) (v : W64) (s : State) : Ans :=
  .next (s.writeNamed a .SO_CTRL [] h (withBit h 31 v).toNat onSoCtrl)

/-- A write of SO_ATTR (R296, R300): every field is judged against the owner as it stood; arm 1 is judged at once. -/
def onSoAttr (s : State) (w : Wr) (idx : List Nat) : State :=
  let o := idx.headD 0
  let p := s.partOf w.agent
  let own := s.bit SO_ATTR.own_valid idx && decide (s.reg SO_ATTR.owner idx = p.val)
  let keep := w.taken.filter fun f =>
    if f = SO_ATTR.own_valid ∨ f = SO_ATTR.owner ∨ f = SO_ATTR.share then decide (p = 0) else own
  let s := plainWrite s { w with taken := keep } idx
  if keep.contains SO_ATTR.arm && decide (w.get SO_ATTR.arm = 1) then s.judgeArm o else s

/-- SO_ATTR_WRITE (R296). -/
def execSoAttrWrite (a : Agent) (o : SoId) (v : BitVec 32) (s : State) : Ans :=
  .next (s.writeNamed a .SO_ATTR [o.val] .whole v.toNat onSoAttr)

/-- A write of SO_ARM: the owner only (R296). -/
def onSoArm (s : State) (w : Wr) (idx : List Nat) : State :=
  if s.bit SO_ATTR.own_valid idx ∧ s.reg SO_ATTR.owner idx = (s.partOf w.agent).val then plainWrite s w idx else s

/-! ### Object operations and waits of contexts -/

/-- SO_OP_EXECUTE (R295, R303, R307): an issued add, signal or read that has reached the home executes there in its turn; an add or signal only
after every store its context issued before it has been performed. -/
def execSoOpExecute (i : Nat) (s : State) : Ans :=
  .next (match s.flights[i]? with
    | none => s
    | some f =>
      match f.op with
      | .so _ _ _ => if s.behind f || s.releaseHeld f then s else s.atSlice f
      | _ => s)

/-- SO_RESULT_ARRIVE (R297): the result is written and issue resumes. -/
def execSoResultArrive (c : CtxId) (s : State) : Ans :=
  .next (match s.ctxs[c].stop with
    | .result _ d (some v) => (s.give c (.s d v)).wake c
    | _ => s)

/-- The registration of a context's wait that is on its way. -/
def State.registration (s : State) (c : CtxId) : Option Flight :=
  s.flights.find? fun f => decide (f.ctx = c) &&
    match f.op with
    | .register _ => true
    | _ => false

/-- SO_WAIT_REGISTER (R298, R307): a registration that has reached the home executes there in its turn. -/
def execSoWaitRegister (c : CtxId) (s : State) : Ans :=
  .next (match s.registration c with
    | none => s
    | some f => if s.behind f then s else s.atSlice f)

/-- The issue cycles until the answer of a wait that is met: 6h + 8 FCLK after its issue, with h the hops to the object's home (R339), less the
cycle of its issue (Table 0-4). -/
def State.answerCycles (s : State) (c : CtxId) (o : SoId) : Nat :=
  ceilDiv ((6 * meshHops (s.coreOf c) (objectHome o) + 8) * s.cclkTenths) 48 - 1

/-- SO_WAIT_ANSWER (R339): the home's answer arrives; the context goes on with s[d] = 0, or waits. -/
def execSoWaitAnswer (c : CtxId) (s : State) : Ans :=
  .next (match s.ctxs[c].stop with
    | .object o _ d _ (.answered true) => ((s.pass c (s.answerCycles c o)).give c (.s d 0)).wake c
    | .object o x d e (.answered false) => (s.setCtx c fun r => { r with stop := .object o x d e .held }).sleep c
    | _ => s)

/-- The expiry and destination of a wait. -/
def Stop.expiry : Stop → Option (Nat × Fin 32)
  | .object _ _ d (some e) _ => some (e, d)
  | .counter _ _ d (some e) => some (e, d)
  | _ => none

/-- WAIT_TIMEOUT (R299): the wait ends with s[d] = 1. -/
def execWaitTimeout (dt : Nat) (c : CtxId) (s : State) : Ans :=
  let s := s.advance dt
  .next (match s.ctxs[c].stop.expiry with
    | some (e, d) => if e ≤ s.clk.tclk then (s.give c (.s d 1)).wake c else s
    | none => s)

/-- ICACHE_FILL (R282): the line arrives and issue resumes; meanwhile the core's cycles pass with nothing issued. -/
def execIcacheFill (dt : Nat) (_n : CoreId) (s : State) : Ans := .next (s.advance dt)

end Sys2Proof.Machine
end

