-- ==== Sys2Proof/Machine/Issue.lean ====
section
/-! DEFINITION. Machine/Issue.lean: the fields of Shaos instruction words, which words are legal, and the issue of an instruction
(R282, R308, R313 to R317). -/
namespace Sys2Proof.Machine
open Reg

/-! ### Words -/

/-- The fields of a first word (Table 12-1): fn and imm as format I has them where the opcode is of that format. -/
structure Fields where
  op  : Nat
  pg  : Fin 8
  d   : Fin 32
  a   : Fin 32
  b   : Fin 32
  c   : Fin 32
  fn  : Nat
  es  : Nat
  imm : Nat
  deriving DecidableEq, Repr

/-- The formats of Table 12-1. -/
inductive Fmt where
  | r | i | l
  deriving DecidableEq, Repr

/-- What the encoding of one instruction admits: its format, the bits of the first word and of the second word that it uses. -/
structure Form where
  fmt  : Fmt
  used : Nat
  two  : Nat
  deriving DecidableEq, Repr

/-- A format R word that uses the named bits of pg, d, a, b, c and es. -/
def formR (pg d a b c es : Nat) : Option Form :=
  some ⟨.r, pg <<< 9 ||| d <<< 12 ||| a <<< 17 ||| b <<< 22 ||| c <<< 27 ||| es <<< 38 ||| 63 <<< 32 ||| 0x1FF, 0⟩

/-- A format I word that uses the named bits of pg, d, a, b and imm. -/
def formI (pg d a b imm : Nat) : Option Form :=
  some ⟨.i, pg <<< 9 ||| d <<< 12 ||| a <<< 17 ||| b <<< 22 ||| 31 <<< 27 ||| imm <<< 32 ||| 0x1FF, 0⟩

/-- A format L word that uses the named bits of d, a, b, c and of the second word. -/
def formL (d a b c two : Nat) : Option Form :=
  some ⟨.l, d <<< 12 ||| a <<< 17 ||| b <<< 22 ||| c <<< 27 ||| 63 <<< 32 ||| 0x1FF, two⟩

/-- The condition holds, else no form. -/
def formIf (p : Prop) [Decidable p] (f : Option Form) : Option Form := if p then f else none

/-- Forms of the control, scalar and global opcodes 0x00 to 0x23 (Tables 12-3, 12-5, 12-6). -/
def formLow (op fn : Nat) : Option Form :=
  match op with
  | 0x00 => formIf (fn = 0) (formR 0 0 0 0 0 0)
  | 0x01 => formIf (fn = 0) (formR 0 0 0 0 0 0)
  | 0x02 => formIf (fn = 0) (formI 0 0 0 0 0xFFFFFFFF)
  | 0x03 => formIf (fn ≤ 1) (formI 0 0 0 0 0)
  | 0x04 => formIf (fn = 0) (formI 0 0 0 0 0x3F)
  | 0x05 => formIf (fn ≤ 6) (formR 0 31 0 0 0 0)
  | 0x06 => formIf (fn = 0) (formI 0 0 31 0 0xF)
  | 0x08 => formIf (fn ≤ 5) (formI 0 0 31 31 0xFFFFFFFF)
  | 0x09 => formIf (fn = 0) (formI 0 31 0 0 0xFFFFFFFF)
  | 0x0A => formIf (fn = 0) (formI 0 31 31 0 0xFFFFFFFF)
  | 0x0B => formIf (fn ≤ 2) (formI 0 0 7 0 0xFFFFFFFF)
  | 0x10 => formIf (fn ≤ 13) (formR 0 31 31 31 0 0)
  | 0x11 => formIf (fn ≤ 13) (formI 0 31 31 0 0xFFFFFFFF)
  | 0x12 => formIf (fn = 0) (formL 31 0 0 0 (2 ^ 64 - 1))
  | 0x13 => formIf (fn ≤ 2) (formR 0 31 31 31 0 0)
  | 0x14 => formIf (fn ≤ 3) (formR 0 31 31 31 0 0)
  | 0x15 => formIf (fn = 0) (formR 0 31 31 31 31 0)
  | 0x20 => formIf (fn ≤ 7) (formI 0 31 31 0 0xFFFFFFFF)
  | 0x21 => formIf (fn ≤ 3) (formI 0 31 31 0 0xFFFFFFFF)
  | 0x22 => formIf (fn ≤ 7) (formI 0 31 31 0 0xFFFFFFFF)
  | 0x23 => formIf (fn ≤ 3 ∨ (8 ≤ fn ∧ fn ≤ 11)) (formI 0 31 31 0 0xFFFFFFFF)
  | _ => none

/-- The block shape of vld.h and vst.h is one of Table 12-7, with the element width of a transposed square in fn[4:3] (assumption 13, DEDUCED). -/
def shapeOk (fn : Nat) : Bool :=
  if fn % 4 = 3 then !(decide (fn / 8 = 2) && bitOf fn 2) else decide (fn < 4)

/-- Forms of the vector, tile, handle, window, CSR and synchronisation opcodes 0x28 to 0x4C (Tables 12-6, 12-8, 12-9, 12-11). -/
def formMid (op fn : Nat) : Option Form :=
  match op with
  | 0x28 => formIf (shapeOk fn) (formI 7 31 31 (if fn % 4 = 0 then 0 else 31) 0xFFFFFFFF)
  | 0x29 => formIf (shapeOk fn) (formI 7 31 31 (if fn % 4 = 0 then 0 else 31) 0xFFFFFFFF)
  | 0x2A => formIf (fn = 0) (formI 7 31 31 0 0xFFFFFFFF)
  | 0x2B => formIf (fn = 0 ∨ fn = 8) (formI 7 31 31 0 0xFFFFFFFF)
  | 0x30 => formIf (fn ≤ 15) (formR 7 31 31 (if fn = 15 then 0 else 31) 0 3)
  | 0x31 => formIf (fn ≤ 5) (formR 7 7 31 31 0 3)
  | 0x32 => formIf (fn ≤ 7) (formR 7 31 31 (if 6 ≤ fn then 0 else 31) (if fn = 3 then 31 else 0) 3)
  | 0x33 => formIf (fn ≤ 3) (formR 7 7 31 31 0 3)
  | 0x34 => formIf (fn ≤ 7) (formR 7 31 31 31 31 0)
  | 0x35 => formIf (fn ≤ 5) (formR 7 31 31 0 0 3)
  | 0x36 => formIf (fn ≤ 5) (formR 7 31 31 (if fn = 0 ∨ fn = 5 then 0 else 31) 0 3)
  | 0x37 => formIf (fn = 0) (formR 7 31 31 31 31 3)
  | 0x38 =>
    if fn ≤ 3 then formR 0 7 7 7 0 0
    else if fn = 4 then formR 0 7 7 0 0 0
    else if fn = 5 then formR 0 7 31 0 0 0
    else formIf (fn ≤ 8) (formR 0 31 7 0 0 0)
  | 0x40 =>
    match fn with
    | 0 => formI 0 15 31 0 0xFF
    | 1 => formI 0 15 31 0 0xFF
    | 2 => formI 0 15 31 0 3
    | 3 => formI 0 31 15 0 3
    | _ => none
  | 0x41 =>
    match fn with
    | 0 => formI 0 0 31 31 0xFF
    | 1 => formI 0 31 1 0 0xFF
    | 2 => formI 0 0 0 0 0xFF
    | _ => none
  | 0x42 =>
    match fn with
    | 0 => formI 0 0 31 0 0xF73FFF07
    | 1 => formI 0 0 0 0 7
    | _ => none
  | 0x43 =>
    if fn = 0 ∨ fn = 4 then formI 0 31 31 0 0xFFFFFF3F
    else formIf (fn = 1 ∨ fn = 5) (formI 0 0 31 31 0xFFFFFF3F)
  | 0x48 =>
    match fn with
    | 0 => formI 0 31 31 0 0x3FFF
    | 1 => formI 0 31 31 31 0x3FFF
    | 2 => formI 0 0 31 31 0x3FFF
    | _ => none
  | 0x49 => formIf (fn = 0) (formI 0 31 31 31 0xFFFFFFFF)
  | 0x4A => formIf (fn = 0) (formI 0 31 0 31 0xFFFFC03F)
  | 0x4B =>
    match fn with
    | 0 => formI 0 0 0 31 0x3F
    | 1 => formI 0 31 0 0 0x3F
    | _ => none
  | 0x4C => formIf (fn ≤ 7) (formL 0 31 31 31 (2 ^ 64 - 1))
  | _ => none

/-- Forms of the compute opcodes (Tables 13-2 to 13-5). -/
def formHigh (op fn : Nat) : Option Form :=
  match op with
  | 0x80 => formIf (fn = 0) (formI 0 0 15 0 0x3F)
  | 0x81 => formIf (fn = 0) (formI 0 0 0 0 0x3F)
  | 0x82 => formIf (fn ≤ 3) (formI 0 0 15 (if 2 ≤ fn then 31 else 0) 0x3F)
  | 0x83 => formIf (fn ≤ 1) (formI 0 (if fn = 1 then 31 else 0) 15 (if fn = 1 then 31 else 0) 0x3F)
  | 0x84 => formIf (fn ≤ 1) (formI 0 0 15 31 0xFF3F)
  | 0x85 => formIf (fn = 0) (formI 0 0 15 31 0x3F)
  | 0x88 => formIf (fn = 0) (formL 31 31 31 31 0x3F)
  | 0x89 => formIf (fn ≤ 1) (formL 31 31 31 0 0x3F)
  | 0x90 =>
    match fn with
    | 0 => formL 0 31 0 0 0x3F
    | 1 => formL 0 31 31 31 0x7F3F
    | 2 => formL 0 31 31 31 0x3F
    | 3 => formL 0 31 31 0 0x3F
    | _ => none
  | 0x91 =>
    match fn with
    | 0 => formL 0 31 31 0 0x13F
    | 1 => formL 0 31 31 0 0x3F
    | _ => none
  | 0x92 =>
    match fn with
    | 0 => formL 0 31 31 0 0x3F
    | 1 => formL 31 31 31 31 0x13F
    | 2 => formL 0 31 31 0 0x3F
    | _ => none
  | 0x93 => formIf (fn ≤ 3) (formL 31 31 31 31 0xFFFF003F)
  | 0x94 => formIf (fn = 0) (formL 0 31 31 31 0xFFFFFFFF00007F3F)
  | 0x95 => formIf (fn ≤ 3) (formL 31 31 31 31 0xFFFFFF01FFFFFF3F)
  | 0x98 => formIf (fn = 0) (formL 31 31 31 31 0x7F7F3F)
  | 0x99 => formIf (fn = 0) (formL 31 31 31 31 0xFFFFFFFF00005F3F)
  | 0x9A => formIf (fn = 0) (formL 31 31 31 31 0x1FFFF00073F)
  | 0x9B => formIf (fn ≤ 7) (formL 31 31 31 31 0xFFFF3F)
  | 0xA0 => formIf (fn = 0) (formL 0 31 31 31 0x3F)
  | 0xA1 => formIf (fn = 0) (formL 0 31 31 31 0x3F)
  | 0xA2 => formIf (fn = 0) (formI 0 0 31 31 0x3F)
  | 0xA3 => formIf (fn = 0) (formL 0 31 31 31 0x3F)
  | 0xA4 => formIf (fn = 0) (formI 0 0 31 0 0x3F)
  | _ => none

/-- The form of an opcode and fn, if Table 12-2 and the instruction's table list them. -/
def formOf (op fn : Nat) : Option Form :=
  if op < 0x28 then formLow op fn else if op < 0x80 then formMid op fn else formHigh op fn

/-- The opcode is one of format I: fn then lies in bits [31:27]. -/
def isFmtI (op : Nat) : Bool :=
  [0x02, 0x03, 0x04, 0x06, 0x08, 0x09, 0x0A, 0x0B, 0x11, 0x20, 0x21, 0x22, 0x23, 0x28, 0x29, 0x2A, 0x2B, 0x40, 0x41, 0x42, 0x43,
    0x48, 0x49, 0x4A, 0x4B, 0x80, 0x81, 0x82, 0x83, 0x84, 0x85, 0xA2, 0xA4].contains op

/-- Read the fields of a first word. -/
def fieldsOf (w : W64) : Fields :=
  let v := w.toNat
  let op := bitsOf v 7 0
  { op := op, pg := Fin.ofNat 8 (bitsOf v 11 9), d := Fin.ofNat 32 (bitsOf v 16 12), a := Fin.ofNat 32 (bitsOf v 21 17)
    b := Fin.ofNat 32 (bitsOf v 26 22), c := Fin.ofNat 32 (bitsOf v 31 27)
    fn := if isFmtI op then bitsOf v 31 27 else bitsOf v 37 32
    es := if isFmtI op then 0 else bitsOf v 39 38
    imm := bitsOf v 63 32 }

/-- The first word with the given fields (Table 12-1): opcode, whether a second word follows, pg, d, a, b, the five bits [31:27], which are c
or fn, and the upper half. -/
def wordOf (op : BitVec 8) (long : Bool) (pg : Fin 8) (d a b c : Fin 32) (hi : BitVec 32) : W64 :=
  BitVec.ofNat 64 (op.toNat + (if long then 2 ^ 8 else 0) + pg.val * 2 ^ 9 + d.val * 2 ^ 12 + a.val * 2 ^ 17 + b.val * 2 ^ 22 +
    c.val * 2 ^ 27 + hi.toNat * 2 ^ 32)

/-- The word is a vector instruction in which es 3 is reserved (R315). -/
def esReserved (f : Fields) : Bool := decide (0x30 ≤ f.op ∧ f.op ≤ 0x37 ∧ f.es = 3)

/-- The word and, for format L, the second word are legal (R314 to R317). -/
def legalWord (w x : W64) : Bool :=
  let f := fieldsOf w
  match formOf f.op f.fn with
  | none => false
  | some m =>
    decide (w.toNat ||| m.used = m.used) && (w.getLsbD 8 == decide (m.fmt = .l)) && !esReserved f &&
      (decide (m.fmt ≠ .l) || decide (x.toNat ||| m.two = m.two))

/-! ### Issue -/

/-- The signed value of a 32-bit imm or of its bits above `lo`. -/
def Fields.simm (f : Fields) (lo : Nat) : Int := signedOf (32 - lo) (f.imm / 2 ^ lo)

/-- The running context may issue: it is neither stopped nor ending, and its core is powered and in service (R285, R292, R451). -/
def State.mayIssue (s : State) (n : CoreId) (c : CtxId) : Bool :=
  s.awake && s.corePowered n && !s.coreOut n && decide (s.ctxs[c].stop = .clear ∧ s.ctxs[c].ending = .none)

/-- A core's instruction cache holds the copy of a device word poisoned. -/
def State.icacheBad (s : State) (n : CoreId) (a : Nat) : Bool := s.sramAny fun k => decide (k = .icache n (a / 32))

/-- The exception that the fetch of one word raises, if any (R282, R310). -/
def State.fetchFault (s : State) (c : CtxId) (pc a : Nat) : Option (Nat × Nat) :=
  let ok := decide (a % 8 = 0) &&
    match regionOf s a with
    | .dram _ => true
    | .vault _ => true
    | _ => false
  if ok && (s.denial (s.srcOf (.ctx c)) (s.partOf (.ctx c)) false a).isNone then
    if s.poisonedAt a || s.icacheBad s.ctxs[c].spm a then some (0x02, a / 32 * 32) else none
  else some (0x03, pc)

/-- The exception that the fetch of an instruction raises, if any. -/
def State.fetchFaults (s : State) (c : CtxId) (long : Bool) : Option (Nat × Nat) :=
  let pc := s.ctxs[c].pc.toNat
  match s.fetchFault c pc pc with
  | some e => some e
  | none => if long then s.fetchFault c pc (pc + 8) else none

/-- The instruction cache is asked for the word at an address: a copy there is met, or, as a free value decides, has been replaced since (R282,
R395; assumption 123, DESIGN CHOICE). -/
def State.meetIcache (s : State) (n : CoreId) (a : Nat) : State :=
  let here (k : Sram) : Bool := decide (k = .icache n (a / 32))
  if s.sramBad.any here || s.sram.any (fun e => here e.1) then
    match s.draw 1 with
    | (x, s) => if x = 0 then s.sramFresh here else s.sramMeet here
  else s

/-- Memory is asked for the words of the instruction at a context's pc: errors in them are met (R397). -/
def State.settleFetch (s : State) (c : CtxId) (long : Bool) : State :=
  let pc := s.ctxs[c].pc.toNat
  let s := (s.meetIcache s.ctxs[c].spm pc).settleRange pc (if long then 16 else 8)
  if long && decide ((pc + 8) / 32 ≠ pc / 32) then s.meetIcache s.ctxs[c].spm (pc + 8) else s

/-- A fetch that the partition map or the table region denies is recorded (R279, R412). -/
def State.fetchDenied (s : State) (c : CtxId) (long : Bool) : State :=
  let pc := s.ctxs[c].pc.toNat
  let a := if (s.fetchFault c pc pc).isNone && long then pc + 8 else pc
  match s.denial (s.srcOf (.ctx c)) (s.partOf (.ctx c)) false a, regionOf s a with
  | some d, .dram _ => s.recordDenial (s.srcOf (.ctx c)) (s.partOf (.ctx c)) d
  | some d, .vault _ => s.recordDenial (s.srcOf (.ctx c)) (s.partOf (.ctx c)) d
  | _, _ => s

/-- The pc moves past an instruction. -/
def State.nextPc (s : State) (c : CtxId) (bytes : Nat) : State :=
  s.setCtx c fun x => { x with pc := x.pc + BitVec.ofNat 48 bytes }

/-- Length of an instruction in bytes. -/
def wordBytes (w : W64) : Nat := if w.getLsbD 8 then 16 else 8

/-- The ISSUE of the words `w` (and `x`) by the running context of core `n`: nothing where no context can issue or where the opcode
is not one of the row's; a precise exception where the fetch fails or the word is illegal; else what the instruction does, in one issue cycle
(R282). -/
def State.issue (s : State) (n : CoreId) (w x : W64) (row : Fields → Bool)
    (body : State → CtxId → Fields → State) : State :=
  match s.runningOn n with
  | none => s
  | some c =>
    if s.mayIssue n c && row (fieldsOf w) then
      let s := s.settleFetch c (w.getLsbD 8)
      match s.fetchFaults c (w.getLsbD 8) with
      | some (code, info) => (s.fetchDenied c (w.getLsbD 8)).precise c code info
      | none => if legalWord w x then (body s c (fieldsOf w)).pass c 1 else s.precise c 0x01 w.toNat
    else s

/-- A row of one opcode. -/
def opRow (op : Nat) (f : Fields) : Bool := decide (f.op = op)

/-- A row of one opcode and some of its fn values. -/
def fnRow (op : Nat) (fns : List Nat) (f : Fields) : Bool := decide (f.op = op) && fns.contains f.fn

/-- ILLEGAL_INSTRUCTION (R317): the issue of a word that is not legal. -/
def execIllegalInstruction (n : CoreId) (w : W64) (s : State) : Ans :=
  .next (match s.runningOn n with
    | none => s
    | some c =>
      if s.mayIssue n c && !legalWord w 0 then
        let s := s.settleFetch c false
        match s.fetchFaults c false with
        | some (code, info) => (s.fetchDenied c false).precise c code info
        | none => s.precise c 0x01 w.toNat
      else s)

/-- Invalid operand at issue (0x04). -/
def State.badOperand (s : State) (c : CtxId) (unit index : Nat) : State := s.precise c 0x04 (opInfo unit index)

/-- A scalar source register. -/
def State.getS (s : State) (c : CtxId) (i : Fin 32) : W64 := s.ctxs[c].getS i

end Sys2Proof.Machine
end

