-- ==== Sys2Proof/Machine/Scalar.lean ====
section
/-! DEFINITION. Machine/Scalar.lean: control, scalar arithmetic, tiles, handles, windows, and synchronisation instructions
(R323 to R326, R335, R336, R338, R339; Tables 12-3 to 12-5, 12-9, 12-11). A result of a fixed-latency instruction stands once its
latency in issue cycles is over (assumption 14, DEDUCED). -/
namespace Sys2Proof.Machine
open Reg

/-! ### Shared operations -/

/-- A fixed-latency result in s[d]; pc moves past the word. -/
def State.setD (s : State) (c : CtxId) (f : Fields) (v : W64) (lat : Nat := 1) : State := (s.result c lat (.s f.d v)).nextPc c 8

/-- Invalid operand of the control unit (unit 0): the manual numbers no operands for it, so the index is a free value. -/
def State.badCtl (s : State) (c : CtxId) : State :=
  match s.draw 8 with
  | (x, s) => s.badOperand c 0 x.toNat

/-- The counter that a field of imm names. -/
def Fields.ctr (f : Fields) : CtrId := Fin.ofNat 64 f.imm

/-! ### Control (Table 12-3) -/

/-- NOP. -/
def execNop (n : CoreId) (w : W64) (s : State) : Ans :=
  .next (s.issue n w 0 (opRow 0x00) fun s c _ => s.nextPc c 8)

/-- HALT (R323): the context is halted at once; the counted instructions it has issued complete. -/
def execHalt (n : CoreId) (w : W64) (s : State) : Ans :=
  .next (s.issue n w 0 (opRow 0x01) fun s c _ => ((s.nextPc c 8).stopRunning n 6).pickNext n)

/-- TRAP: 0x0D with info imm; pc_next is the following instruction. -/
def execTrap (n : CoreId) (w : W64) (s : State) : Ans :=
  .next (s.issue n w 0 (opRow 0x02) fun s c f => s.raise c 0x0D f.imm s.ctxs[c].pc (s.ctxs[c].pc + 8))

/-- YIELD (R55). -/
def execYield (n : CoreId) (w : W64) (s : State) : Ans :=
  .next (s.issue n w 0 (fnRow 0x03 [0]) fun s c _ => (s.nextPc c 8).rotate n c)

/-- YIELD_TASK_END (R267, R324): the task boundary follows every write of a fixed-latency instruction; the next instruction issues 4 cycles
later. -/
def execYieldTaskEnd (n : CoreId) (w : W64) (s : State) : Ans :=
  .next (s.issue n w 0 (fnRow 0x03 [1]) fun s c _ => ((((s.nextPc c 8).pass c 16).taskBoundary c).rotate n c).pass c 3)

/-- FENCE (R301, R331): it joins the operations under way; it writes back the core's gather buffer (R270). -/
def execFence (n : CoreId) (w : W64) (s : State) : Ans :=
  .next (s.issue n w 0 (opRow 0x04) fun s c f =>
    if s.ctrAllowed n c f.ctr then
      let s := s.flushBuf (.spm n) fun _ => true
      (s.sendFlight n c (.fence f.ctr)).nextPc c 8
    else s.badCtl c)

/-- The system values of Table 12-4. -/
def State.sysValue (s : State) (n : CoreId) (c : CtxId) (fn : Nat) : W64 :=
  BitVec.ofNat 64 (match fn with
    | 0 => n.val
    | 1 => c.val
    | 2 => s.reg SO_CTX_STATE.slot [c.val]
    | 3 => (s.partOf (.ctx c)).val
    | 4 => s.cycles n
    | 5 => s.now
    | _ => s.ctxs[c].pc.toNat)

/-- SYSR. -/
def execSysr (n : CoreId) (w : W64) (s : State) : Ans :=
  .next (s.issue n w 0 (opRow 0x05) fun s c f => s.setD c f (s.sysValue n c f.fn) (if f.fn = 5 then 2 else 1))

/-- STAGE (R41, R325): the mark travels to the monitor. -/
def execStage (n : CoreId) (w : W64) (s : State) : Ans :=
  .next (s.issue n w 0 (opRow 0x06) fun s c f =>
    let st := f.imm % 16
    if st < 2 then s.badCtl c
    else
      let m : CoreId × CtxId × Nat × BitVec 32 := (n, c, st, (s.getS c f.a).setWidth 32)
      ({ s with mon := { s.mon with marksSent := s.mon.marksSent ++ [m] } }).nextPc c 8)

/-- The conditions of br. -/
def brCond (fn : Nat) (a b : W64) : Bool :=
  match fn with
  | 0 => a == b
  | 1 => a != b
  | 2 => a.slt b
  | 3 => !a.slt b
  | 4 => a.ult b
  | _ => !a.ult b

/-- The target pc + 8 × imm. -/
def State.target (s : State) (c : CtxId) (f : Fields) : BitVec 48 :=
  s.ctxs[c].pc + BitVec.ofInt 48 (8 * f.simm 0)

/-- The pc goes to an address; a target that may not be fetched faults there at the next issue (R282, R323). -/
def State.jump (s : State) (c : CtxId) (t : BitVec 48) : State := s.setCtx c fun x => { x with pc := t }

/-- Go to the target, in two cycles, or on to the next instruction. -/
def State.branch (s : State) (c : CtxId) (f : Fields) (taken : Bool) : State :=
  if taken then (s.jump c (s.target c f)).pass c 1 else s.nextPc c 8

/-- BR. -/
def execBr (n : CoreId) (w : W64) (s : State) : Ans :=
  .next (s.issue n w 0 (opRow 0x08) fun s c f => s.branch c f (brCond f.fn (s.getS c f.a) (s.getS c f.b)))

/-- The address of the following instruction as a register value. -/
def State.link (s : State) (c : CtxId) : W64 := (s.ctxs[c].pc + 8).setWidth 64

/-- JAL. -/
def execJal (n : CoreId) (w : W64) (s : State) : Ans :=
  .next (s.issue n w 0 (opRow 0x09) fun s c f =>
    ((s.result c 1 (.s f.d (s.link c))).jump c (s.target c f)).pass c 1)

/-- JALR. -/
def execJalr (n : CoreId) (w : W64) (s : State) : Ans :=
  .next (s.issue n w 0 (opRow 0x0A) fun s c f =>
    ((s.result c 1 (.s f.d (s.link c))).jump c ((s.getS c f.a + BitVec.ofInt 64 (f.simm 0)).setWidth 48)).pass c 1)

/-- The conditions of bp on a predicate register. -/
def bpCond (fn : Nat) (p : W64) : Bool :=
  match fn with
  | 0 => p != 0
  | 1 => p == 0
  | _ => p == BitVec.allOnes 64

/-- BP. -/
def execBp (n : CoreId) (w : W64) (s : State) : Ans :=
  .next (s.issue n w 0 (opRow 0x0B) fun s c f =>
    s.branch c f (bpCond f.fn (s.ctxs[c].getP (Fin.ofNat 8 f.a.val))))

/-! ### Scalar arithmetic (R326) -/

/-- The operations of alu and alui. -/
def aluOp (fn : Nat) (a b : W64) : W64 :=
  let sh := b.toNat % 64
  match fn with
  | 0 => a + b
  | 1 => a - b
  | 2 => a &&& b
  | 3 => a ||| b
  | 4 => a ^^^ b
  | 5 => a <<< sh
  | 6 => a >>> sh
  | 7 => a.sshiftRight sh
  | 8 => if a.slt b then 1 else 0
  | 9 => if a.ult b then 1 else 0
  | 10 => if a.slt b then a else b
  | 11 => if a.slt b then b else a
  | 12 => if a.ult b then a else b
  | _ => if a.ult b then b else a

/-- ALU. -/
def execAlu (n : CoreId) (w : W64) (s : State) : Ans :=
  .next (s.issue n w 0 (opRow 0x10) fun s c f => s.setD c f (aluOp f.fn (s.getS c f.a) (s.getS c f.b)))

/-- ALUI. -/
def execAlui (n : CoreId) (w : W64) (s : State) : Ans :=
  .next (s.issue n w 0 (opRow 0x11) fun s c f =>
    s.setD c f (aluOp f.fn (s.getS c f.a) (BitVec.ofInt 64 (f.simm 0))))

/-- LI: the second word. -/
def execLi (n : CoreId) (w x : W64) (s : State) : Ans :=
  .next (s.issue n w x (opRow 0x12) fun s c f => (s.result c 1 (.s f.d x)).nextPc c 16)

/-- The operations of mul. -/
def mulOp (fn : Nat) (a b : W64) : W64 :=
  match fn with
  | 0 => a * b
  | 1 => BitVec.ofInt 64 (a.toInt * b.toInt / 2 ^ 64)
  | _ => BitVec.ofNat 64 (a.toNat * b.toNat / 2 ^ 64)

/-- MUL. -/
def execMul (n : CoreId) (w : W64) (s : State) : Ans :=
  .next (s.issue n w 0 (opRow 0x13) fun s c f => s.setD c f (mulOp f.fn (s.getS c f.a) (s.getS c f.b)) 3)

/-- The operations of div: division by zero gives a quotient of all ones and the dividend as remainder. -/
def divOp (fn : Nat) (a b : W64) : W64 :=
  if b = 0 then (if fn < 2 then BitVec.allOnes 64 else a)
  else
    match fn with
    | 0 => BitVec.ofInt 64 (a.toInt.tdiv b.toInt)
    | 1 => BitVec.ofNat 64 (a.toNat / b.toNat)
    | 2 => BitVec.ofInt 64 (a.toInt.tmod b.toInt)
    | _ => BitVec.ofNat 64 (a.toNat % b.toNat)

/-- DIV. -/
def execDiv (n : CoreId) (w : W64) (s : State) : Ans :=
  .next (s.issue n w 0 (opRow 0x14) fun s c f => s.setD c f (divOp f.fn (s.getS c f.a) (s.getS c f.b)) 16)

/-- CSEL. -/
def execCsel (n : CoreId) (w : W64) (s : State) : Ans :=
  .next (s.issue n w 0 (opRow 0x15) fun s c f =>
    s.setD c f (if s.getS c f.c ≠ 0 then s.getS c f.a else s.getS c f.b))

/-! ### Predicates (Table 12-8, pop) -/

/-- The lowest set bit among the lowest `n` bits from bit `i`, or `i + n`. -/
def lowestFrom (v : W64) (i : Nat) : Nat → Nat
  | 0 => i
  | n + 1 => if v.getLsbD i then i else lowestFrom v (i + 1) n

/-- A predicate result of pop fn 0 to 5. -/
def popP (fn : Nat) (a b s : W64) : W64 :=
  match fn with
  | 0 => a &&& b
  | 1 => a ||| b
  | 2 => a ^^^ b
  | 3 => a &&& ~~~b
  | 4 => ~~~a
  | _ => s

/-- A scalar result of pop fn 6 to 8. -/
def popS (fn : Nat) (a : W64) : W64 :=
  match fn with
  | 6 => a
  | 7 => BitVec.ofNat 64 (lowestFrom a 0 64)
  | _ => BitVec.ofNat 64 (popCount 64 a.toNat)

/-- POP. -/
def execPop (n : CoreId) (w : W64) (s : State) : Ans :=
  .next (s.issue n w 0 (opRow 0x38) fun s c f =>
    let a := s.ctxs[c].getP (Fin.ofNat 8 f.a.val)
    let b := s.ctxs[c].getP (Fin.ofNat 8 f.b.val)
    if f.fn < 6 then
      let v := popP f.fn a b (s.getS c f.a)
      (s.result c 1 (.p (Fin.ofNat 8 f.d.val) (BitVec.allOnes 64) v)).nextPc c 8
    else s.setD c f (popS f.fn a))

/-! ### Tiles, handles and windows (Table 12-9) -/

/-- The physical line s[a] of the handle that imm names. -/
def State.tileLine (s : State) (c : CtxId) (f : Fields) : Option Nat :=
  hLine (s.handle c (f.imm % 256)) (s.getS c f.a).toNat

/-- A line as it stands; where a compute instruction under way will change it, the read sees it before or after that, which a free value decides
(R284). -/
def State.lineNow (s : State) (n : CoreId) (l : Nat) : Nat × State :=
  match s.cores[n].issued.findSome? fun i => (i.will.find? fun e => decide (e.1 = l)).map (·.2) with
  | none => (s.lineNat n l, s)
  | some v =>
    match s.draw 1 with
    | (b, s) => (if b = 1 then v else s.lineNat n l, s)

/-- A line of the core's scratchpad as a context's read sees it: one that the context has just stored to may still be as it was before (R284), which
a free value decides. -/
def State.lineSeen (s : State) (n : CoreId) (c : CtxId) (l : Nat) : Nat × State :=
  match s.ctxs[c].late.findSome? fun e => match e.effect with
    | .line k old => if k = l then some old else none
    | _ => none with
  | none => s.lineNow n l
  | some old =>
    match s.draw 1 with
    | (b, s) => if b = 1 then (old, s) else s.lineNow n l

/-- The context stores to lines of its scratchpad: reads of its next issue cycle may still see them as they are now (R284, Table 10-2). -/
def State.stores (s : State) (n : CoreId) (c : CtxId) (ls : List Nat) : State :=
  (ls.foldl (fun s l => s.result c 2 (.line l (s.lineNat n l))) s).overwrite n c (fun _ => true) (ls.map fun l => spmAddr n l / 32)

/-- A tile register of a field. -/
def tReg (i : Fin 32) : Fin 16 := Fin.ofNat 16 i.val

/-- Info of a poison exception (Table 11-5): the unit and the number of the line by device address. -/
def poisonInfo (unit addr : Nat) : Nat := unit + 65536 * (addr / 32 % 2 ^ 32)

/-- TLD (R328): of a poisoned line the tile is undefined. -/
def execTld (n : CoreId) (w : W64) (s : State) : Ans :=
  .next (s.issue n w 0 (fnRow 0x40 [0]) fun s c f =>
    match s.tileLine c f with
    | none => s.badCtl c
    | some l =>
      let a := spmAddr n l
      let s := s.settleRange a 32
      let pc := s.ctxs[c].pc
      let s := s.nextPc c 8
      if s.poisonedIn a 32 then
        match s.draw 256 with
        | (v, s) => (s.result c 5 (.t (tReg f.d) (BitVec.allOnes 256) v)).completion c 0x05 (poisonInfo 0 a) pc
      else
        match s.lineSeen n c l with
        | (v, s) => s.result c 5 (.t (tReg f.d) (BitVec.allOnes 256) (BitVec.ofNat 256 v)))

/-- TST. -/
def execTst (n : CoreId) (w : W64) (s : State) : Ans :=
  .next (s.issue n w 0 (fnRow 0x40 [1]) fun s c f =>
    match s.tileLine c f with
    | none => s.badCtl c
    | some l => ((s.stores n c [l]).putLine n l (s.ctxs[c].t[tReg f.d]).toNat).nextPc c 8)

/-- One 64-bit word of a tile, with its bits. -/
def quarterEffect (d : Fin 16) (q : Nat) (v : W64) : Effect :=
  .t d ((BitVec.allOnes 64).setWidth 256 <<< (64 * q)) (v.setWidth 256 <<< (64 * q))

/-- TSET. -/
def execTset (n : CoreId) (w : W64) (s : State) : Ans :=
  .next (s.issue n w 0 (fnRow 0x40 [2]) fun s c f =>
    (s.result c 1 (quarterEffect (tReg f.d) (f.imm % 4) (s.getS c f.a))).nextPc c 8)

/-- TGET. -/
def execTget (n : CoreId) (w : W64) (s : State) : Ans :=
  .next (s.issue n w 0 (fnRow 0x40 [3]) fun s c f =>
    s.setD c f ((s.ctxs[c].t[tReg f.a] >>> (64 * (f.imm % 4))).setWidth 64))

/-- The windows that stand open on handle `h` of context `c` close (R276, R336). -/
def State.closeOn (s : State) (n : CoreId) (c : CtxId) (h : Nat) : State := s.closeWindows n (s.winOn n c h)

/-- The bits of a handle entry that are not reserved (Table 10-1). -/
def handleBits : BitVec 128 := 0xE00000000000FFFF0001FFFF0001FFFF

/-- Write a handle entry; its reserved bits are zero (Table 10-1). -/
def State.putHandle (s : State) (c : CtxId) (h : Nat) (v : BitVec 128) : State :=
  s.setCtx c fun x => { x with handles := x.handles.set (Fin.ofNat 256 h) (v &&& handleBits) }

/-- The contents of a buffer whose handle is made are undefined, but for lines that a pinned handle of the context covers (R266). -/
def State.makeBuffer (s : State) (n : CoreId) (c : CtxId) (v : BitVec 128) : State :=
  let lo := spmAddr n (hBase v) / 32
  let s := s.flushBuf (.spm n) fun g => decide (lo ≤ g.line ∧ g.line < lo + hLines v)
  s.blurHandle n (s.ctxs[c].handles.toList.filter fun g => hValid g && hPin g) v

/-- HSET (R264 to R266, R336). -/
def execHset (n : CoreId) (w : W64) (s : State) : Ans :=
  .next (s.issue n w 0 (fnRow 0x41 [0]) fun s c f =>
    let h := f.imm % 256
    let v := s.getS c f.b ++ s.getS c f.a
    if !hValid v then ((s.closeOn n c h).putHandle c h v).nextPc c 8
    else if s.handleOk n c v then (((s.closeOn n c h).makeBuffer n c v).putHandle c h v).nextPc c 8
    else s.badCtl c)

/-- HGET. -/
def execHget (n : CoreId) (w : W64) (s : State) : Ans :=
  .next (s.issue n w 0 (fnRow 0x41 [1]) fun s c f =>
    s.setD c f ((s.handle c (f.imm % 256) >>> (64 * f.a.val)).setWidth 64) 2)

/-- HINV. -/
def execHinv (n : CoreId) (w : W64) (s : State) : Ans :=
  .next (s.issue n w 0 (fnRow 0x41 [2]) fun s c f =>
    let h := f.imm % 256
    ((s.closeOn n c h).putHandle c h (hClear (s.handle c h))).nextPc c 8)

/-- Some line of a handle lies in another open window of the core (R273). -/
def State.winOverlap (s : State) (n : CoreId) (h : BitVec 128) : Bool :=
  (List.finRange 8).any fun w =>
    s.bit SPM_WIN.open [n.val, w.val] &&
      (let r := s.winLines n w; decide (r.1 < hBase h + hLines h ∧ hBase h < r.1 + r.2))

/-- The window of a core opens as imm says (Table 12-10). -/
def State.openWindow (s : State) (n : CoreId) (c : CtxId) (f : Fields) : State :=
  let w : Fin 8 := Fin.ofNat 8 f.imm
  let i := [n.val, w.val]
  let s := s.setReg SPM_WIN.core_mask i (s.getS c f.a).toNat
  let s := s.setReg SPM_WIN.handle i (bitsOf f.imm 15 8)
  let s := s.setReg SPM_WIN.counter i (bitsOf f.imm 21 16)
  let s := s.setReg SPM_WIN.rd i (bitsOf f.imm 24 24)
  let s := s.setReg SPM_WIN.wr i (bitsOf f.imm 25 25)
  let s := s.setReg SPM_WIN.ext i (bitsOf f.imm 26 26)
  let s := s.setReg SPM_WIN.part_mask i (bitsOf f.imm 31 28)
  let s := s.setReg SPM_WIN.slot i (s.reg SO_CTX_STATE.slot [c.val])
  let s := s.setReg SPM_WIN.open i 1
  s.setCore n fun k => { k with winOwner := k.winOwner.set w c }

/-- WIN_OPEN (R273, R331, R336). -/
def execWinOpen (n : CoreId) (w : W64) (s : State) : Ans :=
  .next (s.issue n w 0 (fnRow 0x42 [0]) fun s c f =>
    let h := s.handle c (bitsOf f.imm 15 8)
    if s.bit SPM_WIN.open [n.val, f.imm % 8] || !hValid h || s.winOverlap n h ||
        !s.ctrAllowed n c (Fin.ofNat 64 (bitsOf f.imm 21 16)) then s.badCtl c
    else ((s.openWindow n c f).result c 4 (.window (Fin.ofNat 8 f.imm))).nextPc c 8)

/-- WIN_CLOSE (R276, R336). -/
def execWinClose (n : CoreId) (w : W64) (s : State) : Ans :=
  .next (s.issue n w 0 (fnRow 0x42 [1]) fun s c f =>
    let k : Fin 8 := Fin.ofNat 8 f.imm
    if !s.bit SPM_WIN.open [n.val, k.val] then s.nextPc c 8
    else if s.cores[n].winOwner[k] ≠ c then s.badCtl c
    else (s.closeWindow n k).nextPc c 8)

/-! ### Synchronisation (Table 12-11) -/

/-- The object that an instruction names: s[a] + imm[13:0], below 16,384 (R338). -/
def State.objectOf (s : State) (c : CtxId) (f : Fields) : Option SoId :=
  let o := (s.getS c f.a).toNat + f.imm % 16384
  if h : o < 16384 then some ⟨o, h⟩ else none

/-- An object instruction: invalid operand, SO denied (0x0A), or what it does. -/
def State.soIssue (s : State) (c : CtxId) (f : Fields) (act : State → SoId → State) : State :=
  match s.objectOf c f with
  | none => s.badCtl c
  | some o => if s.soPermits (s.partOf (.ctx c)) o.val then act s o else s.precise c 0x0A o.val

/-- Issue an object operation; with `d` ≠ 0 issue stops until its result is written (R297). -/
def State.soSend (s : State) (n : CoreId) (c : CtxId) (kind : SoKind) (o : SoId) (x : W64) (d : Fin 32) : State :=
  let q := s.stamp
  let s := (s.sendFlight n c (.so kind o x)).nextPc c 8
  if d.val = 0 then s else (s.setCtx c fun r => { r with stop := .result q d none }).sleep c

/-- SO_READ: with d = 0 it does nothing. -/
def execSoRead (n : CoreId) (w : W64) (s : State) : Ans :=
  .next (s.issue n w 0 (fnRow 0x48 [0]) fun s c f =>
    s.soIssue c f fun s o => if f.d.val = 0 then s.nextPc c 8 else s.soSend n c .read o 0 f.d)

/-- SO_ADD. -/
def execSoAdd (n : CoreId) (w : W64) (s : State) : Ans :=
  .next (s.issue n w 0 (fnRow 0x48 [1]) fun s c f =>
    s.soIssue c f fun s o => s.soSend n c .add o (s.getS c f.b) f.d)

/-- SO_SIG. -/
def execSoSig (n : CoreId) (w : W64) (s : State) : Ans :=
  .next (s.issue n w 0 (fnRow 0x48 [2]) fun s c f =>
    s.soIssue c f fun s o => s.soSend n c .signal o (s.getS c f.b) 0)

/-- The TCLK edge at which a wait issued now expires, by imm[31:14] in µs; 0 is no timeout (R299, R339). -/
def State.expiryOf (s : State) (f : Fields) : Option Nat :=
  let us := bitsOf f.imm 31 14
  if us = 0 then none else some (s.clk.tclk + 250 * us)

/-- WAIT_SO (R298, R339): a registration goes to the home, and issue stops until the home answers. -/
def execWaitSo (n : CoreId) (w : W64) (s : State) : Ans :=
  .next (s.issue n w 0 (opRow 0x49) fun s c f =>
    s.soIssue c f fun s o =>
      let e := s.expiryOf f
      let q := s.stamp
      ((s.sendFlight n c (.register o)).setCtx c fun r => { r with stop := .object o (r.getS f.b) f.d e (.sent q) }).nextPc c 8)

/-- WAIT_CTR (R277, R299): the context goes on with s[d] = 0 where the counter meets the target, and else waits. -/
def execWaitCtr (n : CoreId) (w : W64) (s : State) : Ans :=
  .next (s.issue n w 0 (opRow 0x4A) fun s c f =>
    let k := f.ctr
    let x := (s.getS c f.b).setWidth 32
    if !s.ctrAllowed n c k then s.badCtl c
    else if ctrMeets (BitVec.ofNat 32 (s.reg SPM_ARRIVAL.count [n.val, k.val])) x then (s.setD c f 0).pass c 1
    else
      let e := s.expiryOf f
      ((s.nextPc c 8).setCtx c fun r => { r with stop := .counter k x f.d e }).sleep c)

/-- CTR_SET (R277, R339): the counter takes s[b][31:0]; waits on it are judged against the new value. -/
def execCtrSet (n : CoreId) (w : W64) (s : State) : Ans :=
  .next (s.issue n w 0 (fnRow 0x4B [0]) fun s c f =>
    let k := f.ctr
    if s.ctrAllowed n c k then
      ((s.setReg SPM_ARRIVAL.count [n.val, k.val] (s.getS c f.b).toNat).judgeCtrs n k).nextPc c 8
    else s.badCtl c)

/-- CTR_READ (R294, R339). -/
def execCtrRead (n : CoreId) (w : W64) (s : State) : Ans :=
  .next (s.issue n w 0 (fnRow 0x4B [1]) fun s c f =>
    if !s.ctrAllowed n c f.ctr then s.badCtl c
    else s.setD c f (BitVec.ofNat 64 (s.reg SPM_ARRIVAL.count [n.val, f.ctr.val])))

end Sys2Proof.Machine
end

