-- ==== Sys2Proof/Machine/LoadStore.lean ====
section
/-! DEFINITION. Machine/LoadStore.lean: loads and stores (R327 to R331, Tables 12-6 and 12-7), and the completion of global accesses
and fences (R25, R301, R329). -/
namespace Sys2Proof.Machine
open Reg

/-! ### Addresses and bytes within handles -/

/-- Bytes that a handle's logical blocks hold (R264). -/
def hBytes (h : BitVec 128) : Nat := 32 * (if hTwod h then hRows h * hCols h else hLines h)

/-- The device address of logical byte `o` of a handle of core `n`. -/
def hAddr (n : CoreId) (h : BitVec 128) (o : Nat) : Option Nat :=
  (hLine h (o / 32)).map fun l => spmAddr n l + o % 32

/-- Misaligned: not aligned to its size (0x09). -/
def State.misaligned (s : State) (c : CtxId) (a : Nat) : State := s.precise c 0x09 a

/-- A value of `n` bytes as a register value, zero- or sign-extended. -/
def extend (n : Nat) (sgn : Bool) (v : Nat) : W64 :=
  if sgn then BitVec.ofInt 64 (signedOf (8 * n) v) else BitVec.ofNat 64 (v % 2 ^ (8 * n))

/-- The address or block number s[r] + offset, modulo 2^64, with the offset in the bits of imm above `lo`. -/
def State.plus (s : State) (c : CtxId) (f : Fields) (r : Fin 32) (lo : Nat) : Nat :=
  (s.getS c r + BitVec.ofInt 64 (f.simm lo)).toNat

/-- Write those bytes of one line of a core's scratchpad that are given: a whole line at once, else through the gather buffer. -/
def State.putLineBytes (s : State) (n : CoreId) (line : Nat) (l : List (Option Byte)) : State :=
  if l.all Option.isSome then s.writeBytes (spmAddr n line) (l.filterMap id)
  else (l.zipIdx).foldl (fun s e =>
    match e.1 with
    | some b => s.writeBytes (spmAddr n line + e.2) [b]
    | none => s) s

/-! ### Handle-relative scalar accesses -/

/-- The line of its core's scratchpad that a device address lies in. -/
def lineNo (a : Nat) : Nat := (a - spmBase) % 0x400000 / 32

/-- LD_H. -/
def execLdH (n : CoreId) (w : W64) (s : State) : Ans :=
  .next (s.issue n w 0 (opRow 0x20) fun s c f =>
    let h := s.handle c (f.imm % 256)
    let k := 2 ^ (f.fn % 4)
    let o := s.plus c f f.a 8
    if !hValid h || decide (hBytes h < o + k) then s.badCtl c
    else if o % k ≠ 0 then s.misaligned c o
    else
      match hAddr n h o with
      | none => s.badCtl c
      | some a =>
        let s := s.settleRange a k
        let pc := s.ctxs[c].pc
        if s.poisonedIn a k then
          match s.draw 64 with
          | (v, s) => (s.setD c f v 6).completion c 0x05 (poisonInfo 0 a) pc
        else
          match s.lineSeen n c (lineNo a) with
          | (v, s) => s.setD c f (extend k (bitOf f.fn 2) (v / 256 ^ (a % 32))) 6)

/-- ST_H: the low bytes of s[d] go through the gather buffer. -/
def execStH (n : CoreId) (w : W64) (s : State) : Ans :=
  .next (s.issue n w 0 (opRow 0x21) fun s c f =>
    let h := s.handle c (f.imm % 256)
    let k := 2 ^ (f.fn % 4)
    let o := s.plus c f f.a 8
    if !hValid h || decide (hBytes h < o + k) then s.badCtl c
    else if o % k ≠ 0 then s.misaligned c o
    else
      match hAddr n h o with
      | none => s.badCtl c
      | some a => ((s.stores n c [lineNo a]).writeNat a k (s.getS c f.d).toNat).nextPc c 8)

/-! ### Handle-relative vector accesses -/

/-- A logical block of a two-dimensional handle, if it lies within. -/
def blockAt (h : BitVec 128) (y x : Nat) : Option Nat :=
  if hValid h && hTwod h && decide (y < hRows h ∧ x < hCols h) then some (hBlock h y x) else none

/-- Element width of a transposed square (assumption 13, DEDUCED). -/
def squareWidth (fn : Nat) : Nat :=
  match fn / 8 with
  | 0 => 8
  | 1 => 16
  | 2 => 32
  | _ => 4

/-- All of some optional lines. -/
def allSome : List (Option Nat) → Option (List Nat)
  | [] => some []
  | none :: _ => none
  | some a :: l => (allSome l).map (a :: ·)

/-- The lines that vld.h or vst.h touches (Table 12-7): its eight blocks, or the rows of its square. -/
def State.shapeLines (s : State) (c : CtxId) (f : Fields) : Option (List Nat) :=
  let h := s.handle c (f.imm % 256)
  let a := s.plus c f f.a 8
  match f.fn % 4 with
  | 0 => allSome ((List.range 8).map fun j => hLine h (a + j))
  | 1 => allSome ((List.range 8).map fun j => blockAt h (s.getS c f.a).toNat (s.plus c f f.b 8 + j))
  | 2 => allSome ((List.range 8).map fun j => blockAt h (a + j) (s.getS c f.b).toNat)
  | _ => allSome ((List.range (256 / squareWidth f.fn)).map fun r => blockAt h (a + r) (s.getS c f.b).toNat)

/-- Blocks as a vector register, block j in bits [256j + 255:256j]. -/
def packBlocks (l : List Nat) : VecReg := BitVec.ofNat 2048 (packLanes 256 l)

/-- The eight output blocks of a transposed square (R272): element r of output block i is element i of row r. -/
def squareBlocks (b first : Nat) (rows : List Nat) : List Nat :=
  (List.range 8).map fun j => packLanes b (rows.map fun l => laneOf b l (first + j))

/-- The bits of the 32-bit lanes that a mask selects. -/
def maskBits (m : W64) : VecReg :=
  (List.range 64).foldl (fun x i => if m.getLsbD i then x ||| (0xFFFFFFFF#2048 <<< (32 * i)) else x) 0

/-- Write a vector register under a mask (R316). -/
def Ctx.setV (x : Ctx) (i : Fin 32) (m : W64) (v : VecReg) : Ctx :=
  let b := maskBits m
  { x with v := x.v.set i ((v &&& b) ||| (x.v[i] &&& ~~~b)) }

/-- A fixed-latency result in v[d] under the predicate of an instruction (R316). -/
def State.putV (s : State) (c : CtxId) (f : Fields) (v : VecReg) (lat : Nat) : State :=
  s.result c lat (.v f.d (maskBits (s.ctxs[c].getP f.pg)) v)

/-- The latency of vld.h (Tables 10-2 and 12-6): a transposed square takes longer by its element width. -/
def shapeLatency (fn : Nat) : Nat :=
  if fn % 4 ≠ 3 then 5
  else
    match squareWidth fn with
    | 4 => 9
    | 8 => 7
    | _ => 6

/-- The lines as a context's read sees them (R284). -/
def State.linesSeen (s : State) (n : CoreId) (c : CtxId) : List Nat → List Nat × State
  | [] => ([], s)
  | l :: ls =>
    match s.lineSeen n c l with
    | (v, s) =>
      match s.linesSeen n c ls with
      | (vs, s) => (v :: vs, s)

/-- VLD_H. -/
def execVldH (n : CoreId) (w : W64) (s : State) : Ans :=
  .next (s.issue n w 0 (opRow 0x28) fun s c f =>
    match s.shapeLines c f with
    | none => s.badCtl c
    | some l =>
      let s := l.foldl (fun s k => s.settleRange (spmAddr n k) 32) s
      let pc := s.ctxs[c].pc
      match l.find? fun k => s.poisonedIn (spmAddr n k) 32 with
      | some k =>
        match s.draw 2048 with
        | (v, s) => ((s.putV c f v (shapeLatency f.fn)).nextPc c 8).completion c 0x05 (poisonInfo 0 (spmAddr n k)) pc
      | none =>
        match s.linesSeen n c l with
        | (rows, s) =>
          let blocks := if f.fn % 4 = 3 then squareBlocks (squareWidth f.fn) (8 * bitsOf f.fn 2 2) rows else rows
          (s.putV c f (packBlocks blocks) (shapeLatency f.fn)).nextPc c 8)

/-- The bytes of block `j` of a vector that a mask lets be written. -/
def blockBytes (v m : Nat) (j : Nat) : List (Option Byte) :=
  (List.range 32).map fun t =>
    if bitOf m (8 * j + t / 4) then some (BitVec.ofNat 8 (v / 256 ^ (32 * j + t))) else none

/-- The bytes of row `r` of a transposed square of element width `b` that a masked store writes: elements `first` to `first` + 7. -/
def squareBytes (v m b first r old : Nat) : List (Option Byte) :=
  let on (j : Nat) : Bool := bitOf m ((256 * j + b * r) / 32)
  let el (j : Nat) : Nat := laneOf b (v / 2 ^ (256 * j)) r
  (List.range 32).map fun t =>
    if t < first * b / 8 ∨ first * b / 8 + b ≤ t then none
    else
      let u := t - first * b / 8
      if b = 4 then
        let lo := if on (2 * u) then el (2 * u) else laneOf 4 old (first + 2 * u)
        let hi := if on (2 * u + 1) then el (2 * u + 1) else laneOf 4 old (first + 2 * u + 1)
        if on (2 * u) || on (2 * u + 1) then some (BitVec.ofNat 8 (lo + 16 * hi)) else none
      else
        let j := 8 * u / b
        if on j then some (BitVec.ofNat 8 (el j / 256 ^ (u % (b / 8)))) else none

/-- VST_H. -/
def execVstH (n : CoreId) (w : W64) (s : State) : Ans :=
  .next (s.issue n w 0 (opRow 0x29) fun s c f =>
    match s.shapeLines c f with
    | none => s.badCtl c
    | some l =>
      let v := (s.ctxs[c].v[f.d]).toNat
      let m := (s.ctxs[c].getP f.pg).toNat
      let s := s.stores n c l
      let s := (l.zipIdx).foldl (fun s e =>
        let bs :=
          if f.fn % 4 = 3 then squareBytes v m (squareWidth f.fn) (8 * bitsOf f.fn 2 2) e.2 (s.lineNat n e.1)
          else blockBytes v m e.2
        s.putLineBytes n e.1 bs) s
      s.nextPc c 8)

/-! ### Global accesses: issue -/

/-- An address lies in CSR space. -/
def State.inCsr (s : State) (a : Nat) : Bool :=
  match regionOf s a with
  | .csr _ => true
  | _ => false

/-- The checks at issue of a global access at `a` with alignment `al` under counter `ctr` that touches the lines `l`: invalid operand where the
counter fails R331 or a line lies in CSR space, misaligned otherwise (R329). -/
def State.globalBad (s : State) (n : CoreId) (c : CtxId) (ctr : Option CtrId) (al a : Nat) (l : List Nat) : Option State :=
  let ctrBad := match ctr with
    | some k => !s.ctrAllowed n c k
    | none => false
  if ctrBad || l.any s.inCsr then some (s.badCtl c)
  else if a % al ≠ 0 then some (s.misaligned c a)
  else none

/-- An operation joins those under way. -/
def State.launch (s : State) (n : CoreId) (c : CtxId) (op : FlightOp) : State :=
  (s.sendFlight n c op).nextPc c 8

/-- LD_G: until its counter advances the destination is undefined (R321). -/
def execLdG (n : CoreId) (w : W64) (s : State) : Ans :=
  .next (s.issue n w 0 (opRow 0x22) fun s c f =>
    let k := 2 ^ (f.fn % 4)
    let a := s.plus c f f.a 6
    match s.globalBad n c (some f.ctr) k a [a] with
    | some s => s
    | none =>
      let s := s.launch n c (.load (BitVec.ofNat 64 a) k (bitOf f.fn 2) f.d f.ctr)
      match s.draw 64 with
      | (v, s) => s.give c (.s f.d v))

/-- The counter of a store, if ce is 1. -/
def Fields.storeCtr (f : Fields) : Option CtrId := if bitOf f.imm 6 then some f.ctr else none

/-- ST_G. -/
def execStG (n : CoreId) (w : W64) (s : State) : Ans :=
  .next (s.issue n w 0 (opRow 0x23) fun s c f =>
    let k := 2 ^ (f.fn % 4)
    let a := s.plus c f f.a 7
    match s.globalBad n c f.storeCtr k a [a] with
    | some s => s
    | none => s.launch n c (.store (BitVec.ofNat 64 a) k (s.getS c f.d) (bitOf f.fn 3) f.storeCtr))

/-- The addresses of the lines that vld.g or vst.g touches under its predicate. -/
def State.linesOf (s : State) (c : CtxId) (f : Fields) (a : Nat) : List Nat := (vecLines a (s.ctxs[c].getP f.pg)).map (·.2)

/-- VLD_G: until its counter advances the active lanes of the destination are undefined (R321). -/
def execVldG (n : CoreId) (w : W64) (s : State) : Ans :=
  .next (s.issue n w 0 (opRow 0x2A) fun s c f =>
    let a := s.plus c f f.a 6
    match s.globalBad n c (some f.ctr) 32 a (s.linesOf c f a) with
    | some s => s
    | none =>
      let s := s.launch n c (.vload (BitVec.ofNat 64 a) f.d (s.ctxs[c].getP f.pg) f.ctr)
      match s.draw 2048 with
      | (v, s) => s.give c (.v f.d (maskBits (s.ctxs[c].getP f.pg)) v))

/-- VST_G. -/
def execVstG (n : CoreId) (w : W64) (s : State) : Ans :=
  .next (s.issue n w 0 (opRow 0x2B) fun s c f =>
    let a := s.plus c f f.a 7
    match s.globalBad n c f.storeCtr 32 a (s.linesOf c f a) with
    | some s => s
    | none =>
      s.launch n c (.vstore (BitVec.ofNat 64 a) (s.ctxs[c].v[f.d]) (s.ctxs[c].getP f.pg) (bitOf f.fn 3) f.storeCtr))

/-! ### Global accesses: completion -/

/-- Code and info of a denied access (Table 11-5). -/
def denialExc (d : Denial) (a : Nat) : Nat × Nat :=
  match d with
  | .window n (some w) => (0x07, n.val + 256 * w.val)
  | .window n none => (0x07, n.val + 2048)
  | .bell n w o => (0x07, n.val + 256 * w.val + (if o then 0 else 2048))
  | _ => (0x08, a)

/-- The first denied address of some, with the denial. -/
def State.firstDenied (s : State) (src : Src) (p : PartId) (wr : Bool) : List Nat → Option (Nat × Denial)
  | [] => none
  | a :: l =>
    match s.denialAt src p wr a with
    | some d => some (a, d)
    | none => s.firstDenied src p wr l

/-- A line with the last mark ends a core-sourced transfer into a window (R275, R330). -/
def State.lastMark (s : State) (last : Bool) (a : Nat) : State :=
  match regionOf s a with
  | .spm n o =>
    if last then
      match s.winOf n (o / 32) with
      | some w => { s with ends := s.ends ++ [(n, Fin.ofNat 64 (s.reg SPM_WIN.counter [n.val, w.val]))] }
      | none => s
    else s
  | _ => s

/-- The end of an operation: it is under way no more, its counter advances, and a context that was to end may do so. -/
def State.landed (s : State) (f : Flight) (k : Option CtrId) : State :=
  match k with
  | some k => s.advanceCtr f.core k
  | none => s

/-- A denied global access, whose denials have been recorded (R329): the counter advances, and the exception is raised at completion. -/
def State.flightDenied (s : State) (f : Flight) (k : Option CtrId) (a : Nat) (d : Denial) : State :=
  let e := denialExc d a
  ((s.landed f k).completion f.ctx e.1 e.2 f.pc).settle f.ctx

/-- A poisoned load: the destination is undefined, the counter advances, poison (0x05) is raised. -/
def State.flightPoisoned (s : State) (f : Flight) (k : Option CtrId) (a : Nat) : State :=
  ((s.landed f k).completion f.ctx 0x05 (poisonInfo 0 a) f.pc).settle f.ctx

/-- The lines of a vector load, each judged by itself (R274, R329): a denied line is recorded and reads zero. The answer is the 256 bytes, the
first poisoned line, and the first denied line with its denial. -/
def State.readLines (s : State) (src : Src) (p : PartId) (host : Nat) :
    List (Nat × Nat) → Nat × Option Nat × Option (Nat × Denial) × State
  | [] => (0, none, none, s)
  | (j, a) :: l =>
    match s.denialAt src p false a with
    | some r =>
      match (s.recordDenial src p r).readLines src p host l with
      | (v, bad, _, s) => (v, bad, some (a, r), s)
    | none =>
      let s := s.settleRange a 32
      let x := s.readAt a 32 (host / 2 ^ (256 * j)) * 2 ^ (256 * j)
      let b := if s.poisonedIn a 32 then some a else none
      match s.readLines src p host l with
      | (v, bad, d, s) => (x + v, b.or bad, d, s)

/-- The lines of a vector store, each judged by itself (R274, R329): a denied line is recorded and not written. The answer is the first denied line
with its denial. -/
def State.writeLines (s : State) (src : Src) (p : PartId) (v m : Nat) : List (Nat × Nat) → Option (Nat × Denial) × State
  | [] => (none, s)
  | (j, a) :: l =>
    match s.deposit src p a (blockBytes v m j) with
    | (d, s) =>
      match s.writeLines src p v m l with
      | (e, s) => ((d.map fun r => (a, r)).or e, s)

/-- The last line that a vector store writes may carry the last mark (R330). -/
def State.lastLine (s : State) (last : Bool) (l : List (Nat × Nat)) : State :=
  match l.getLast? with
  | some e => s.lastMark last e.2
  | none => s

/-- A program's write by device address reaches a core's scratchpad, whose compute instructions of that program may be at work there (R345). -/
def State.overwriteAt (s : State) (c : CtxId) (a : Nat) : State :=
  match regionOf s a with
  | .spm n _ => s.overwrite n c (fun _ => true) [a / 32]
  | _ => s

/-- A flight's load or store is performed; `host` is what a host memory it reads holds (R329 to R331, R397). -/
def State.perform (s : State) (f : Flight) (host : BitVec 2048) : State :=
  let src : Src := .core f.core
  let p := s.partOf (.ctx f.ctx)
  let c := f.ctx
  match f.op with
  | .load a k sgn d ctr =>
    let a := a.toNat
    match s.denialAt src p false a with
    | some r => ((s.recordDenial src p r).give c (.s d 0)).flightDenied f (some ctr) a r
    | none =>
      let s := s.settleRange a k
      if s.poisonedIn a k then
        match s.draw 64 with
        | (v, s) => (s.give c (.s d v)).flightPoisoned f (some ctr) a
      else ((s.give c (.s d (extend k sgn (s.readAt a k host.toNat)))).landed f (some ctr)).settle c
  | .store a k v last ctr =>
    let a := a.toNat
    match (s.overwriteAt c a).deposit src p a ((bytesOf k v.toNat).map some) with
    | (some r, s) => s.flightDenied f ctr a r
    | (none, s) => ((s.lastMark last a).landed f ctr).settle c
  | .vload a d m ctr =>
    match s.readLines src p host.toNat (vecLines a.toNat m) with
    | (v, bad, some (b, r), s) =>
      let s := (s.give c (.v d (maskBits m) (BitVec.ofNat 2048 v))).flightDenied f (some ctr) b r
      match bad with
      | some b => (s.completion c 0x05 (poisonInfo 0 b) f.pc).settle c
      | none => s
    | (_, some b, none, s) =>
      match s.draw 2048 with
      | (v, s) => (s.give c (.v d (maskBits m) v)).flightPoisoned f (some ctr) b
    | (v, none, none, s) => ((s.give c (.v d (maskBits m) (BitVec.ofNat 2048 v))).landed f (some ctr)).settle c
  | .vstore a v m last ctr =>
    let l := vecLines a.toNat m
    match (l.foldl (fun s e => s.overwriteAt c e.2) s).writeLines src p v.toNat m.toNat l with
    | (some (b, r), s) => (s.lastLine last l).flightDenied f ctr b r
    | (none, s) => ((s.lastLine last l).landed f ctr).settle c
  | _ => s

/-- The flight's memory access is held (R389, R406). -/
def State.flightHeld (s : State) (f : Flight) : Bool :=
  match f.op with
  | .load a _ _ _ _ => s.dramHeld a.toNat
  | .store a _ _ _ _ => s.dramHeld a.toNat
  | .vload a _ m _ => (vecLines a.toNat m).any fun e => s.dramHeld e.2
  | .vstore a _ m _ _ => (vecLines a.toNat m).any fun e => s.dramHeld e.2
  | _ => true

/-- GLOBAL_ACCESS_COMPLETE (R329 to R331): operation `i` of those under way is performed, unless an earlier one to the same destination
stands before it or its page or channel is held. -/
def execGlobalAccessComplete (i : Nat) (host : BitVec 2048) (s : State) : Ans :=
  .next (match s.flights[i]? with
    | none => s
    | some f => if s.flightHeld f || s.behind f then s else (s.dropFlight f.seq).perform f host)

/-- An access or transfer of a context issued before number `seq` is not complete (R301). -/
def State.fenceHeld (s : State) (c : CtxId) (seq : Nat) : Bool :=
  s.flights.any (fun f => decide (f.ctx = c ∧ f.seq < seq) &&
    match f.op with
    | .fence _ => false
    | .so _ _ _ => false
    | .register _ => false
    | _ => true) ||
  (s.cores[s.coreOf c].dma.toList.any fun d =>
    match d with
    | some d => decide (d.ctx = c ∧ d.seq < seq)
    | none => false)

/-- FENCE_COMPLETE (R301). -/
def execFenceComplete (i : Nat) (s : State) : Ans :=
  .next (match s.flights[i]? with
    | none => s
    | some f =>
      match f.op with
      | .fence k => if s.fenceHeld f.ctx f.seq then s else ((s.dropFlight f.seq).advanceCtr f.core k).settle f.ctx
      | _ => s)

end Sys2Proof.Machine
end

