-- ==== Sys2Proof/Machine/Vector.lean ====
section
/-! DEFINITION. Machine/Vector.lean: vector instructions and format conversion (R141, R332 to R334, Table 12-8). -/
namespace Sys2Proof.Machine
open Reg

/-! ### Integer lanes -/

/-- Element width of es. -/
def esWidth (es : Nat) : Nat := 8 * 2 ^ es

/-- The elements of a vector register at a width. -/
def velems (w : Nat) (v : VecReg) : List Nat := lanesOf w (2048 / w) v.toNat

/-- A vector register from its elements. -/
def vpack (w : Nat) (l : List Nat) : VecReg := BitVec.ofNat 2048 (packLanes w l)

/-- A signed saturating result of `w` bits. -/
def satOf (w : Nat) (i : Int) : Nat := wrapOf w (clampInt (-(2 ^ (w - 1) : Int)) (2 ^ (w - 1) - 1) i)

/-- One lane of valu: results wrap modulo 2^w except adds and subs; shift amounts are taken modulo the width. -/
def valuOp (w fn a b : Nat) : Nat :=
  let x := signedOf w a
  let y := signedOf w b
  let k := b % w
  match fn with
  | 0 => (a + b) % 2 ^ w
  | 1 => wrapOf w (x - y)
  | 2 => a * b % 2 ^ w
  | 3 => a &&& b
  | 4 => a ||| b
  | 5 => a ^^^ b
  | 6 => a * 2 ^ k % 2 ^ w
  | 7 => a / 2 ^ k
  | 8 => wrapOf w (x / (2 ^ k : Int))
  | 9 => if x < y then a else b
  | 10 => if x < y then b else a
  | 11 => min a b
  | 12 => max a b
  | 13 => satOf w (x + y)
  | 14 => satOf w (x - y)
  | _ => x.natAbs % 2 ^ w

/-- VALU. -/
def execValu (n : CoreId) (w : W64) (s : State) : Ans :=
  .next (s.issue n w 0 (opRow 0x30) fun s c f =>
    let k := esWidth f.es
    let x := s.ctxs[c]
    (s.putV c f (vpack k (List.zipWith (valuOp k f.fn) (velems k x.v[f.a]) (velems k x.v[f.b]))) (if f.fn = 2 then 3 else 2)).nextPc c 8)

/-- One lane of vcmp. -/
def vcmpOp (fn a b : Nat) : Bool :=
  let x := signedOf 32 a
  let y := signedOf 32 b
  match fn with
  | 0 => decide (a = b)
  | 1 => decide (a ≠ b)
  | 2 => decide (x < y)
  | 3 => decide (x ≤ y)
  | 4 => decide (a < b)
  | _ => decide (a ≤ b)

/-- Bits of a 64-bit mask, the first lowest. -/
def maskOf (l : List Bool) : W64 := BitVec.ofNat 64 (packLanes 1 (l.map fun b => if b then 1 else 0))

/-- A comparison's result in p[d] under the predicate of an instruction. -/
def State.putP (s : State) (c : CtxId) (f : Fields) (v : W64) : State :=
  s.result c 2 (.p (Fin.ofNat 8 f.d.val) (s.ctxs[c].getP f.pg) v)

/-- VCMP: invalid operand unless es = 2. -/
def execVcmp (n : CoreId) (w : W64) (s : State) : Ans :=
  .next (s.issue n w 0 (opRow 0x31) fun s c f =>
    if f.es ≠ 2 then s.badCtl c
    else
      let x := s.ctxs[c]
      (s.putP c f (maskOf (List.zipWith (vcmpOp f.fn) (velems 32 x.v[f.a]) (velems 32 x.v[f.b])))).nextPc c 8)

/-! ### Floating-point lanes (R333) -/

/-- The format that es selects in floating-point forms (R315). -/
def esFmt (es : Nat) : Fmtf :=
  match es with
  | 0 => bf16
  | 1 => fp16
  | _ => fp32

/-- One lane of vfalu, rounded once to the element format. -/
def vfaluOp (g : Fmtf) (fn a b c : Nat) : Nat :=
  let x := g.read a
  let y := g.read b
  g.write (match fn with
    | 0 => x.add y
    | 1 => x.sub y
    | 2 => x.mul y
    | 3 => (x.mul y).add (g.read c)
    | 4 => Val.pick true x y
    | 5 => Val.pick false x y
    | 6 => x.abs
    | _ => x.neg)

/-- Combine three lists element by element. -/
def zip3 (f : Nat → Nat → Nat → Nat) : List Nat → List Nat → List Nat → List Nat
  | a :: as, b :: bs, c :: cs => f a b c :: zip3 f as bs cs
  | _, _, _ => []

/-- VFALU. -/
def execVfalu (n : CoreId) (w : W64) (s : State) : Ans :=
  .next (s.issue n w 0 (opRow 0x32) fun s c f =>
    let g := esFmt f.es
    let k := g.width
    let x := s.ctxs[c]
    (s.putV c f (vpack k (zip3 (vfaluOp g f.fn) (velems k x.v[f.a]) (velems k x.v[f.b]) (velems k x.v[f.c]))) 4).nextPc c 8)

/-- One lane of vfcmp. -/
def vfcmpOp (fn a b : Nat) : Bool :=
  let x := fp32.read a
  let y := fp32.read b
  match fn with
  | 0 => x.eq y
  | 1 => x.lt y
  | 2 => x.lt y || x.eq y
  | _ => x.isNan || y.isNan

/-- VFCMP: invalid operand unless es = 2. -/
def execVfcmp (n : CoreId) (w : W64) (s : State) : Ans :=
  .next (s.issue n w 0 (opRow 0x33) fun s c f =>
    if f.es ≠ 2 then s.badCtl c
    else
      let x := s.ctxs[c]
      (s.putP c f (maskOf (List.zipWith (vfcmpOp f.fn) (velems 32 x.v[f.a]) (velems 32 x.v[f.b])))).nextPc c 8)

/-! ### Conversion (R334) -/

/-- The elements of a widening or equal conversion: element i of the result comes from element j·n + i of the source. -/
def widen (p q : Num) (j v : Nat) : VecReg :=
  let n := 2048 / q.width
  vpack q.width ((List.range n).map fun i => (q.put (p.read (laneOf p.width v (j * n + i)))).1)

/-- The bits of elements j·n to j·n + n − 1 of width `w`. -/
def partBits (w j n : Nat) : VecReg := ((BitVec.allOnes 2048) >>> (2048 - w * n)) <<< (w * j * n)

/-- A narrowing conversion: source element i is written to element j·n + i, every other element keeps its value. -/
def narrow (p q : Num) (j v : Nat) (old : VecReg) : VecReg :=
  let n := 2048 / p.width
  let new := vpack q.width ((List.range n).map fun i => (q.put (p.read (laneOf p.width v i))).1)
  ((new <<< (q.width * j * n)) &&& partBits q.width j n) ||| (old &&& ~~~partBits q.width j n)

/-- The number of parts of a conversion. -/
def cvtParts (p q : Num) : Nat := max (p.width / q.width) (q.width / p.width)

/-- VCVT: a code above 7 or a part outside its range is an invalid operand. -/
def execVcvt (n : CoreId) (w : W64) (s : State) : Ans :=
  .next (s.issue n w 0 (opRow 0x34) fun s c f =>
    let p := numOf f.b.val
    let q := numOf f.c.val
    if 7 < f.b.val ∨ 7 < f.c.val ∨ cvtParts p q ≤ f.fn then s.badCtl c
    else
      let x := s.ctxs[c]
      let v := (x.v[f.a]).toNat
      let m := if p.width ≤ q.width then BitVec.allOnes 2048 else partBits q.width f.fn (2048 / p.width)
      (s.result c 4 (.v f.d (maskBits (x.getP f.pg) &&& m) (if p.width ≤ q.width then widen p q f.fn v else narrow p q f.fn v x.v[f.d]))).nextPc c 8)

/-! ### Reduction, permutation, draw -/

/-- The active elements of a register under a mask, with `z` where a lane is inactive. -/
def masked (w : Nat) (m : W64) (z : Nat) (v : VecReg) : List Nat :=
  ((velems w v).zipIdx).map fun e => if m.getLsbD (e.2 * w / 32) then e.1 else z

/-- The active elements alone. -/
def actives (w : Nat) (m : W64) (v : VecReg) : List Nat :=
  (((velems w v).zipIdx).filter fun e => m.getLsbD (e.2 * w / 32)).map (·.1)

/-- One level of the pairwise tree, each sum rounded to FP32. -/
def pairSums : List Val → List Val
  | a :: b :: l => (a.add b).round fp32 :: pairSums l
  | l => l

/-- The tree of R333 over a power of two of lanes. -/
def treeSum : Nat → List Val → Val
  | 0, l => l.headD .nan
  | n + 1, l => treeSum n (pairSums l)

/-- The least or greatest of some integers. -/
def pickInt (small : Bool) : List Int → Option Int
  | [] => none
  | a :: l =>
    match pickInt small l with
    | none => some a
    | some b => some (if small then min a b else max a b)

/-- The least or greatest of some values. -/
def pickVal (small : Bool) : List Val → Option Val
  | [] => none
  | a :: l =>
    match pickVal small l with
    | none => some a
    | some b => some (Val.pick small a b)

/-- vred: the sum of integers in 64 bits, their least or greatest, or the same of floating-point values; the manual states no
least or greatest of no active lane. -/
def vredOp (fn es : Nat) (m : W64) (v : VecReg) : Option W64 :=
  let w := esWidth es
  let g := esFmt es
  match fn with
  | 0 => some (BitVec.ofInt 64 ((actives w m v).map (signedOf w)).sum)
  | 1 => (pickInt true ((actives w m v).map (signedOf w))).map (BitVec.ofInt 64)
  | 2 => (pickInt false ((actives w m v).map (signedOf w))).map (BitVec.ofInt 64)
  | 3 => some (BitVec.ofNat 64 (g.write (treeSum (if es = 2 then 6 else 7) ((masked g.width m 0 v).map g.read))))
  | 4 => (pickVal true ((actives g.width m v).map g.read)).map fun x => BitVec.ofNat 64 (g.write x)
  | _ => (pickVal false ((actives g.width m v).map g.read)).map fun x => BitVec.ofNat 64 (g.write x)

/-- VRED. -/
def execVred (n : CoreId) (w : W64) (s : State) : Ans :=
  .next (s.issue n w 0 (opRow 0x35) fun s c f =>
    match vredOp f.fn f.es (s.ctxs[c].getP f.pg) (s.ctxs[c].v[f.a]) with
    | some v => s.setD c f v 8
    | none =>
      match s.draw 64 with
      | (v, s) => s.setD c f v 8)

/-- The vector result of vperm; none where the lane it names does not exist, which the manual states no result for. -/
def vpermOp (fn w : Nat) (m : W64) (sa sb : Nat) (va vb vd : VecReg) : Option VecReg :=
  let n := 2048 / w
  let l := velems w va
  match fn with
  | 0 => some (vpack w (List.replicate n (sa % 2 ^ w)))
  | 2 => if sb < n then some (vpack w ((velems w vd).set sb (sa % 2 ^ w))) else none
  | 3 => some (vpack w ((velems w vb).map fun i => l.getD (i % n) 0))
  | 4 => some (vpack w ((List.range n).map fun i => if sb ≤ i then l.getD (i - sb) 0 else 0))
  | _ =>
    let k := actives w m va
    some (vpack w (k ++ List.replicate (n - k.length) 0))

/-- The bits of lane `i` of width `w`. -/
def laneBits (w i : Nat) : VecReg := ((BitVec.allOnes 2048) >>> (2048 - w)) <<< (w * i)

/-- VPERM: fn 1 takes a lane to s[d]; fn 5 packs the active lanes and writes the whole register (assumption 15, DEDUCED). -/
def execVperm (n : CoreId) (w : W64) (s : State) : Ans :=
  .next (s.issue n w 0 (opRow 0x36) fun s c f =>
    let k := esWidth f.es
    let x := s.ctxs[c]
    let sb := (x.getS f.b).toNat
    if f.fn = 1 then
      if sb < 2048 / k then s.setD c f (BitVec.ofNat 64 (laneOf k (x.v[f.a]).toNat sb)) 3
      else
        match s.draw 64 with
        | (v, s) => s.setD c f v 3
    else
      match vpermOp f.fn k (x.getP f.pg) (x.getS f.a).toNat sb x.v[f.a] x.v[f.b] x.v[f.d] with
      | some v =>
        if f.fn = 5 then (s.result c 3 (.v f.d (BitVec.allOnes 2048) v)).nextPc c 8
        else if f.fn = 2 then (s.result c 3 (.v f.d (maskBits (x.getP f.pg) &&& laneBits k sb) v)).nextPc c 8
        else (s.putV c f v 3).nextPc c 8
      | none =>
        match s.draw 2048 with
        | (v, s) => (s.putV c f v 3).nextPc c 8)

/-- The draw of exposure number `e`, stream `t`, element `n` under a salt (R141). -/
def drawOf (salt e : W64) (t n : Nat) : W64 :=
  let z := ((e * 64 + BitVec.ofNat 64 t) ^^^ salt) + BitVec.ofNat 64 (n + 1) * 0x9E3779B97F4A7C15
  let z := (z ^^^ (z >>> 30)) * 0xBF58476D1CE4E5B9
  let z := (z ^^^ (z >>> 27)) * 0x94D049BB133111EB
  z ^^^ (z >>> 31)

/-- The draw salt in force: latched at step 3 (Table 16-6). -/
def State.salt (s : State) : W64 := BitVec.ofNat 64 (csrGet s.proc VOX_SALT.sample_salt [])

/-- VDRAW: requires es = 2. -/
def execVdraw (n : CoreId) (w : W64) (s : State) : Ans :=
  .next (s.issue n w 0 (opRow 0x37) fun s c f =>
    if f.es ≠ 2 then s.badCtl c
    else
      let e := s.getS c f.c
      let t := (s.getS c f.a).toNat % 256
      let b := (s.getS c f.b).toNat
      (s.putV c f (vpack 32 ((List.range 64).map fun i => (drawOf s.salt e t (b + i)).toNat / 2 ^ 32)) 4).nextPc c 8)

end Sys2Proof.Machine
end

