-- ==== Sys2Proof/Machine/Buffer.lean ====
section
/-! DEFINITION. Machine/Buffer.lean: what every compute instruction shares: buffer references (R341), issue into a class (R342 to
R346), reads and writes of scratchpad operands, and completion. -/
namespace Sys2Proof.Machine
open Reg

/-! ### Buffer references -/

/-- A buffer reference (Table 13-1). -/
structure Ref where
  n    : Nat
  line : Nat
  h    : Nat
  deriving DecidableEq, Repr

/-- The reference in a register value. -/
def refOf (v : W64) : Ref := ⟨bitsOf v.toNat 63 32, bitsOf v.toNat 31 8, bitsOf v.toNat 7 0⟩

/-- The first byte of a reference within its handle. -/
def Ref.off (r : Ref) : Nat := 32 * r.line

/-- The reference with `k` bytes lies within a valid handle. -/
def State.refHolds (s : State) (c : CtxId) (r : Ref) (k : Nat) : Bool :=
  hValid (s.handle c r.h) && decide (r.off + k ≤ hBytes (s.handle c r.h))

/-- The reference to n elements of `z` bytes is in order: n is not 0 (R341). -/
def State.refOk (s : State) (c : CtxId) (r : Ref) (z : Nat) : Bool := decide (r.n ≠ 0) && s.refHolds c r (r.n * z)

/-- The device address of logical byte `o` of a handle entry, whatever its valid bit. -/
def rawAddr (n : CoreId) (h : BitVec 128) (o : Nat) : Option Nat := hAddr n (h ||| (1#128 <<< 127)) o

/-- The bytes of a handle as they stand, for the checks at issue; past the handle they read zero. -/
def State.peek (s : State) (n : CoreId) (c : CtxId) (h o : Nat) : Nat → List Byte
  | 0 => []
  | k + 1 =>
    (match rawAddr n (s.handle c h) o with
      | some a => s.byteAt a
      | none => 0) :: s.peek n c h (o + 1) k

/-- The value of `k` bytes of a handle as they stand. -/
def State.peekNat (s : State) (n : CoreId) (c : CtxId) (h o k : Nat) : Nat := natOfBytes (s.peek n c h o k)

/-! ### A unit at work on its operands -/

/-- A unit executing an instruction: the state, its core and context, whether poisoned bytes are taken by value (R209) or are undefined,
the address of the first poisoned line it met, and the numbers of the lines it has read and written. -/
structure Run where
  s    : State
  n    : CoreId
  c    : CtxId
  keep : Bool
  bad  : Option Nat
  seen : List Nat
  laid : List Nat
  deriving DecidableEq, Repr

/-- Change the state. -/
def Run.on (r : Run) (f : State → State) : Run := { r with s := f r.s }

/-- A handle entry of the context. -/
def Run.handle (r : Run) (h : Nat) : BitVec 128 := r.s.handle r.c h

/-- Read bytes that lie within one line of a handle: errors are met (R397), poison is noted; outside the handle they are undefined. -/
def Run.readPart (r : Run) (h o k : Nat) : List Byte × Run :=
  match rawAddr r.n (r.handle h) o with
  | none =>
    match r.s.draw (8 * k) with
    | (v, s) => (bytesOf k v.toNat, { r with s := s })
  | some a =>
    let s := r.s.settleRange a k
    let r := { r with seen := a / 32 :: r.seen }
    if s.poisonedIn a k then
      let bad := some (r.bad.getD (a / 32 * 32))
      if r.keep then (s.readBytes a k, { r with s := s, bad := bad })
      else
        match s.draw (8 * k) with
        | (v, s) => (bytesOf k v.toNat, { r with s := s, bad := bad })
    else (s.readBytes a k, { r with s := s })

/-- Read bytes line by line. -/
def Run.readLoop (r : Run) (h o k : Nat) : Nat → List Byte × Run
  | 0 => ([], r)
  | fuel + 1 =>
    if k = 0 then ([], r)
    else
      let m := min k (32 - o % 32)
      match r.readPart h o m with
      | (a, r) =>
        match r.readLoop h (o + m) (k - m) fuel with
        | (b, r) => (a ++ b, r)

/-- Read `k` bytes at logical byte `o` of handle `h`. -/
def Run.read (r : Run) (h o k : Nat) : List Byte × Run := r.readLoop h o k (k / 32 + 2)

/-- Read a little-endian value. -/
def Run.readNat (r : Run) (h o k : Nat) : Nat × Run :=
  match r.read h o k with
  | (b, r) => (natOfBytes b, r)

/-- Write bytes within one line; through a handle that has become invalid the line is left undefined (R324). -/
def Run.writePart (r : Run) (h o : Nat) (bs : List Byte) : Run :=
  match rawAddr r.n (r.handle h) o with
  | none => r
  | some a =>
    let r := { r with laid := a / 32 :: r.laid }
    if hValid (r.handle h) then r.on fun s => s.writeBytes a bs
    else r.on fun s => (s.writeBytes a bs).blur (a / 32 * 32) 32

/-- Write bytes line by line. -/
def Run.writeLoop (r : Run) (h o : Nat) (bs : List Byte) : Nat → Run
  | 0 => r
  | fuel + 1 =>
    if bs = [] then r
    else
      let m := 32 - o % 32
      (r.writePart h o (bs.take m)).writeLoop h (o + m) (bs.drop m) fuel

/-- Write bytes at logical byte `o` of handle `h`. -/
def Run.write (r : Run) (h o : Nat) (bs : List Byte) : Run := r.writeLoop h o bs (bs.length / 32 + 2)

/-- Write the low `k` bytes of a value. -/
def Run.writeNat (r : Run) (h o k v : Nat) : Run := r.write h o (bytesOf k v)

/-- Read `count` values of `z` bytes. -/
def Run.readMany (r : Run) (h o z : Nat) : Nat → List Nat × Run
  | 0 => ([], r)
  | count + 1 =>
    match r.readNat h o z with
    | (a, r) =>
      match r.readMany h (o + z) z count with
      | (l, r) => (a :: l, r)

/-- Write values of `z` bytes one after another. -/
def Run.writeMany (r : Run) (h o z : Nat) (l : List Nat) : Run := r.write h o (l.flatMap fun v => bytesOf z v)

/-- Lines of a handle become poisoned (R169, R209, R396). -/
def Run.markLines (r : Run) (h : Nat) (l : List Nat) : Run :=
  l.foldl (fun r o =>
    match rawAddr r.n (r.handle h) o with
    | some a => r.on fun s => s.setPoison (a / 32)
    | none => r) r

/-- The address of a poisoned line that holds byte `o` of a handle. -/
def Run.badByte (r : Run) (h o : Nat) : Option Nat :=
  match rawAddr r.n (r.handle h) o with
  | none => none
  | some a => if r.s.poisonedIn a 1 then some (a / 32 * 32) else none

/-! ### Classes -/

/-- The instructions of a class in issue order. -/
def Core.cls (k : Core) : UnitClass → List Issued
  | .array => k.array
  | .grid => k.grid
  | .select => k.select
  | .sort => k.sort
  | .table => k.table

/-- Replace the instructions of a class. -/
def Core.setCls (k : Core) (u : UnitClass) (l : List Issued) : Core :=
  match u with
  | .array => { k with array := l }
  | .grid => { k with grid := l }
  | .select => { k with select := l }
  | .sort => { k with sort := l }
  | .table => { k with table := l }

/-- The counter of a compute instruction: imm[5:0] in format I, bits [5:0] of the second word in format L (R342). -/
def ctrOf (f : Fields) (x : W64) : CtrId := if isFmtI f.op then Fin.ofNat 64 f.imm else Fin.ofNat 64 x.toNat

/-- Invalid operand of a unit, where the manual gives the operand no index: the index is a free value. -/
def State.badUnit (s : State) (c : CtxId) (unit : Nat) : State :=
  match s.draw 8 with
  | (x, s) => s.badOperand c unit x.toNat

/-- A check at issue: whether it fails, and the operand index of its register field (R341), if it has one. -/
abbrev Check := Bool × Option Nat

/-- The first check that fails. -/
def firstBad (l : List Check) : Option (Option Nat) := (l.find? fun e => e.1).map (·.2)

/-- The slot of a context on its core. -/
def State.slotNow (s : State) (n : CoreId) (c : CtxId) : Fin 4 := (s.slotOf n c).getD 0

/-- The register fields that the word of a compute instruction uses. -/
def Fields.regs (f : Fields) : List (Fin 32) :=
  match formOf f.op f.fn with
  | none => []
  | some m =>
    let l : List (Nat × Fin 32) := [(12, f.d), (17, f.a), (22, f.b)] ++ (if m.fmt = Fmt.i then [] else [(27, f.c)])
    l.filterMap fun e => if m.used / 2 ^ e.1 % 32 = 31 then some e.2 else none

/-- The scalar registers that a compute instruction names; gradient and replace operations have read their whole source by the next issue
(R240, R345). -/
def Fields.names (f : Fields) : List (Fin 32) := if f.op = 0x83 ∨ f.op = 0xA1 ∨ f.op = 0xA3 then [] else f.regs

/-- The vector registers that a compute instruction names (R349). -/
def Fields.vnames (f : Fields) : List (Fin 32) := if f.op = 0x83 then f.regs else []

/-- A compute instruction joins its class (R342); a scalar or vector destination is undefined until it completes (R321). -/
def State.enqueue (s : State) (n : CoreId) (c : CtxId) (u : UnitClass) (w x : W64) (f : Fields) : State :=
  let q := s.ctxs[c]
  let it : Issued :=
    { seq := s.stamp, ctx := c, slot := s.slotNow n c, pc := q.pc, w := w, x := x, ra := q.getS f.a, rb := q.getS f.b
      rc := q.getS f.c, rd := q.getS f.d, tile := q.t[tReg f.a], vb := q.v[f.b], started := false, since := 0, done := 0, lost := false, met := none, missed := [], oob := 0
      names := f.names, vnames := f.vnames, spoilt := false, wrote := [], laid := [], will := [] }
  let s := ({ s with stamp := s.stamp + 1 }).setCore n fun k => k.setCls u (k.cls u ++ [it])
  s.nextPc c (wordBytes w)

/-- A scalar destination is undefined while the instruction is under way (R321). -/
def State.pendS (s : State) (c : CtxId) (d : Fin 32) : State :=
  match s.draw 64 with
  | (v, s) => s.putS c d v

/-- The issue of a compute instruction of a unit: its counter must satisfy R331, its checks must hold. -/
def State.compute (s : State) (n : CoreId) (c : CtxId) (u : UnitClass) (unit : Nat) (w x : W64) (f : Fields) (checks : List Check) :
    State :=
  match firstBad ((!s.ctrAllowed n c (ctrOf f x), none) :: checks) with
  | some (some i) => s.badOperand c unit i
  | some none => s.badUnit c unit
  | none => s.enqueue n c u w x f

/-- An instruction was issued: the context took it into its class and raised nothing. -/
def ctxGoesOn (s t : State) (c : CtxId) : Bool := decide (s.ctxs[c].pc ≠ t.ctxs[c].pc)

/-- The head of a class has started. -/
def State.headOf (s : State) (n : CoreId) (u : UnitClass) : Option Issued :=
  match s.cores[n].cls u with
  | [] => none
  | i :: _ => if i.started then some i else none

/-- Change the head of a class. -/
def State.setHead (s : State) (n : CoreId) (u : UnitClass) (f : Issued → Issued) : State :=
  s.setCore n fun k =>
    match k.cls u with
    | [] => k
    | i :: l => k.setCls u (f i :: l)

/-- The head of a class leaves it. -/
def State.popHead (s : State) (n : CoreId) (u : UnitClass) : State :=
  s.setCore n fun k => k.setCls u (k.cls u).tail

/-- The end of a compute instruction: its counter advances where its results are written (R342), completion exceptions are raised, and
its context may end. -/
def State.retire (s : State) (n : CoreId) (u : UnitClass) (i : Issued) (counts : Bool) (exc : List (Nat × Nat)) : State :=
  let s := s.popHead n u
  let s := if counts then s.advanceCtr n (ctrOf (fieldsOf i.w) i.x) else s
  let s := exc.foldl (fun s e => s.completion i.ctx e.1 e.2 i.pc) s
  s.settle i.ctx

/-- A unit begins an instruction. -/
def State.runOf (s : State) (n : CoreId) (i : Issued) (keep : Bool) : Run := ⟨s, n, i.ctx, keep, none, [], i.laid⟩

/-- A read of a descriptor as it stands counts as a read of its lines. -/
def Run.note (r : Run) (h o k : Nat) : Run :=
  { r with seen := ((List.range (k / 32 + 1)).filterMap fun j => (rawAddr r.n (r.handle h) (o + 32 * j)).map (· / 32)) ++ r.seen }

/-- A line's contents become undefined, pending bytes included. -/
def State.blurLine (s : State) (l : Nat) : State := (s.dropEntry l).blur (32 * l) 32

/-- The scalar register that a compute instruction writes (Tables 13-2 to 13-5). -/
def Issued.destS (i : Issued) : Option (Fin 32) :=
  let f := fieldsOf i.w
  if f.op = 0x88 ∨ f.op = 0x89 ∨ (f.op = 0x92 ∧ f.fn = 1) ∨ f.op = 0x95 then some f.d else none

/-- The vector register that a compute instruction writes (R349). -/
def Issued.destV (i : Issued) : Option (Fin 32) :=
  let f := fieldsOf i.w
  if f.op = 0x83 ∧ f.fn = 1 then some f.d else none

/-- The results of an instruction that the program has interfered with: undefined registers and lines (R345). -/
def State.undo (s : State) (i : Issued) (ls : List Nat) : State :=
  let s := ls.foldl (fun s l => s.blurLine l) s
  let s := match i.destS with
    | some d => s.pendS i.ctx d
    | none => s
  match i.destV with
  | some d => match s.draw 2048 with
    | (v, s) => s.setCtx i.ctx fun x => { x with v := x.v.set d v }
  | none => s

/-- An instruction has written all its results. They are undefined, and the offending writes too, where the program wrote what the instruction
reads or writes in the meantime; and its own writes may offend against instructions of the other classes (R344, R345). -/
def Run.closed (r : Run) (u : UnitClass) (i : Issued) : Run :=
  let own := (r.s.cores[r.n].cls u).map (·.seq)
  let r := r.on fun s => s.overwrite r.n r.c (fun x => !own.contains x.seq) r.laid
  let met := (r.seen ++ r.laid).filter i.wrote.contains
  if i.spoilt || met ≠ [] then r.on fun s => s.undo i (r.laid ++ met).eraseDups else r

/-- Lines of core `n`'s scratchpad whose contents differ between two states. -/
def linesChanged (s t : State) (n : CoreId) : List Nat :=
  let cells := (t.mem.filter fun e => !s.mem.contains e) ++ (s.mem.filter fun e => !t.mem.contains e)
  let lines := cells.map (·.1 / 32) ++ ((t.cores[n].gather.filter fun g => !s.cores[n].gather.contains g).map (·.line))
  ((lines.filter fun l => decide (spmAddr n 0 / 32 ≤ l ∧ l < spmAddr n 0 / 32 + 98304)).map (· - spmAddr n 0 / 32)).eraseDups

/-- What the head of a class will change, `done` being its completion (R284). -/
def State.foresee (s : State) (n : CoreId) (u : UnitClass) (done : State → State) : State :=
  let t := done s
  s.setHead n u fun i => { i with will := (linesChanged s t n).map fun l => (l, t.lineNat n l) }

/-- The poison exception of what a unit met, if any (0x05). -/
def Run.poison (r : Run) (unit : Nat) : List (Nat × Nat) :=
  match r.bad with
  | some a => [(0x05, poisonInfo unit a)]
  | none => []

end Sys2Proof.Machine
end

