-- ==== Sys2Proof/Machine/Select.lean ====
section
/-! DEFINITION. Machine/Select.lean: the selection unit and the sort engine (R136, R207 to R225, R358). -/
namespace Sys2Proof.Machine
open Reg

/-! ### Elements (R207, R208) -/

/-- The bytes of a value type. -/
def typeBytes (t : Nat) : Nat := if t < 3 then 4 else 2

/-- The sentinel of a type (Table 8-1). -/
def sentinel (t : Nat) : Nat :=
  match t with
  | 0 => 0x80000000
  | 1 => 0
  | 2 => 0xFF800000
  | 3 => 0xFC00
  | _ => 0xFF80

/-- The value of an element's bits. -/
def typeVal (t b : Nat) : Val :=
  match t with
  | 0 => .ofInt (signedOf 32 b)
  | 1 => .ofInt b
  | 2 => fp32.read b
  | 3 => fp16.read b
  | _ => bf16.read b

/-- An element from its position: excluded by the mask, NaN, or valid, with whether it carries poison. -/
inductive Elem where
  | excluded
  | nan
  | valid (bits idx : Nat) (bad : Bool)
  deriving DecidableEq, Repr

/-- The elements of an operand, `i` counting positions, each with the poisoned line that it lies in, if any; `mask` has bit m for element m. -/
def elems (t base mask : Nat) (useMask : Bool) : Nat → List (Nat × Option Nat) → List Elem
  | _, [] => []
  | i, (b, bad) :: l =>
    (if useMask && !bitOf mask i then .excluded
      else if (typeVal t b).isNan then .nan
      else .valid b (base + i) bad.isSome) :: elems t base mask useMask (i + 1) l

/-! ### Live lists (R211, R212) -/

/-- An empty live list. -/
def Live.fresh (t k : Nat) : Live := ⟨t, k, [], 0, 0, 0, false, []⟩

/-- Insert after every entry whose value is not less. -/
def insertEntry (t : Nat) (e : Nat × Nat) : List (Nat × Nat) → List (Nat × Nat)
  | [] => [e]
  | a :: l => if (typeVal t a.1).lt (typeVal t e.1) then e :: a :: l else a :: insertEntry t e l

/-- A value equals the value of the last of the k entries. -/
def Live.tiesLast (q : Live) (t b : Nat) : Bool :=
  match q.entries.getLast? with
  | some e => (typeVal q.type e.1).eq (typeVal t b)
  | none => false

/-- A valid element is taken or left out (R211); the ties with entry k − 1 follow (R212). -/
def Live.feed (q : Live) (b idx : Nat) : Live :=
  let q := { q with seen := min (q.seen + 1) 0xFFFFFFFF }
  if q.entries.length < q.k then { q with entries := insertEntry q.type (b, idx) q.entries }
  else
    match q.entries.getLast? with
    | none => q
    | some last =>
      if (typeVal q.type last.1).lt (typeVal q.type b) then
        let l := (insertEntry q.type (b, idx) q.entries).take q.k
        let q' := { q with entries := l }
        if q'.tiesLast q.type last.1 then { q' with ties := q.ties + 1 } else { q' with ties := 0 }
      else if (typeVal q.type last.1).eq (typeVal q.type b) then { q with ties := q.ties + 1 }
      else q

/-- Take one element. -/
def Live.take (q : Live) (e : Elem) : Live :=
  match e with
  | .excluded => q
  | .nan => { q with nans := min (q.nans + 1) 0xFFFFFFFF }
  | .valid b i bad => if bad then { (q.feed b i) with taint := i :: q.taint } else q.feed b i

/-! ### Result lists (R210) -/

/-- A result list's header (Table 8-2). -/
structure Header where
  kind  : Nat
  type  : Nat
  flags : Nat
  cap   : Nat
  count : Nat
  extra : Nat
  nans  : Nat
  seen  : Nat
  core  : Nat
  level : Nat
  deriving DecidableEq, Repr

/-- The header's 32 bytes. -/
def Header.bytes (h : Header) : List Byte :=
  bytesOf 1 h.kind ++ bytesOf 1 h.type ++ bytesOf 1 h.flags ++ bytesOf 1 0 ++ bytesOf 4 h.cap ++ bytesOf 4 h.count ++
    bytesOf 4 h.extra ++ bytesOf 4 h.nans ++ bytesOf 4 h.seen ++ bytesOf 1 h.core ++ bytesOf 1 h.level ++ bytesOf 6 0

/-- The header in 32 bytes. -/
def headerOf (b : List Byte) : Header :=
  let at' (o k : Nat) : Nat := natOfBytes ((b.drop o).take k)
  ⟨at' 0 1, at' 1 1, at' 2 1, at' 4 4, at' 8 4, at' 12 4, at' 16 4, at' 20 4, at' 24 1, at' 25 1⟩

/-- Bytes that a list of capacity `cap` occupies. -/
def listBytes (cap : Nat) : Nat := 32 * ceilDiv (32 + 8 * cap) 32

/-- Entries as bytes, with sentinels up to `k`. -/
def entryBytes (t k : Nat) (l : List (Nat × Nat)) : List Byte :=
  (l ++ List.replicate (k - l.length) (sentinel t, 0xFFFFFFFF)).flatMap fun (e : Nat × Nat) => bytesOf 4 e.1 ++ bytesOf 4 e.2

/-- The flags of a list: SHORT, TIE_AT_K, OVERFLOW, POISON, INCOMPLETE. -/
def listFlags (short tie over' poison incomplete : Bool) : Nat :=
  (if short then 1 else 0) + (if tie then 2 else 0) + (if over' then 4 else 0) + (if poison then 8 else 0) +
    (if incomplete then 16 else 0)

/-- A live list as a result list of a kind. -/
def Live.result (q : Live) (kind core : Nat) : List Byte :=
  let c := q.entries.length
  (Header.bytes ⟨kind, q.type, listFlags (decide (c < q.k)) (decide (q.ties ≠ 0)) false q.poison false, q.k, c, q.ties, q.nans,
    q.seen, core, 0⟩) ++ entryBytes q.type q.k q.entries

/-- The lines of a result list that hold entries with poisoned elements, as bytes of the list (R396). -/
def taintLines (es : List (Nat × Nat)) (taint : List Nat) : List Nat :=
  (((es.zipIdx).filter fun e => taint.contains e.1.2).map fun e => (32 + 8 * e.2) / 32 * 32).eraseDups

/-- Bytes padded with zero to whole lines. -/
def padLine (b : List Byte) : List Byte := b ++ List.replicate ((32 - b.length % 32) % 32) 0

/-! ### Top-k (Table 13-4) -/

/-- Bytes of a bitmap of n bits. -/
def maskBytes (n : Nat) : Nat := ceilDiv n 8

/-- The checks that topk and thr share: the type, the value operand, the index bound (R207) and the mask. -/
def State.elemChecks (s : State) (c : CtxId) (f : Fields) (x : W64) (most : Nat) : List Check :=
  let t := bitsOf x.toNat 11 8
  let a := refOf (s.getS c f.a)
  let base := (s.getS c f.b).toNat % 2 ^ 32
  [(decide (4 < t), none), (!s.refOk c a (typeBytes t) || decide (most < a.n), some 1),
    (decide (0xFFFFFFFE < base + a.n - 1), some 2),
    (bitOf x.toNat 14 && !s.refHolds c (refOf (s.getS c f.c)) (maskBytes a.n), some 3)]

/-- TOPK: n from 1 to 65,536, k from 1 to 64. -/
def execTopk (n : CoreId) (w x : W64) (s : State) : Ans :=
  .next (s.issue n w x (opRow 0x98) fun s c f =>
    let k := bitsOf x.toNat 22 16
    let list := bitOf x.toNat 13 && !s.refHolds c (refOf (s.getS c f.d)) (listBytes k)
    s.compute n c .select 4 w x f
      (s.elemChecks c f x 65536 ++ [(decide (k = 0 ∨ 64 < k), none), (list, some 0)]))

/-- Read an operand's elements with the element mask. Poison counts for the elements that the mask leaves in (R208, R209). -/
def Run.readElems (r : Run) (i : Issued) : List Elem × Run :=
  let t := bitsOf i.x.toNat 11 8
  let a := refOf i.ra
  let useMask := bitOf i.x.toNat 14
  let z := typeBytes t
  match r.readMany a.h a.off z a.n with
  | (l, q) =>
    let bad := (List.range a.n).map fun j => q.badByte a.h (a.off + z * j)
    match (if useMask then { q with bad := r.bad }.readNat (refOf i.rc).h (refOf i.rc).off (maskBytes a.n) else (0, { q with bad := r.bad })) with
    | (m, r) =>
      let met := ((bad.zipIdx).filter fun e => !useMask || bitOf m e.2).findSome? (·.1)
      (elems t (i.rb.toNat % 2 ^ 32) m useMask 0 (l.zip bad), { r with bad := r.bad.or met })

/-- NaNs met by an operation. -/
def nanCount (l : List Elem) : Nat := (l.filter fun e => decide (e = .nan)).length

/-- Counters of an operation over some elements. -/
def State.selCount (s : State) (n : CoreId) (l : List Elem) : State :=
  (s.bump SEL_STATUS.nan_total [n.val] (nanCount l)).bump SEL_PERF.count [n.val, 0] l.length

/-- The live list of a slot. -/
def State.setLive (s : State) (n : CoreId) (k : Fin 4) (q : Option Live) : State :=
  s.setCore n fun x => { x with lists := x.lists.set k q }

/-- Info of a poison exception of the selection unit: the poisoned line if one was met, else the list's handle (Table 11-5). -/
def listPoison (bad : Option Nat) (h : Nat) : Nat :=
  match bad with
  | some a => poisonInfo 4 a
  | none => 4 + 65536 * h

/-- Completion of topk (R211 to R213): a continuing instruction needs a live list of its k. -/
def State.doTopk (s : State) (n : CoreId) (i : Issued) : State :=
  let x := i.x.toNat
  let t := bitsOf x 11 8
  let k := bitsOf x 22 16
  let live : Option Live := if bitOf x 12 then some (.fresh t k) else s.cores[n].lists[i.slot]
  match live with
  | none =>
    match s.draw 8 with
    | (e, s) => s.retire n .select i false [(0x04, opInfo 4 e.toNat)]
  | some q =>
    if q.k ≠ k then
      match s.draw 8 with
      | (e, s) => s.retire n .select i false [(0x04, opInfo 4 e.toNat)]
    else
      match (s.runOf n i true).readElems i with
      | (l, r) =>
        let q := l.foldl Live.take { q with type := t }
        let q := { q with poison := q.poison || r.bad.isSome }
        let r := r.on fun s => (s.selCount n l).setLive n i.slot (some q)
        if bitOf x 13 then
          let d := refOf i.rd
          let r := (r.write d.h d.off (padLine (q.result 0 n.val))).markLines d.h ((taintLines q.entries q.taint).map (d.off + ·))
          let r := r.on fun s => if q.ties ≠ 0 then s.bump SEL_STATUS.tie_events [n.val] else s
          (r.closed .select i).s.retire n .select i true (if q.poison then [(0x05, listPoison r.bad d.h)] else [])
        else (r.closed .select i).s.retire n .select i true []

/-! ### Threshold compaction (R215) -/

/-- The threshold of a thr instruction. -/
def thrOf (x : Nat) : Nat := if bitsOf x 11 8 < 3 then bitsOf x 63 32 else bitsOf x 47 32

/-- THR: a NaN threshold, and bits [63:48] of a 16-bit one that are not zero, are invalid operands. -/
def execThr (n : CoreId) (w x : W64) (s : State) : Ans :=
  .next (s.issue n w x (opRow 0x99) fun s c f =>
    let t := bitsOf x.toNat 11 8
    let d := refOf (s.getS c f.d)
    s.compute n c .select 4 w x f
      (s.elemChecks c f x (2 ^ 32) ++
        [((typeVal t (thrOf x.toNat)).isNan, none), (decide (2 < t ∧ bitsOf x.toNat 63 48 ≠ 0), none),
          (decide (d.n = 0 ∨ 131072 < d.n) || !s.refHolds c d (listBytes d.n), some 0)]))

/-- Elements that pass a threshold, in input order. -/
def passing (t thr : Nat) (l : List Elem) : List (Nat × Nat) :=
  l.filterMap fun e =>
    match e with
    | .valid b i _ => if (typeVal t b).lt (typeVal t thr) then none else some (b, i)
    | _ => none

/-- The indices of the elements that carry poison. -/
def tainted (l : List Elem) : List Nat :=
  l.filterMap fun e =>
    match e with
    | .valid _ i true => some i
    | _ => none

/-- Valid elements. -/
def validCount (l : List Elem) : Nat :=
  (l.filter fun e =>
    match e with
    | .valid _ _ _ => true
    | _ => false).length

/-- Completion of thr: with append the header's kind and type must match. -/
def State.doThr (s : State) (n : CoreId) (i : Issued) : State :=
  let x := i.x.toNat
  let t := bitsOf x 11 8
  let d := refOf i.rd
  let cap := d.n
  let old := headerOf (s.peek n i.ctx d.h d.off 32)
  if bitOf x 12 && decide (old.kind ≠ 1 ∨ old.type ≠ t) then
    match s.draw 8 with
    | (e, s) => s.retire n .select i false [(0x04, opInfo 4 e.toNat)]
  else
    let r := s.runOf n i true
    match (if bitOf x 12 then r.read d.h d.off 32 else ([], r)) with
    | (hb, r) =>
      let h : Header := if bitOf x 12 then headerOf hb else ⟨1, t, 0, cap, 0, 0, 0, 0, n.val, 0⟩
      match r.readElems i with
      | (l, r) =>
        let p := passing t (thrOf x) l
        let room := cap - h.count
        let out := p.take room
        let lost := p.length - out.length
        let r := r.write d.h (d.off + 32 + 8 * h.count) (entryBytes t out.length out)
        let r := r.markLines d.h ((((out.zipIdx).filter fun e => (tainted l).contains e.1.2).map fun e => d.off + 32 + 8 * (h.count + e.2)).eraseDups)
        let poison := bitOf h.flags 3 || r.bad.isSome
        let over' := bitOf h.flags 2 || decide (lost ≠ 0)
        let h' : Header :=
          { h with flags := listFlags false false over' poison (bitOf h.flags 4), cap := cap, count := h.count + out.length
                   extra := h.extra + lost, nans := min (h.nans + nanCount l) 0xFFFFFFFF
                   seen := min (h.seen + validCount l) 0xFFFFFFFF, core := n.val }
        let r := r.write d.h d.off h'.bytes
        let r := r.on fun s =>
          let s := s.selCount n l
          if lost ≠ 0 then s.bump SEL_STATUS.overflow_events [n.val] else s
        (r.closed .select i).s.retire n .select i true (if poison then [(0x05, listPoison r.bad d.h)] else [])

/-! ### Collective merge (R217, R218, R220, R358) -/

/-- A list as the merge sees it: its header, its first `count` entries, and the indices of those that carry poison. -/
structure RList where
  hd    : Header
  es    : List (Nat × Nat)
  taint : List Nat
  deriving DecidableEq, Repr

/-- The entries in 8-byte pieces. -/
def entriesOf : Nat → List Byte → List (Nat × Nat)
  | 0, _ => []
  | k + 1, b => (natOfBytes (b.take 4), natOfBytes ((b.drop 4).take 4)) :: entriesOf k (b.drop 8)

/-- A list from its bytes; `bad` says which of its bytes lie in poisoned lines. -/
def rlistOf (b : List Byte) (bad : Nat → Bool) : RList :=
  let h := headerOf b
  let es := entriesOf (min h.count 64) (b.drop 32)
  ⟨h, es, ((es.zipIdx).filter fun e => bad (32 + 8 * e.2)).map (·.1.2)⟩

/-- The list that a merge under way holds. -/
def Climb.rlist (q : Climb) : RList := { rlistOf q.list fun _ => false with taint := q.taint }

/-- The list as bytes, in whole lines. -/
def RList.bytes (l : RList) : List Byte := padLine (l.hd.bytes ++ entryBytes l.hd.type l.hd.cap l.es)

/-- Insert by descending value and then ascending index. -/
def insertRanked (t : Nat) (e : Nat × Nat) : List (Nat × Nat) → List (Nat × Nat)
  | [] => [e]
  | a :: l =>
    let x := typeVal t a.1
    let y := typeVal t e.1
    if x.lt y || (x.eq y && decide (e.2 < a.2)) then e :: a :: l else a :: insertRanked t e l

/-- Keep the first occurrence of each index. -/
def dedup (seen : List Nat) : List (Nat × Nat) → List (Nat × Nat)
  | [] => []
  | e :: l => if seen.contains e.2 then dedup seen l else e :: dedup (e.2 :: seen) l

/-- A merge node combines its own list and a received one (R218). -/
def mergeLists (a b : RList) (core : Nat) : RList :=
  let t := a.hd.type
  let k := a.hd.cap
  let all := dedup [] ((a.es ++ b.es).foldl (fun l e => insertRanked t e l) [])
  let kept := all.take k
  let last := if kept.length = k then kept.getLast? else none
  let ties := match last with
    | none => 0
    | some e =>
      let same (x : Nat × Nat) : Bool := (typeVal t x.1).eq (typeVal t e.1)
      let part (l : RList) : Nat :=
        if l.es.length = k ∧ (match l.es.getLast? with
          | some x => same x
          | none => false) = true then l.hd.extra else 0
      ((all.drop k).filter same).length + part a + part b
  let flags := listFlags (decide (kept.length < k)) (decide (ties ≠ 0)) false
    (bitOf a.hd.flags 3 || bitOf b.hd.flags 3) (bitOf a.hd.flags 4 || bitOf b.hd.flags 4)
  ⟨⟨2, t, flags, k, kept.length, ties, min (a.hd.nans + b.hd.nans) 0xFFFFFFFF, min (a.hd.seen + b.hd.seen) 0xFFFFFFFF, core,
    max a.hd.level b.hd.level + 1⟩, kept, a.taint ++ b.taint⟩

/-- The participants in ascending core number. -/
def participants (mask : Nat) : List Nat := (List.range 32).filter fun k => bitOf mask k

/-- The ordinal of a core among the participants. -/
def ordinalOf (mask : Nat) (n : CoreId) : Nat := ((participants mask).filter fun k => decide (k < n.val)).length

/-- MERGE: the mask must name at least two cores and this one. What the list holds is judged when the merge starts, since an earlier
instruction of the class may still be writing it (R213, R344; assumption 118, DEDUCED). -/
def execMerge (n : CoreId) (w x : W64) (s : State) : Ans :=
  .next (s.issue n w x (opRow 0x9A) fun s c f =>
    let a := refOf (s.getS c f.a)
    let m := (s.getS c f.b).toNat % 2 ^ 32
    let d := refOf (s.getS c f.c)
    s.compute n c .select 4 w x f
      [(!s.refHolds c a (listBytes 1), some 1), (decide ((participants m).length < 2) || !bitOf m n.val, some 2),
        (decide (ordinalOf m n = 0) && !s.refHolds c d (listBytes 1), some 3)])

/-- The merge window of a merge instruction. -/
def mergeWin (i : Issued) : Fin 8 := Fin.ofNat 8 (bitsOf i.x.toNat 10 8)

/-- The participant mask of a merge. -/
def mergeMask (i : Issued) : Nat := i.rb.toNat % 2 ^ 32

/-- The levels of a merge of P participants: ceil(log2 P). -/
def mergeLevels (p : Nat) : Nat := if p ≤ 1 then 0 else Nat.log2 (p - 1) + 1

/-- The merge at the head of the selection class, with its climb. -/
def State.mergeHead (s : State) (n : CoreId) : Option (Issued × Climb) :=
  match s.headOf n .select, s.cores[n].climb with
  | some i, some q => if (fieldsOf i.w).op = 0x9A then some (i, q) else none
  | _, _ => none

/-- Replace the merge under way. -/
def State.setClimb (s : State) (n : CoreId) (q : Option Climb) : State := s.setCore n fun k => { k with climb := q }

/-- Set a flag in a list. -/
def RList.mark (l : RList) (bit : Nat) : RList :=
  if bitOf l.hd.flags bit then l else { l with hd := { l.hd with flags := l.hd.flags + 2 ^ bit } }

/-- What is wrong with a merge's own list, as the operand index: it must be of kind 0 or 2 and lie in its handle, and at the root the
destination must hold as many entries. -/
def State.mergeWrong (s : State) (n : CoreId) (i : Issued) (h : Header) : Option Nat :=
  if h.kind = 1 ∨ 2 < h.kind ∨ h.cap = 0 ∨ 64 < h.cap ∨ 4 < h.type ∨ s.refHolds i.ctx (refOf i.ra) (listBytes h.cap) = false then some 1
  else if ordinalOf (mergeMask i) n = 0 ∧ s.refHolds i.ctx (refOf i.rc) (listBytes h.cap) = false then some 3
  else none

/-- A merge starts: it reads its own list. One that is not in order takes no part. -/
def State.mergeStart (s : State) (n : CoreId) (i : Issued) : State :=
  let a := refOf i.ra
  let r := s.runOf n i true
  match r.read a.h a.off 32 with
  | (hb, r) =>
    if (s.mergeWrong n i (headerOf hb)).isSome then r.s.setClimb n none
    else
      match r.read a.h a.off (listBytes (headerOf hb).cap) with
      | (b, r) =>
        let l := rlistOf b fun o => (r.badByte a.h (a.off + o)).isSome
        let l := if r.bad.isSome then l.mark 3 else l
        let k := Fin.ofNat 64 (s.reg SPM_WIN.counter [n.val, (mergeWin i).val])
        r.s.setClimb n (some ⟨1, 0, s.clk.tclk, s.cycles n, false, false, none, l.bytes, l.taint, k,
          BitVec.ofNat 32 (s.reg SPM_ARRIVAL.count [n.val, k.val]), []⟩)

/-- Send a list to the core of a partner: each line is a remote write under R274, the last carries the last mark (R275); the lines of `bad` are
poisoned. -/
def State.sendLines (s : State) (n : CoreId) (c : CtxId) (a : Nat) (bad : List Nat) : List Byte → Nat → Option (Nat × Nat) × State
  | _, 0 => (none, s)
  | b, fuel + 1 =>
    if b = [] then (none, s)
    else
      let p := s.partOf (.ctx c)
      match s.deposit (.core n) p a ((b.take 32).map some) with
      | (some d, s) =>
        match s.sendLines n c (a + 32) bad (b.drop 32) fuel with
        | (_, s) => (some (denialExc d a), s)
      | (none, s) =>
        let s := if bad.contains a then s.setPoison (a / 32) else s
        (s.lastMark (decide (b.length ≤ 32)) a).sendLines n c (a + 32) bad (b.drop 32) fuel

/-- The next level: the wait for its partner counts from now. -/
def Climb.up (q : Climb) (s : State) (n : CoreId) (l : RList) : Climb :=
  { q with level := q.level + 1, sinceT := s.clk.tclk, sinceC := s.cycles n, list := l.bytes, taint := l.taint }

/-- When the window's arrival counter reached the number of lists that a merge waits for: none where it has not, and the start of the merge
where it had by then. -/
def Climb.arrivedAt (q : Climb) (i : Issued) : Option Nat :=
  let target := BitVec.ofNat 32 (i.rd.toNat + q.got + 1)
  if ctrMeets q.base target then some 0 else q.times[(target - q.base).toNat - 1]?

/-- The partner's list of a level has arrived in time: within merge_timeout_us of the arrival at the level (R220). -/
def State.mergeInTime (s : State) (n : CoreId) (i : Issued) (q : Climb) : Bool :=
  let us := s.reg SEL_CTRL.merge_timeout_us [n.val]
  match q.arrivedAt i with
  | some t => decide (us = 0 ∨ t < q.sinceT + 250 * us)
  | none => false

/-- A participant waits for a partner at its level. -/
def Climb.waits (q : Climb) (n : CoreId) (i : Issued) : Bool :=
  let ps := participants (mergeMask i)
  let o := ordinalOf (mergeMask i) n
  !q.sent && decide (q.level ≤ mergeLevels ps.length ∧ o % 2 ^ q.level = 0 ∧ o + 2 ^ (q.level - 1) < ps.length)

/-- The wait of a level has lasted merge_timeout_us: the participant goes up alone with INCOMPLETE set (R220). -/
def State.mergeAlone (s : State) (n : CoreId) (q : Climb) : State :=
  let s := (s.bump SEL_STATUS.merge_timeouts [n.val]).bump SEL_PERF.count [n.val, 3] (s.cycles n - q.sinceC)
  s.setClimb n (some (q.up s n (q.rlist.mark 4)))

/-- The time limit of a level has passed. -/
def State.mergeLate (s : State) (n : CoreId) (q : Climb) : Bool :=
  let us := s.reg SEL_CTRL.merge_timeout_us [n.val]
  decide (us ≠ 0 ∧ 250 * us ≤ s.clk.tclk - q.sinceT)

/-- A participant at a level: it sends its list up, or merges its partner's where it has arrived, or goes on alone where it has no partner
(R217, R218, R220, R358). -/
def State.mergeLevel (s : State) (n : CoreId) (i : Issued) (q : Climb) : State :=
  let ps := participants (mergeMask i)
  let o := ordinalOf (mergeMask i) n
  let j := q.level
  let own := q.rlist
  let lines := 1 + ceilDiv own.hd.cap 4
  if q.sent || decide (mergeLevels ps.length < j) then s
  else if o % 2 ^ j ≠ 0 then
    let m := ps.getD (o - 2 ^ (j - 1)) 0
    let a := spmAddr (Fin.ofNat 32 m) (bitsOf i.x.toNat 40 24 + (j - 1) * lines)
    match s.sendLines n i.ctx a ((taintLines own.es own.taint).map (a + ·)) q.list 64 with
    | (d, s) => s.setClimb n (some { q with sent := true, denied := d })
  else if ps.length ≤ o + 2 ^ (j - 1) then s.setClimb n (some (q.up s n own))
  else
    let w := mergeWin i
    if s.mergeInTime n i q then
      let a := spmAddr n ((s.winLines n w).1 + (j - 1) * lines)
      let s := s.settleRange a (32 * lines)
      let got := rlistOf (s.readBytes a (32 * lines)) fun o => s.poisonedIn (a + o / 32 * 32) 32
      let got := if s.poisonedIn a (32 * lines) then got.mark 3 else got
      let s := s.bump SEL_PERF.count [n.val, 3] (s.cycles n - q.sinceC)
      let s := s.bump SEL_PERF.count [n.val, 2]
      let q := { q with got := q.got + 1 }
      if got.hd.cap = own.hd.cap ∧ got.hd.type = own.hd.type then
        s.setClimb n (some (q.up s n (mergeLists own got n.val)))
      else s.setClimb n (some { (q.up s n (own.mark 4)) with wrong := true })
    else if s.mergeLate n q then s.mergeAlone n q
    else s

/-- MERGE_TIMEOUT (R220): the wait for a partner has lasted merge_timeout_us, and its list has not come by then. -/
def execMergeTimeout (dt : Nat) (n : CoreId) (s : State) : Ans :=
  let s := s.advance dt
  .next (match s.mergeHead n with
    | some (i, q) =>
      if q.waits n i && s.mergeLate n q && !s.mergeInTime n i q then s.mergeAlone n q else s
    | none => s)

/-- Completion of merge: a participant that has sent, or the root, which writes the final list of kind 2. -/
def State.doMerge (s : State) (n : CoreId) (i : Issued) (q : Climb) : State :=
  let ps := participants (mergeMask i)
  let l := q.rlist
  let index := (s.draw 8).1.toNat
  let s := (s.draw 8).2
  let exc : List (Nat × Nat) :=
    q.denied.toList ++ (if q.wrong then [(0x04, opInfo 4 index)] else []) ++
      (if bitOf l.hd.flags 3 then [(0x05, listPoison none (refOf i.ra).h)] else [])
  if q.sent then (s.setClimb n none).retire n .select i true exc
  else if mergeLevels ps.length < q.level then
    let d := refOf i.rc
    let fin : RList := { l with hd := { l.hd with kind := 2 } }
    let r := (((s.runOf n i true).note (refOf i.ra).h (refOf i.ra).off (listBytes l.hd.cap)).write d.h d.off fin.bytes).markLines d.h
      ((taintLines l.es l.taint).map (d.off + ·))
    let r := r.on fun s => if bitOf l.hd.flags 1 then s.bump SEL_STATUS.tie_events [n.val] else s
    ((r.closed .select i).s.setClimb n none).retire n .select i true exc
  else s

/-- The head of the selection class completes; a merge only once it has sent its list or reached the root. -/
def State.doSelect (s : State) (n : CoreId) (i : Issued) : State :=
  let t := s.bump SEL_PERF.count [n.val, 1] (s.cycles n - i.since)
  match (fieldsOf i.w).op with
  | 0x98 => t.doTopk n i
  | 0x99 => t.doThr n i
  | _ =>
    match s.cores[n].climb with
    | some q => if q.sent || decide (mergeLevels (participants (mergeMask i)).length < q.level) then t.doMerge n i q else s
    | none =>
      let h := headerOf (s.peek n i.ctx (refOf i.ra).h (refOf i.ra).off 32)
      t.retire n .select i false [(0x04, opInfo 4 ((s.mergeWrong n i h).getD 1))]

/-- MERGE_LEVEL (R217, R218). -/
def execMergeLevel (dt : Nat) (n : CoreId) (s : State) : Ans :=
  let s := s.advance dt
  .next (match s.mergeHead n with
    | some (i, q) => (s.mergeLevel n i q).foresee n .select fun s => s.doSelect n i
    | none => s)

/-- SELECTION_CLASS_COMPLETE (R342): the head of the selection class completes. -/
def execSelectionClassComplete (dt : Nat) (n : CoreId) (s : State) : Ans :=
  let s := s.advance dt
  .next (match s.headOf n .select with
    | none => s
    | some i => s.doSelect n i)

/-! ### Sort engine (R136, R222 to R224) -/

/-- Bytes of a key in a sort mode. -/
def keyBytes (mode : Nat) : Nat := if mode = 1 ∨ mode = 2 then 4 else 8

/-- SORT: n from 1 to 131,072, counted by the key reference; every array must hold n entries; in HIST mode c names the histogram and b and d
must name s0. -/
def execSort (n : CoreId) (w x : W64) (s : State) : Ans :=
  .next (s.issue n w x (opRow 0x9B) fun s c f =>
    let mode := f.fn % 4
    let z := keyBytes mode
    let a := refOf (s.getS c f.a)
    let holds (r : Ref) (k : Nat) : Bool := s.refHolds c r k
    let scratch (h k : Nat) : Bool := s.refHolds c ⟨0, 0, h⟩ k
    let keys : Check := (!s.refOk c a z || decide (131072 < a.n), some 1)
    let others : List Check :=
      if mode = 3 then
        [(decide (f.b.val ≠ 0), some 2), (decide (f.d.val ≠ 0), some 0), (!holds (refOf (s.getS c f.c)) 8192, some 3)]
      else
        [(!holds (refOf (s.getS c f.b)) (4 * a.n), some 2), (!holds (refOf (s.getS c f.c)) (z * a.n), some 3),
          (!holds (refOf (s.getS c f.d)) (4 * a.n), some 0), (!scratch (bitsOf x.toNat 15 8) (z * a.n), none),
          (!scratch (bitsOf x.toNat 23 16) (4 * a.n), none)]
    s.compute n c .sort 5 w x f (keys :: others))

/-- The value a key is sorted by, before desc (R224). -/
def mapKey (mode u : Nat) : Nat :=
  if mode = 2 then (if bitOf u 31 then 2 ^ 32 - 1 - u else u + 2 ^ 31) else u

/-- The value a key is sorted by. -/
def sortKey (mode : Nat) (desc : Bool) (u : Nat) : Nat :=
  let m := mapKey mode u
  if desc then 256 ^ keyBytes mode - 1 - m else m

/-- Insert behind every entry that does not sort after it, so that equal keys keep their order. -/
def insertSorted (e : Nat × Nat × Nat) : List (Nat × Nat × Nat) → List (Nat × Nat × Nat)
  | [] => [e]
  | a :: l => if e.1 < a.1 then e :: a :: l else a :: insertSorted e l

/-- A stable sort of (sort value, key, payload). -/
def sortEntries (l : List (Nat × Nat × Nat)) : List (Nat × Nat × Nat) := l.foldl (fun q e => insertSorted e q) []

/-- The digits 0 to 7 whose keys do not all share one value. -/
def liveDigits (l : List Nat) : List Nat :=
  (List.range 8).filter fun d =>
    match l with
    | [] => false
    | a :: r => r.any fun b => decide (a / 256 ^ d % 256 ≠ b / 256 ^ d % 256)

/-- The entries after the scatter passes of the digits below `d` (R136): sorted by those digits alone. -/
def passEntries (d : Nat) (l : List (Nat × Nat × Nat)) : List (Nat × Nat × Nat) :=
  sortEntries (l.map fun e => (e.1 % 256 ^ d, e.2))

/-- Counts of 8 digits of 256 values: digit d and value v at 256 d + v. -/
def histogram (l : List Nat) : List Nat :=
  (List.range 2048).map fun i => (l.filter fun u => decide (u / 256 ^ (i / 256) % 256 = i % 256)).length

/-- Completion of sort. Its last pass writes the destination and the pass before it the scratch arrays (R223); a sort of one pass leaves those. -/
def State.doSort (s : State) (n : CoreId) (i : Issued) : State :=
  let mode := (fieldsOf i.w).fn % 4
  let desc := bitOf (fieldsOf i.w).fn 2
  let a := refOf i.ra
  let z := keyBytes mode
  match (s.runOf n i false).readMany a.h a.off z a.n with
  | (keys, r) =>
    let done (r : Run) (q : Nat) : State :=
      let s := (r.closed .sort i).s.setReg SRT_STATUS.last_q [n.val] q
      let s := s.setReg SRT_STATUS.busy [n.val] 0
      let s := s.bump SRT_PERF.count [n.val, 0]
      let s := s.bump SRT_PERF.count [n.val, 1] (s.cycles n - i.since)
      let s := if mode = 3 then s else s.bump SRT_PERF.count [n.val, 2] (8 - q)
      s.retire n .sort i true (r.poison 5)
    if mode = 3 then
      let c := refOf i.rc
      done (r.writeMany c.h c.off 4 (histogram keys)) 0
    else
      let b := refOf i.rb
      match r.readMany b.h b.off 4 a.n with
      | (pay, r) =>
        let es := (keys.zip pay).map fun e => (sortKey mode desc e.1, e.1, e.2)
        let l := sortEntries es
        let digits := liveDigits (keys.map (mapKey mode))
        let before := passEntries (digits.getD (digits.length - 2) 0 + 1) es
        let r := if digits.length < 2 then r else
          (r.writeMany (bitsOf i.x.toNat 15 8) 0 z (before.map fun e => e.2.1)).writeMany (bitsOf i.x.toNat 23 16) 0 4 (before.map fun e => e.2.2)
        let r := r.writeMany (refOf i.rc).h (refOf i.rc).off z (l.map fun e => e.2.1)
        let r := r.writeMany (refOf i.rd).h (refOf i.rd).off 4 (l.map fun e => e.2.2)
        let nans := if mode = 2 then (keys.filter fun u => (fp32.read u).isNan).length else 0
        let r := r.on fun s => s.bump SRT_STATUS.nan_keys [n.val] nans
        done r digits.length

/-- SORT_COMPLETE (R136). -/
def execSortComplete (dt : Nat) (n : CoreId) (s : State) : Ans :=
  let s := s.advance dt
  .next (match s.headOf n .sort with
    | none => s
    | some i => s.doSort n i)

end Sys2Proof.Machine
end

