-- ==== Sys2Proof/Machine/Developer.lean ====
section
/-! DEFINITION. Machine/Developer.lean: stored weight matrices, their tiles and checks, unions, compacted sets and images (R173 to R183),
and the Developer's own instructions (R199, R353, R354). -/
namespace Sys2Proof.Machine
open Reg

/-! ### Stored matrices (Tables 7-1 to 7-5) -/

/-- Bits of a value by element code. -/
def elemBits (elem : Nat) : Nat := (numOf elem).width

/-- A stored matrix: where it lies and its header. -/
structure Mat where
  h    : Nat
  o    : Nat
  k    : Nat
  n    : Nat
  elem : Nat
  len  : Nat
  deriving DecidableEq, Repr

/-- The matrix at byte `o` of handle `h`, as it stands. -/
def State.matAt (s : State) (n : CoreId) (c : CtxId) (h o : Nat) : Mat :=
  let at' (k w : Nat) : Nat := s.peekNat n c h (o + k) w
  ⟨h, o, at' 0 2, at' 2 2, at' 4 1, at' 8 4⟩

/-- The matrix lies within its handle. -/
def State.matHolds (s : State) (c : CtxId) (m : Mat) : Bool := s.refHolds c ⟨0, 0, m.h⟩ (m.o + max m.len 32)

/-- A decoded tile: its place, its entries in value order as (k, c, value), whether it is dense, whether it was poisoned, and what its
header and union cost (Table 7-7). -/
structure Tile where
  kt    : Nat
  nt    : Nat
  es    : List (Nat × Nat × Nat)
  dense : Bool
  bad   : Bool
  cost  : Nat
  deriving DecidableEq, Repr

/-- A value of `eb` bits in a byte string. -/
def valueAt (b : List Byte) (o eb j : Nat) : Nat :=
  let bit := j * eb
  natOfBytes ((b.drop (o + bit / 8)).take ((eb + 7) / 8)) / 2 ^ (bit % 8) % 2 ^ eb

/-- Round up to a multiple of 8. -/
def up8 (n : Nat) : Nat := 8 * ceilDiv n 8

/-- A 4-bit run field of a stream. -/
def fieldAt (b : List Byte) (o j : Nat) : Nat := valueAt b o 4 j

/-- The rows of one RLZ4 column from field `j` on (R177): the rows, the next field, the escapes; none where a run passes row 127. -/
def rlzColumn (b : List Byte) (o : Nat) : Nat → Nat → Nat → Nat → Nat → Option (List Nat × Nat × Nat)
  | 0, _, _, _, _ => none
  | _ + 1, 0, _, j, esc => some ([], j, esc)
  | fuel + 1, count + 1, pos, j, esc =>
    let f := fieldAt b o j
    if f = 15 then rlzColumn b o fuel (count + 1) (pos + 15) (j + 1) (esc + 1)
    else if 127 < pos + f then none
    else
      match rlzColumn b o fuel count (pos + f + 1) (j + 1) esc with
      | some (l, j, e) => some ((pos + f) :: l, j, e)
      | none => none

/-- The columns of an RLZ4 tile from column `c` on. -/
def rlzColumns (b : List Byte) (o : Nat) (counts : List Nat) (c j esc : Nat) : Option (List (Nat × Nat) × Nat) :=
  match counts with
  | [] => some ([], esc)
  | n :: l =>
    match rlzColumn b o 400 n 0 j 0 with
    | none => none
    | some (rows, j, e) =>
      match rlzColumns b o l (c + 1) j (esc + e) with
      | none => none
      | some (t, esc) => some (rows.map (fun k => (k, c)) ++ t, esc)

/-- The positions of a tile's entries in value order, the byte of its values, and the size of R179; or the cause of a failure. -/
def tileShape (b : List Byte) (fmt eb n : Nat) : Nat ⊕ (List (Nat × Nat) × Nat × Nat × Nat) :=
  if fmt = 0 then
    .inr ((List.range 8).flatMap (fun c => (List.range 128).map fun k => (k, c)), 8, 8 + 128 * eb, 0)
  else if fmt = 1 then
    let counts := (List.range 8).map fun c => natOfBytes ((b.drop (8 + c)).take 1)
    if counts.sum ≠ n ∨ counts.any (fun x => decide (128 < x)) = true then .inl 3
    else
      match rlzColumns b 16 counts 0 0 0 with
      | none => .inl 3
      | some (l, esc) =>
        let v := 16 + ceilDiv (n + esc) 2
        .inr (l, v, v + ceilDiv (n * eb) 8, ceilDiv (n + esc) 8)
  else
    let l := (List.range 8).flatMap fun c =>
      ((List.range 128).filter fun k => bitOf (natOfBytes ((b.drop (8 + 16 * c + k / 8)).take 1)) (k % 8)).map fun k => (k, c)
    if l.length ≠ n then .inl 3 else .inr (l, 136, 136 + ceilDiv (n * eb) 8, 16)

/-- Decode the tile at the front of `b`, which holds what the matrix has from there on (R174 to R178); with its length. -/
def decodeTile (m : Mat) (b : List Byte) (kt nt : Nat) : TileErr ⊕ (Tile × Nat) :=
  let byte (o k : Nat) : Nat := natOfBytes ((b.drop o).take k)
  let err (c : Nat) : TileErr ⊕ (Tile × Nat) := .inl ⟨c, kt, nt⟩
  if b.length < 8 then err 6
  else
    let fmt := byte 0 1 % 16
    let elem := byte 0 1 / 16
    let n := byte 2 2
    let len := byte 4 2
    if 2 < fmt ∨ 5 < elem then err 1
    else if elem ≠ m.elem then err 2
    else
      let eb := elemBits elem
      match tileShape b fmt eb n with
      | .inl c => err c
      | .inr (ps, v, size, cost) =>
        if len ≠ up8 size then err 4
        else if fmt ≠ 0 ∧ (ps.any fun p => decide (m.k ≤ 128 * kt + p.1 ∨ m.n ≤ 8 * nt + p.2)) = true then err 5
        else if b.length < len then err 6
        else
          let es := (ps.zipIdx).map fun e => (e.1.1, e.1.2, valueAt b v eb e.2)
          .inr (⟨kt, nt, es, decide (fmt = 0), false, 4 + cost⟩, len)

/-- Some line of a byte range of a handle is poisoned. -/
def Run.rangeBad (r : Run) (h o k : Nat) : Bool :=
  (List.range (k / 32 + 2)).any fun j =>
    let p := o / 32 * 32 + 32 * j
    decide (p < o + k) &&
      match rawAddr r.n (r.handle h) p with
      | some a => r.s.poisonedIn a 32
      | none => false

/-- The tiles of a tile column from tile row `kt` on, up to the first that fails; the whole matrix's bytes are `b`. -/
def Run.column (r : Run) (m : Mat) (b : List Byte) (nt kt o : Nat) : Nat → List Tile × Option TileErr
  | 0 => ([], none)
  | fuel + 1 =>
    if m.len ≤ o then ([], some ⟨6, kt, nt⟩)
    else
      match decodeTile m (b.drop o) kt nt with
      | .inl e => ([], some e)
      | .inr (t, len) =>
        let t := { t with bad := r.rangeBad m.h (m.o + o) len }
        match r.column m b nt (kt + 1) (o + len) fuel with
        | (l, e) => (t :: l, e)

/-- Tile rows and tile columns of a matrix. -/
def Mat.rows (m : Mat) : Nat := ceilDiv m.k 128
/-- Tile columns. -/
def Mat.cols (m : Mat) : Nat := ceilDiv m.n 8

/-- The tiles of tile column `nt`, up to the first that fails. -/
def Run.tileColumn (r : Run) (m : Mat) (b : List Byte) (nt : Nat) : List Tile × Option TileErr :=
  r.column m b nt 0 (natOfBytes ((b.drop (32 + 4 * nt)).take 4)) m.rows

/-- The earlier of two failures in the order in which a group's tiles are decoded: by tile row, then by tile column (R182). -/
def earlier : Option TileErr → Option TileErr → Option TileErr
  | some a, some b => if b.kt < a.kt then some b else some a
  | a, b => a.or b

/-- The tiles of a group's columns, decoded tile row by tile row up to the first that fails; and the failure. -/
def Run.columns (r : Run) (m : Mat) (b : List Byte) (cols : List Nat) : List Tile × Option TileErr :=
  let l := cols.map fun nt => r.tileColumn m b nt
  let e := l.foldl (fun e c => earlier e c.2) none
  let ts := l.flatMap (·.1)
  (match e with
    | some e => ts.filter fun t => decide (t.kt < e.kt)
    | none => ts, e)

/-- The bytes of a matrix. -/
def Run.matBytes (r : Run) (m : Mat) : List Byte × Run := r.read m.h m.o m.len

/-- The first failure since err was cleared is recorded (R178). -/
def State.tileFailed (s : State) (n : CoreId) (e : TileErr) : State :=
  if s.bit DVL_STATUS.err [n.val] then s
  else
    let s := s.setReg DVL_STATUS.err [n.val] 1
    let s := s.setReg DVL_STATUS.err_cause [n.val] e.cause
    let s := s.setReg DVL_STATUS.err_kt [n.val] e.kt
    s.setReg DVL_STATUS.err_group [n.val] e.nt

/-! ### Unions and sets (R181, R182) -/

/-- The tile columns of group `g` of `w` outputs. -/
def groupCols (m : Mat) (w g : Nat) : List Nat :=
  ((List.range (w / 8)).map fun i => g * (w / 8) + i).filter fun nt => decide (nt < m.cols)

/-- The union of a group's tiles: rows below K at which some tile has an entry. -/
def unionOf (k : Nat) (m : Mat) (ts : List Tile) (cols : List Nat) : List Nat :=
  (List.range (min k m.k)).filter fun r =>
    ts.any fun t => decide (t.kt = r / 128) && cols.contains t.nt && (t.dense || t.es.any fun e => decide (e.1 = r % 128))

/-- The sets of R182: `set` is the set being filled, newest channel first, `first` its first tile row. -/
def setsFrom (cap : Nat) (set : List Nat) (first : Nat) : List Nat → List (List Nat)
  | [] => if set = [] then [] else [set.reverse]
  | k :: l =>
    let kt := k / 128
    if set = [] then setsFrom cap [k] kt l
    else if cap ≤ set.length ∨ 8 ≤ kt - first then set.reverse :: setsFrom cap [k] kt l
    else setsFrom cap (k :: set) first l

/-- The full sets of an instruction in row layout: every k < K of each tile row. -/
def fullSets (k : Nat) : List (List Nat) :=
  (List.range (ceilDiv k 128)).map fun t => (List.range (min 128 (k - 128 * t))).map fun i => 128 * t + i

/-- The value of entry (k, n), if it is an entry. -/
def weightAt (ts : List Tile) (k n : Nat) : Option Nat :=
  match ts.find? fun t => decide (t.kt = k / 128 ∧ t.nt = n / 8) with
  | none => none
  | some t => (t.es.find? fun e => decide (e.1 = k % 128 ∧ e.2.1 = n % 8)).map (·.2.2)

/-- A set draws from a poisoned tile. -/
def setBad (ts : List Tile) (cols set : List Nat) : Bool :=
  ts.any fun t => t.bad && cols.contains t.nt && set.any fun k => decide (k / 128 = t.kt)

/-! ### Images (R147, R183) -/

/-- How weights stand in an image (Table 6-2): W8, W4, W4A4, W16. -/
inductive WKind where
  | w8 | w4 | w4a4 | w16
  deriving DecidableEq, Repr

/-- The lowest bit and the width of the weight of position `i`, column `n` in an image. -/
def imageBit (k : WKind) (i n : Nat) : Nat × Nat :=
  match k with
  | .w8 => (8 * (64 * (i / 4) + 8 * n + i % 4), 8)
  | .w4 => (8 * (64 * (i / 4) + 8 * (n / 2) + i % 4) + 4 * (n % 2), 4)
  | .w4a4 => (8 * (64 * (i / 8) + 8 * (n / 2) + i % 8) + 4 * (n % 2), 4)
  | .w16 => (8 * (64 * (i / 4) + 8 * n + 2 * (i % 4)), 16)

/-- The image of a set over the outputs from `n0` on: +0 where no entry is; positions beyond the set hold zero. -/
def imageOf (k : WKind) (w : Nat) (val : Nat → Nat → Nat) (n0 : Nat) (set : List Nat) : BitVec 16384 :=
  BitVec.ofNat 16384 (((set.zipIdx).flatMap fun e => (List.range w).map fun j =>
    val e.1 (n0 + j) % 2 ^ (imageBit k e.2 j).2 * 2 ^ (imageBit k e.2 j).1).sum)

/-- The weight of position `i`, column `n` of an image. -/
def imageAt (k : WKind) (img : BitVec 16384) (i n : Nat) : Nat :=
  img.toNat / 2 ^ (imageBit k i n).1 % 2 ^ (imageBit k i n).2

/-! ### dun and dint (R353, R354) -/

/-- The groups of a matrix by its element code: pairs of tile columns in W4 (R181). -/
def groupWidth (elem : Nat) : Nat := if elem = 3 then 16 else 8

/-- DUN: the matrix and its elem, the group, the extent of the output, whose n is a capacity and may be 0 (R341). -/
def execDun (n : CoreId) (w x : W64) (s : State) : Ans :=
  .next (s.issue n w x (opRow 0x88) fun s c f =>
    let a := refOf (s.getS c f.a)
    let m := s.matAt n c a.h a.off
    let o := refOf (s.getS c f.c)
    let g := (s.getS c f.b).toNat
    let t := s.compute n c .array 2 w x f
      [(!s.matHolds c m, some 1), (decide (ceilDiv m.n (groupWidth m.elem) ≤ g), some 2), (!s.refHolds c o (2 * o.n), some 3)]
    if ctxGoesOn s t c then t.pendS c f.d else t)

/-- Completion of dun: a malformed tile raises invalid operand (R178). -/
def State.doDun (s : State) (n : CoreId) (i : Issued) : State :=
  let a := refOf i.ra
  let o := refOf i.rc
  let m := s.matAt n i.ctx a.h a.off
  match (s.runOf n i true).matBytes m with
  | (b, r) =>
    let cols := groupCols m (groupWidth m.elem) i.rb.toNat
    match r.columns m b cols with
    | (_, some e) =>
      match (((r.on fun s => s.tileFailed n e).closed .array i).s).draw 8 with
      | (q, s) => s.retire n .array i false ((0x04, opInfo 2 q.toNat) :: r.poison 2)
    | (ts, none) =>
      let u := unionOf m.k m ts cols
      let r := r.writeMany o.h o.off 2 (u.take o.n)
      let r := r.on fun s => (s.putS i.ctx (fieldsOf i.w).d (BitVec.ofNat 64 u.length)).bump DVL_PERF.count [n.val, 0] ((ts.map Tile.cost).sum)
      (r.closed .array i).s.retire n .array i true (r.poison 2)

/-- DINT. -/
def execDint (n : CoreId) (w x : W64) (s : State) : Ans :=
  .next (s.issue n w x (opRow 0x89) fun s c f =>
    let t := s.compute n c .array 2 w x f
      [(!s.refOk c (refOf (s.getS c f.a)) 8, some 1), (!s.refOk c (refOf (s.getS c f.b)) 8, some 2)]
    if ctxGoesOn s t c then t.pendS c f.d else t)

/-- The pairs of values with equal indices of two ascending lists of (index, value) entries packed in 64 bits. -/
def matches' : Nat → List Nat → List Nat → List (Nat × Nat)
  | 0, _, _ => []
  | _, [], _ => []
  | _, _, [] => []
  | fuel + 1, a :: as, b :: bs =>
    let i := a % 2 ^ 32
    let j := b % 2 ^ 32
    if i = j then (a / 2 ^ 32, b / 2 ^ 32) :: matches' fuel as bs
    else if i < j then matches' fuel as (b :: bs)
    else matches' fuel (a :: as) bs

/-- The indices of a list ascend strictly. -/
def ascending : List Nat → Bool
  | a :: b :: l => decide (a % 2 ^ 32 < b % 2 ^ 32) && ascending (b :: l)
  | _ => true

/-- Events of accumulation, for ACC_STATUS: saturated integer adds, overflows to infinity, entries made NaN, conversions. -/
structure Tally where
  sat : Nat
  inf : Nat
  nan : Nat
  cvt : Nat
  deriving DecidableEq, Repr

/-- No events. -/
def Tally.zero : Tally := ⟨0, 0, 0, 0⟩

/-- Both. -/
def Tally.plus (a b : Tally) : Tally := ⟨a.sat + b.sat, a.inf + b.inf, a.nan + b.nan, a.cvt + b.cvt⟩

/-- Round once to FP32, counting an overflow (R166); integers are exact. -/
def roundSum (int : Bool) (v : Val) : Val × Tally :=
  if int then (v, .zero)
  else
    match fp32.put v with
    | (b, big) => (fp32.read b, if big then { Tally.zero with inf := 1 } else .zero)

/-- An accumulator add: INT32 saturates (R165), FP32 rounds once and may become NaN (R166, R167). -/
def accAdd (int : Bool) (a b : Val) : Val × Tally :=
  if int then
    let v := a.add b
    match v.toInt with
    | some i =>
      let j := clampInt (-(2 ^ 31)) (2 ^ 31 - 1) i
      (Val.ofInt j, if i = j then .zero else { Tally.zero with sat := 1 })
    | none => (v, .zero)
  else
    match roundSum false (a.add b) with
    | (v, t) => (v, if v.isNan && !a.isNan then { t with nan := t.nan + 1 } else t)

/-- ACC_STATUS counts events. -/
def State.tallyAcc (s : State) (n : CoreId) (t : Tally) : State :=
  let s := s.bump ACC_STATUS.int_sat [n.val] t.sat
  let s := s.bump ACC_STATUS.fp_inf [n.val] t.inf
  let s := s.bump ACC_STATUS.nan [n.val] t.nan
  s.bump ACC_STATUS.cvt_sat [n.val] t.cvt

/-- Products added in order: an exact product, one add each. -/
def dotPairs (int : Bool) (g : Num) : List (Nat × Nat) → Val → Val × Tally
  | [], v => (v, .zero)
  | e :: l, v =>
    let p := (g.read e.1).mul (g.read e.2)
    match accAdd int v p with
    | (v, t) =>
      match dotPairs int g l v with
      | (v, u) => (v, t.plus u)

/-- Completion of dint: where a list does not ascend, s[d] is undefined. -/
def State.doDint (s : State) (n : CoreId) (i : Issued) : State :=
  let a := refOf i.ra
  let b := refOf i.rb
  let f := fieldsOf i.w
  let int := decide (f.fn = 0)
  match (s.runOf n i false).readMany a.h a.off 8 a.n with
  | (la, r) =>
    match r.readMany b.h b.off 8 b.n with
    | (lb, r) =>
      let ps := matches' (la.length + lb.length) la lb
      match dotPairs int (if int then .int 32 else .flt fp32) ps (Val.num false 0 1) with
      | (v, t) =>
        let x : W64 := if int then BitVec.ofInt 64 (v.toInt.getD 0) else BitVec.ofNat 64 (fp32.write v)
        let r := r.on fun s =>
          let s := (s.tallyAcc n t).bump DVL_PERF.count [n.val, 5] ps.length
          if ascending la && ascending lb then s.putS i.ctx f.d x else s.pendS i.ctx f.d
        (r.closed .array i).s.retire n .array i true (r.poison 2)

end Sys2Proof.Machine
end

