-- ==== Sys2Proof/Machine/Grid.lean ====
section
/-! DEFINITION. Machine/Grid.lean: sparse grids: tables, statistics, aging, halos, ordering, kernel maps, ball queries and sampling
(R120 to R141, R355 to R357, Table 13-3). -/
namespace Sys2Proof.Machine
open Reg

/-! ### Descriptors (Table 5-2) -/

/-- A grid descriptor: the handle and byte it lies at, its handles, and its program-written fields. -/
structure Desc where
  h     : Nat
  o     : Nat
  th    : Nat
  sh    : Nat
  rh    : Nat
  b     : Nat
  level : Nat
  mode  : Nat
  keep  : Nat
  rank  : Nat
  band  : Nat
  s0    : Nat
  s1    : Nat
  cap   : Nat
  deriving DecidableEq, Repr

/-- Bytes of one cell's statistics: one record, or four in stack mode (R129). -/
def Desc.recs (g : Desc) : Nat := if g.mode = 0 then 1 else 4

/-- Buckets. -/
def Desc.buckets (g : Desc) : Nat := 2 ^ g.b

/-- The descriptor at byte `o` of handle `h`, if it passes the checks of R123. -/
def State.desc (s : State) (n : CoreId) (c : CtxId) (h o : Nat) : Option Desc :=
  let at' (k w : Nat) : Nat := s.peekNat n c h (o + k) w
  let b := at' 3 1
  let mode := at' 5 1
  let th := at' 0 1
  let sh := at' 1 1
  let rh := at' 2 1
  let size (q : Nat) : Nat := hBytes (s.handle c q)
  let cap := min (4 * 2 ^ b) (size sh / 32)
  let live := [h, th, sh, rh].all fun q => hValid (s.handle c q)
  if live ∧ o + 64 ≤ size h ∧ 6 ≤ b ∧ b ≤ 14 ∧ at' 4 1 ≤ 3 ∧ mode ≤ 1 ∧ 1 ≤ at' 6 1 ∧ at' 6 1 ≤ 8 ∧ 96 * 2 ^ b ≤ size th ∧
      4 * cap ≤ size rh then
    some ⟨h, o, th, sh, rh, b, at' 4 1, mode, at' 6 1, at' 7 1, at' 8 2, at' 10 2, at' 12 2, cap⟩
  else none

/-- The descriptor a reference names. -/
def State.descRef (s : State) (n : CoreId) (c : CtxId) (v : W64) : Option Desc := s.desc n c (refOf v).h (refOf v).off

/-- The check of a descriptor operand with the operand index of its register field. -/
def State.descCheck (s : State) (n : CoreId) (c : CtxId) (v : W64) (index : Nat) : Check :=
  ((s.descRef n c v).isNone, some index)

/-! ### Tables (R124 to R127) -/

/-- The byte range of a table's handle. -/
def Run.tableSpan (r : Run) (g : Desc) : Nat × Nat :=
  let h := r.handle g.th
  (spmAddr r.n (hBase h), 32 * hLines h)

/-- A table not cleared since something else wrote it holds undefined contents (R124). -/
def Run.settleTable (r : Run) (g : Desc) : Run :=
  let t := r.tableSpan g
  if r.s.clean.contains t then r
  else
    r.on fun s =>
      (s.flushBuf (.spm r.n) fun e => decide (t.1 ≤ 32 * e.line ∧ 32 * e.line < t.1 + t.2)).blur t.1 t.2

/-- A grid operation writes its own table, which stays as clean as it was. -/
def Run.tableWrite (r : Run) (g : Desc) (o : Nat) (bs : List Byte) : Run :=
  let keep := r.s.clean
  (r.write g.th o bs).on fun s => { s with clean := keep }

/-- Read a 4-byte counter of the descriptor. -/
def Run.dcount (r : Run) (g : Desc) (k : Nat) : Nat × Run := r.readNat g.h (g.o + k) 4

/-- Set a 4-byte counter of the descriptor. -/
def Run.setDcount (r : Run) (g : Desc) (k v : Nat) : Run := r.writeNat g.h (g.o + k) 4 v

/-- A counter of the descriptor and of VOX_CNT counts one event (R127, R144). -/
def Run.tally (r : Run) (g : Desc) (k : Nat) (f : Fld) : Run :=
  match r.dcount g k with
  | (v, r) => (r.setDcount g k (min (v + 1) 0xFFFFFFFF)).on fun s => s.bump f [g.level]

/-- The empty marker. -/
def emptyKey : Nat := 2 ^ 64 - 1

/-- The home bucket of a key (R125). -/
def homeOf (seed b key : Nat) : Nat :=
  ((key ^^^ seed) * 0x9E3779B97F4A7C15) % 2 ^ 64 / 2 ^ (64 - b)

/-- The hash seed in force. -/
def State.seed (s : State) : Nat := csrGet s.proc VOX_SEED.hash_seed []

/-- What a search ends with: the byte of the slot's value, and whether the cell is new; or nothing. -/
abbrev Slot := Option (Nat × Bool)

/-- Zero every statistics record of an id (R126). -/
def Run.zeroStats (r : Run) (g : Desc) (id : Nat) : Run :=
  r.write g.sh (32 * g.recs * id) (List.replicate (32 * g.recs) 0)

/-- A new cell in an empty slot, if the grid has room (R126). -/
def Run.newCell (r : Run) (g : Desc) (key ko vo : Nat) : Slot × Run :=
  match r.dcount g 16 with
  | (cells, r) =>
    if g.cap ≤ cells then (none, r.tally g 24 VOX_CNT.fail_full)
    else
      let r := r.tableWrite g ko (bytesOf 8 key)
      let r := r.tableWrite g vo (bytesOf 4 cells)
      (some (vo, true), (r.zeroStats g cells).setDcount g 16 (cells + 1))

/-- The search of R126 from its `64 - fuel`-th slot. -/
def Run.probe (r : Run) (g : Desc) (key : Nat) (ins : Bool) : Nat → Slot × Run
  | 0 => if ins then (none, r.tally g 20 VOX_CNT.fail_probe) else (none, r)
  | fuel + 1 =>
    let i := 63 - fuel
    let j := (homeOf r.s.seed g.b key + i / 8) % g.buckets
    let ko := 96 * j + 8 * (i % 8)
    let vo := 96 * j + 64 + 4 * (i % 8)
    match r.readNat g.th ko 8 with
    | (k, r) =>
      if k = key then (some (vo, false), r)
      else if k = emptyKey then (if ins then r.newCell g key ko vo else (none, r))
      else r.probe g key ins fuel

/-- Look a key up, or insert it. -/
def Run.find (r : Run) (g : Desc) (key : Nat) (ins : Bool) : Slot × Run := r.probe g key ins 64

/-- The occupied slots of a bucket from slot `8 - fuel`: (key, byte of the value). -/
def Run.bucketSlots (r : Run) (g : Desc) (j : Nat) : Nat → List (Nat × Nat) × Run
  | 0 => ([], r)
  | fuel + 1 =>
    let i := 7 - fuel
    match r.readNat g.th (96 * j + 8 * i) 8 with
    | (k, r) =>
      match r.bucketSlots g j fuel with
      | (l, r) => (if k = emptyKey then l else (k, 96 * j + 64 + 4 * i) :: l, r)

/-- The occupied slots of the last `fuel` buckets in ascending bucket and slot order. -/
def Run.slotsFrom (r : Run) (g : Desc) : Nat → List (Nat × Nat) × Run
  | 0 => ([], r)
  | fuel + 1 =>
    match r.bucketSlots g (g.buckets - 1 - fuel) 8 with
    | (a, r) =>
      match r.slotsFrom g fuel with
      | (b, r) => (a ++ b, r)

/-- The occupied slots of a table. -/
def Run.slots (r : Run) (g : Desc) : List (Nat × Nat) × Run := r.slotsFrom g g.buckets

/-- A cleared table: every key empty, every value zero, cells and counters 0 (R124). -/
def Run.clear (r : Run) (g : Desc) : Run :=
  let bucket : List Byte := List.replicate 64 0xFF ++ List.replicate 32 0
  let r := r.write g.th 0 ((List.range g.buckets).flatMap fun _ => bucket)
  let r := r.write g.h (g.o + 16) (List.replicate 24 0)
  let t := r.tableSpan g
  r.on fun s => { s with clean := t :: s.clean.filter fun q => decide (q ≠ t) }

/-! ### Statistics (R129, R130) -/

/-- Bits [hi:lo] of a number replaced by a value. -/
def putBits (v hi lo x : Nat) : Nat :=
  let w := 2 ^ (hi + 1 - lo)
  v / (2 ^ lo * w) * (2 ^ lo * w) + x % w * 2 ^ lo + v % 2 ^ lo

/-- A point as it is accumulated: offsets in its cell, intensity, toff, sensor, element index. -/
structure Pt where
  dx     : Nat
  dy     : Nat
  dz     : Nat
  int    : Nat
  toff   : Nat
  sensor : Nat
  index  : Nat
  deriving DecidableEq, Repr

/-- A statistics record (Table 5-4, 256 bits) with a point accumulated and mask bit `bit` set; false where it is saturated. -/
def accumulate (v : Nat) (p : Pt) (bit : Nat) : Nat × Bool :=
  let count := bitsOf v 15 0
  let v := putBits v 31 24 (bitsOf v 31 24 ||| 2 ^ bit)
  let v := putBits v 223 208 (bitsOf v 223 208 ||| 2 ^ p.sensor)
  if count = 65535 then (v, false)
  else
    let first := decide (count = 0)
    let v := putBits v 15 0 (count + 1)
    let v := putBits v 23 16 (max (bitsOf v 23 16) p.int)
    let v := putBits v 63 32 (bitsOf v 63 32 + p.dx)
    let v := putBits v 95 64 (bitsOf v 95 64 + p.dy)
    let v := putBits v 127 96 (bitsOf v 127 96 + p.dz)
    let v := putBits v 159 128 (bitsOf v 159 128 + p.int)
    let v := putBits v 175 160 (max (bitsOf v 175 160) p.dz)
    let v := putBits v 191 176 (if first then p.toff else min (bitsOf v 191 176) p.toff)
    let v := putBits v 207 192 (if first then p.toff else max (bitsOf v 207 192) p.toff)
    (if first then putBits v 255 224 p.index else v, true)

/-- Two records merged (R134): first_index is kept, unless the first holds no point. -/
def mergeStats (a b : Nat) : Nat :=
  let sum (hi lo : Nat) (v : Nat) : Nat := putBits v hi lo (bitsOf a hi lo + bitsOf b hi lo)
  let orr (hi lo : Nat) (v : Nat) : Nat := putBits v hi lo (bitsOf a hi lo ||| bitsOf b hi lo)
  let big (hi lo : Nat) (v : Nat) : Nat := putBits v hi lo (max (bitsOf a hi lo) (bitsOf b hi lo))
  let none' := decide (bitsOf a 15 0 = 0)
  let small := if none' then bitsOf b 191 176 else if bitsOf b 15 0 = 0 then bitsOf a 191 176 else min (bitsOf a 191 176) (bitsOf b 191 176)
  let v := sum 127 96 (sum 95 64 (sum 63 32 (sum 15 0 a)))
  let v := big 207 192 (big 175 160 (big 23 16 (sum 159 128 v)))
  orr 223 208 (orr 31 24 (putBits v 191 176 small))

/-- The record of an id and age. -/
def Run.stat (r : Run) (g : Desc) (id age : Nat) : Nat × Run := r.readNat g.sh (32 * (g.recs * id + age)) 32

/-- Write the record of an id and age. -/
def Run.setStat (r : Run) (g : Desc) (id age v : Nat) : Run := r.writeNat g.sh (32 * (g.recs * id + age)) 32 v

/-- The statistics records of a cell. -/
def Run.stats (r : Run) (g : Desc) (id : Nat) : List Nat × Run := r.readMany g.sh (32 * g.recs * id) 32 g.recs

/-- Write the statistics records of a cell. -/
def Run.setStats (r : Run) (g : Desc) (id : Nat) (l : List Nat) : Run := r.writeMany g.sh (32 * g.recs * id) 32 l

/-- A slot's value. -/
def Run.value (r : Run) (g : Desc) (vo : Nat) : Nat × Run := r.readNat g.th vo 4

/-- Set a slot's value. -/
def Run.setValue (r : Run) (g : Desc) (vo v : Nat) : Run := r.tableWrite g vo (bytesOf 4 v)

/-! ### Geometry (R120 to R122) -/

/-- Level `l` is enabled. -/
def State.levelOn (s : State) (l : Nat) : Bool := decide (csrGet s.proc VOX_LEVEL.en [l] = 1)

/-- sh of level `l`. -/
def State.sh (s : State) (l : Nat) : Nat := csrGet s.proc VOX_LEVEL.sh [l]

/-- edge0. -/
def State.edge (s : State) : Nat := csrGet s.proc VOX_GEOM.edge0 []

/-- The origin on axis 0, 1, 2. -/
def State.org (s : State) (axis : Nat) : Int :=
  signedOf 32 (csrGet s.proc (if axis = 0 then VOX_ORIGIN.org_x else if axis = 1 then VOX_ORIGIN.org_y else VOX_ORIGIN.org_z) [])

/-- The level-0 index of a coordinate (R121). -/
def State.index0 (s : State) (axis : Nat) (a : Int) : Int := (a - s.org axis) / (s.edge : Int)

/-- An index lies in the grid. -/
def inGrid (i : Int) : Bool := decide (0 ≤ i ∧ i < 1048576)

/-- The cell key (Table 5-1). -/
def cellKey (level ix iy iz : Nat) : Nat := level * 2 ^ 60 + iz * 2 ^ 40 + iy * 2 ^ 20 + ix

/-- The corner of a level-l cell on an axis. -/
def State.corner (s : State) (axis l i : Nat) : Int := s.org axis + (i * 2 ^ s.sh l * s.edge : Nat)

/-! ### Clear, insert, lookup (R124, R126, R130) -/

/-- The head of the grid class runs an operation. -/
def Run.done (r : Run) (i : Issued) : State := (r.closed .grid i).s.retire r.n .grid i true (r.poison 3)

/-- GRID_CLEAR. -/
def execGridClear (n : CoreId) (w x : W64) (s : State) : Ans :=
  .next (s.issue n w x (fnRow 0x90 [0]) fun s c f => s.compute n c .grid 3 w x f [s.descCheck n c (s.getS c f.a) 1])

/-- The levels an insert works on: those of its mask that are enabled. -/
def State.insLevels (s : State) (x : Nat) : List Nat := (List.range 4).filter fun l => bitOf (bitsOf x 11 8) l && s.levelOn l

/-- The descriptor of level `l` in a descriptor array: at line + 2l, its level field equal to l. -/
def State.descLevel (s : State) (n : CoreId) (c : CtxId) (v : W64) (l : Nat) : Option Desc :=
  match s.desc n c (refOf v).h ((refOf v).off + 64 * l) with
  | some g => if g.level = l then some g else none
  | none => none

/-- GRID_INS. -/
def execGridIns (n : CoreId) (w x : W64) (s : State) : Ans :=
  .next (s.issue n w x (fnRow 0x90 [1]) fun s c f =>
    let a := s.getS c f.a
    s.compute n c .grid 3 w x f
      [((s.insLevels x.toNat).any fun l => (s.descLevel n c a l).isNone, some 1), (!s.refOk c (refOf (s.getS c f.b)) 16, some 2)])

/-- A point enters its cell of one level (R130). -/
def Run.insertAt (r : Run) (g : Desc) (age : Nat) (ix iy iz : Nat) (p : Pt) : Run :=
  if g.mode = 1 ∧ 4 ≤ age then r.tally g 28 VOX_CNT.age_drop
  else
    match r.find g (cellKey g.level ix iy iz) true with
    | (none, r) => r
    | (some (vo, _), r) =>
      match r.value g vo with
      | (v, r) =>
        let id := v % 65536
        let a := if g.mode = 0 then 0 else age
        match r.stat g id a with
        | (q, r) =>
          match accumulate q p (if g.mode = 0 then age else 0) with
          | (q, true) =>
            let r := r.setStat g id a q
            if age = 0 ∧ g.band ≠ 0 then
              let pred := decide (p.toff < g.s0 + g.band)
              let succ := decide (g.s1 ≤ p.toff + g.band)
              r.setValue g vo (v ||| (if pred then 2 ^ 29 else 0) ||| (if succ then 2 ^ 28 else 0))
            else r
          | (q, false) => (r.setStat g id a q).tally g 32 VOX_CNT.cell_sat

/-- One point record (Table 4-4) enters its cell of every level. -/
def Run.insertPoint (r : Run) (gs : List Desc) (age index : Nat) (v : Nat) : Run :=
  let s := r.s
  let x := signedOf 32 v
  let y := signedOf 32 (v / 2 ^ 32)
  let z := signedOf 32 (v / 2 ^ 64)
  let ix := s.index0 0 x
  let iy := s.index0 1 y
  let iz := s.index0 2 z
  if inGrid ix && inGrid iy && inGrid iz then
    gs.foldl (fun r g =>
      let k := 2 ^ s.sh g.level
      let jx := ix.toNat / k
      let jy := iy.toNat / k
      let jz := iz.toNat / k
      let p : Pt :=
        { dx := (x - s.corner 0 g.level jx).toNat, dy := (y - s.corner 1 g.level jy).toNat, dz := (z - s.corner 2 g.level jz).toNat
          int := bitsOf v 119 112, toff := bitsOf v 111 96, sensor := bitsOf v 127 124, index := index % 2 ^ 32 }
      r.insertAt g age jx jy jz p) r
  else r.on fun s => s.bump VOX_STATUS.out_of_grid []

/-- Points in input order. -/
def Run.insertPoints (r : Run) (gs : List Desc) (age : Nat) : Nat → List Nat → Run
  | _, [] => r
  | index, v :: l => (r.insertPoint gs age index v).insertPoints gs age (index + 1) l

/-- Completion of grid.ins. -/
def Run.doIns (r : Run) (i : Issued) : Run :=
  let x := i.x.toNat
  let gs := (r.s.insLevels x).filterMap fun l => r.s.descLevel r.n r.c i.ra l
  let r := gs.foldl (fun r g => r.settleTable g) r
  let b := refOf i.rb
  match r.readMany b.h b.off 16 b.n with
  | (l, r) => r.insertPoints gs (bitsOf x 14 12) (i.rc.toNat % 2 ^ 32) l

/-- GRID_LOOK. -/
def execGridLook (n : CoreId) (w x : W64) (s : State) : Ans :=
  .next (s.issue n w x (fnRow 0x90 [2]) fun s c f =>
    let b := refOf (s.getS c f.b)
    let o := refOf (s.getS c f.c)
    s.compute n c .grid 3 w x f
      [s.descCheck n c (s.getS c f.a) 1, (!s.refOk c b 8, some 2), (!s.refOk c o 4 || decide (o.n < b.n), some 3)])

/-- The ids of keys, 0xFFFF_FFFF where absent. -/
def Run.lookups (r : Run) (g : Desc) : List Nat → List Nat × Run
  | [] => ([], r)
  | k :: l =>
    match r.find g k false with
    | (q, r) =>
      match (match q with
        | some (vo, _) => r.value g vo
        | none => (0xFFFFFFFF, r)) with
      | (v, r) =>
        match r.lookups g l with
        | (t, r) => ((if q.isSome then v % 65536 else v) :: t, r)

/-- Completion of grid.look. -/
def Run.doLook (r : Run) (g : Desc) (i : Issued) : Run :=
  let r := r.settleTable g
  let b := refOf i.rb
  match r.readMany b.h b.off 8 b.n with
  | (keys, r) =>
    match r.lookups g keys with
    | (l, r) => r.writeMany (refOf i.rc).h (refOf i.rc).off 4 l

/-! ### Aging (R131) -/

/-- GRID_AGE: source and destination are of the same level and mode. -/
def execGridAge (n : CoreId) (w x : W64) (s : State) : Ans :=
  .next (s.issue n w x (fnRow 0x90 [3]) fun s c f =>
    let a := s.descRef n c (s.getS c f.a)
    let b := s.descRef n c (s.getS c f.b)
    let differ := match a, b with
      | some p, some q => decide (p.level ≠ q.level ∨ p.mode ≠ q.mode)
      | _, _ => false
    s.compute n c .grid 3 w x f [(a.isNone, some 1), (b.isNone, some 2), (differ, some 2)])

/-- The records of a cell one exposure older, and whether it survives. -/
def aged (g : Desc) (l : List Nat) : List Nat × Bool :=
  if g.mode = 0 then
    let v := l.headD 0
    let m := bitsOf v 31 24 * 2 % 256
    ([putBits v 31 24 m], decide (m % 2 ^ g.keep ≠ 0))
  else
    let k := 0 :: l.take 3
    (k, k.any fun v => bitOf v 24)

/-- One slot of the source is aged into the destination. -/
def Run.ageSlot (r : Run) (a b : Desc) (e : Nat × Nat) : Run :=
  match r.value a e.2 with
  | (v, r) =>
    if bitOf v 31 then r
    else
      match r.stats a (v % 65536) with
      | (l, r) =>
        match aged a l with
        | (_, false) => r
        | (k, true) =>
          match r.find b e.1 true with
          | (none, r) => r
          | (some (vo, _), r) =>
            match r.value b vo with
            | (q, r) => r.setStats b (q % 65536) k

/-- Completion of grid.age. -/
def Run.doAge (r : Run) (a b : Desc) : Run :=
  let r := (r.settleTable a).clear b
  match r.slots a with
  | (l, r) => l.foldl (fun r e => r.ageSlot a b e) r

/-! ### Halos (R133, R134, R357) -/

/-- HALO_EXP. -/
def execHaloExp (n : CoreId) (w x : W64) (s : State) : Ans :=
  .next (s.issue n w x (fnRow 0x91 [0]) fun s c f => s.compute n c .grid 3 w x f [s.descCheck n c (s.getS c f.a) 1])

/-- The halo record of a slot, if its cell belongs to the halo: a line with key, rank and mode, then the statistics. -/
def Run.haloRecord (r : Run) (g : Desc) (dir : Bool) (e : Nat × Nat) : List Byte × Run :=
  match r.value g e.2 with
  | (v, r) =>
    if g.band ≠ 0 ∧ bitOf v 31 = false ∧ bitOf v (if dir then 28 else 29) = true then
      match r.stats g (v % 65536) with
      | (l, r) =>
        (bytesOf 8 e.1 ++ bytesOf 1 g.rank ++ bytesOf 1 g.mode ++ bytesOf 22 0 ++ l.flatMap fun q => bytesOf 32 q, r)
    else ([], r)

/-- The halo records of some slots. -/
def Run.haloRecords (r : Run) (g : Desc) (dir : Bool) : List (Nat × Nat) → List Byte × Run
  | [] => ([], r)
  | e :: l =>
    match r.haloRecord g dir e with
    | (a, r) =>
      match r.haloRecords g dir l with
      | (b, r) => (a ++ b, r)

/-- Completion of halo.exp: one remote transfer ending in the trailer. A denied line is dropped, and raised at completion. -/
def Run.doExp (r : Run) (i : Issued) (g : Desc) : State :=
  match (r.settleTable g).slots g with
  | (l, r) =>
    match r.haloRecords g (bitOf i.x.toNat 8) l with
    | (b, r) =>
      let all := b ++ bytesOf 32 (b.length / 32)
      match r.s.sendLines r.n i.ctx (i.rb.toNat / 32 * 32) [] all (all.length / 32 + 1) with
      | (d, s) => ({ r with s := s }.closed .grid i).s.retire r.n .grid i true (d.toList ++ r.poison 3)

/-- HALO_IMP. -/
def execHaloImp (n : CoreId) (w x : W64) (s : State) : Ans :=
  .next (s.issue n w x (fnRow 0x91 [1]) fun s c f =>
    s.compute n c .grid 3 w x f [s.descCheck n c (s.getS c f.a) 1, (!s.refHolds c (refOf (s.getS c f.b)) 32, some 2)])

/-- The combined count of some record would pass 65,535. -/
def tooMany (a b : List Nat) : Bool :=
  (a.zip b).any fun e => decide (65535 < bitsOf e.1 15 0 + bitsOf e.2 15 0)

/-- One received record is taken in. -/
def Run.importOne (r : Run) (g : Desc) (key rank : Nat) (recs : List Nat) : Run :=
  match r.find g key false with
  | (none, r) =>
    match r.find g key true with
    | (none, r) => r
    | (some (vo, _), r) =>
      match r.value g vo with
      | (v, r) =>
        let r := (r.setValue g vo (v ||| 2 ^ 31 ||| 2 ^ 30)).setStats g (v % 65536) recs
        match r.dcount g 36 with
        | (k, r) => r.setDcount g 36 (min (k + 1) 0xFFFFFFFF)
  | (some (vo, _), r) =>
    match r.value g vo with
    | (v, r) =>
      match r.stats g (v % 65536) with
      | (old, r) =>
        if tooMany old recs then r.tally g 32 VOX_CNT.cell_sat
        else
          let r := r.setStats g (v % 65536) (List.zipWith mergeStats old recs)
          if bitOf v 31 = false ∧ rank < g.rank then r.setValue g vo (v ||| 2 ^ 30) else r

/-- Records from a handle's line on, up to the trailer: a line whose first word is the number of lines before it and whose other bytes are
zero (assumption 16, DEDUCED). -/
def Run.importFrom (r : Run) (g : Desc) (h o : Nat) (line : Nat) : Nat → Run
  | 0 => r
  | fuel + 1 =>
    if hBytes (r.handle h) < o + 32 * (line + 1) then r
    else
      match r.readNat h (o + 32 * line) 32 with
      | (v, r) =>
        if v = line then r
        else
          let m := if bitOf v 72 then 4 else 1
          match r.readMany h (o + 32 * (line + 1)) 32 m with
          | (recs, r) =>
            let r := if bitsOf v 72 72 ≠ g.mode then r.tally g 24 VOX_CNT.fail_full
              else r.importOne g (v % 2 ^ 64) (bitsOf v 71 64) recs
            r.importFrom g h o (line + 1 + m) fuel

/-- Completion of halo.imp. -/
def Run.doImp (r : Run) (g : Desc) (i : Issued) : Run :=
  let b := refOf i.rb
  (r.settleTable g).importFrom g b.h b.off 0 (hBytes (r.handle b.h) / 32)

/-! ### Ordering (R135, R355) -/

/-- The Morton key of a cell key (Table 5-1), bit `20 - fuel` on. -/
def mortonBits (k : Nat) : Nat → Nat
  | 0 => 0
  | fuel + 1 =>
    let i := 19 - fuel
    bitsOf k i i * 2 ^ (3 * i) + bitsOf k (20 + i) (20 + i) * 2 ^ (3 * i + 1) + bitsOf k (40 + i) (40 + i) * 2 ^ (3 * i + 2) +
      mortonBits k fuel

/-- The Morton key of a cell key. -/
def mortonKey (k : Nat) : Nat := bitsOf k 61 60 * 2 ^ 60 + mortonBits k 20

/-- MORTON. -/
def execMorton (n : CoreId) (w x : W64) (s : State) : Ans :=
  .next (s.issue n w x (fnRow 0x92 [0]) fun s c f =>
    let a := refOf (s.getS c f.a)
    let b := refOf (s.getS c f.b)
    s.compute n c .grid 3 w x f [(!s.refOk c a 8, some 1), (!s.refOk c b 8 || decide (b.n < a.n), some 2)])

/-- Completion of morton. -/
def Run.doMorton (r : Run) (i : Issued) : Run :=
  let a := refOf i.ra
  match r.readMany a.h a.off 8 a.n with
  | (l, r) => r.writeMany (refOf i.rb).h (refOf i.rb).off 8 (l.map mortonKey)

/-- MORTON_TAB: outputs whose n is below cells are invalid operands. -/
def execMortonTab (n : CoreId) (w x : W64) (s : State) : Ans :=
  .next (s.issue n w x (fnRow 0x92 [1]) fun s c f =>
    let a := refOf (s.getS c f.a)
    let b := refOf (s.getS c f.b)
    let o := refOf (s.getS c f.c)
    let cells := s.peekNat n c a.h (a.off + 16) 4
    let l : List Check :=
      [s.descCheck n c (s.getS c f.a) 1, (!s.refOk c b 8 || decide (b.n < cells), some 2),
        (!s.refOk c o 4 || decide (o.n < cells), some 3)]
    let t := s.compute n c .grid 3 w x f l
    if ctxGoesOn s t c then t.pendS c f.d else t)

/-- The keys and ids of slots. -/
def Run.mortons (r : Run) (g : Desc) (mark : Bool) : List (Nat × Nat) → List (Nat × Nat × Bool) × Run
  | [] => ([], r)
  | e :: l =>
    match r.value g e.2 with
    | (v, r) =>
      match r.mortons g mark l with
      | (t, r) => ((mortonKey e.1 + (if mark && bitOf v 30 then 2 ^ 63 else 0), v % 65536, bitOf v 30) :: t, r)

/-- Completion of morton.tab. -/
def Run.doMortonTab (r : Run) (g : Desc) (i : Issued) : Run :=
  let b := refOf i.rb
  let o := refOf i.rc
  match (r.settleTable g).slots g with
  | (l, r) =>
    match r.mortons g (bitOf i.x.toNat 8) (l.take (min b.n o.n)) with
    | (t, r) =>
      let r := r.writeMany b.h b.off 8 (t.map (·.1))
      let r := r.writeMany o.h o.off 4 (t.map (·.2.1))
      r.on fun s => s.putS r.c (fieldsOf i.w).d (BitVec.ofNat 64 ((t.filter fun e => !e.2.2).length))

/-- RANKW. -/
def execRankw (n : CoreId) (w x : W64) (s : State) : Ans :=
  .next (s.issue n w x (fnRow 0x92 [2]) fun s c f =>
    s.compute n c .grid 3 w x f [s.descCheck n c (s.getS c f.a) 1, (!s.refOk c (refOf (s.getS c f.b)) 4, some 2)])

/-- Completion of rankw: every id is checked before any rank is written (R135). -/
def Run.doRankw (r : Run) (i : Issued) (g : Desc) : State :=
  let b := refOf i.rb
  match r.readMany b.h b.off 4 b.n with
  | (ids, r) =>
    if ids.any fun k => decide (hBytes (r.handle g.rh) < 4 * k + 4) then
      (r.closed .grid i).s.retire r.n .grid i false ((0x04, opInfo 3 2) :: r.poison 3)
    else
      let r := (ids.zipIdx).foldl (fun r e => r.writeNat g.rh (4 * e.1) 4 e.2) r
      r.done i

/-! ### Kernel maps (R137 to R139) -/

/-- The offsets of a kernel map by mode (Table 5-6). -/
def mapOffsets (mode : Nat) : Nat :=
  match mode with
  | 0 => 27
  | 1 => 125
  | _ => 8

/-- The byte of the entries of a kernel map. -/
def mapEntries (k nc : Nat) : Nat := 32 * ceilDiv (64 + 8 * k + 4 * k * nc) 32

/-- KMAP: the level steps of DOWN and UP, and the size of the map. -/
def execKmap (n : CoreId) (w x : W64) (s : State) : Ans :=
  .next (s.issue n w x (opRow 0x93) fun s c f =>
    let a := s.descRef n c (s.getS c f.a)
    let b := s.descRef n c (s.getS c f.b)
    let d := refOf (s.getS c f.d)
    let k := mapOffsets f.fn
    let size := mapEntries k (ceilDiv d.n 256) + 8 * k * bitsOf x.toNat 31 16
    let step := match a, b with
      | some p, some q =>
        if f.fn = 2 then decide (s.sh p.level ≠ s.sh q.level + 1)
        else if f.fn = 3 then decide (s.sh q.level ≠ s.sh p.level + 1)
        else false
      | _, _ => false
    s.compute n c .grid 3 w x f
      [(a.isNone, some 1), (b.isNone, some 2), (!s.refOk c d 4, some 0), (!s.refHolds c (refOf (s.getS c f.c)) size, some 3),
        (step, none)])

/-- A kernel map being built: its lists, newest entry first, and the entries dropped. -/
structure KMap where
  lists   : List (List (Nat × Nat))
  dropped : Nat
  deriving DecidableEq, Repr

/-- Append an entry to list k, if it has room (R138). -/
def KMap.add (m : KMap) (k cap : Nat) (e : Nat × Nat) : KMap :=
  if (m.lists.getD k []).length < cap then { m with lists := m.lists.modify k (e :: ·) } else { m with dropped := m.dropped + 1 }

/-- The neighbour at an offset, if its indices lie in the grid. -/
def neighbour (level : Nat) (x y z dx dy dz : Int) : Option Nat :=
  if inGrid (x + dx) && inGrid (y + dy) && inGrid (z + dz) then
    some (cellKey level (x + dx).toNat (y + dy).toNat (z + dz).toNat)
  else none

/-- The probes of a site in a mode, as (k, key); no key where the site itself is the neighbour. -/
def siteProbes (mode inLevel key : Nat) : List (Nat × Option Nat) :=
  let x := bitsOf key 19 0
  let y := bitsOf key 39 20
  let z := bitsOf key 59 40
  match mode with
  | 2 =>
    (List.range 8).filterMap fun k =>
      (neighbour inLevel (2 * x) (2 * y) (2 * z) (k % 2 : Nat) (k / 2 % 2 : Nat) (k / 4 : Nat)).map fun q => (k, some q)
  | 3 => [(4 * (z % 2) + 2 * (y % 2) + x % 2, some (cellKey inLevel (x / 2) (y / 2) (z / 2)))]
  | _ =>
    let r : Nat := if mode = 0 then 1 else 2
    let m := 2 * r + 1
    (List.range (m * m * m)).filterMap fun k =>
      if 2 * k + 1 = m * m * m then some (k, none)
      else
        (neighbour inLevel x y z ((k % m : Nat) - r) ((k / m % m : Nat) - r) ((k / (m * m) : Nat) - r)).map fun q => (k, some q)

/-- One output site's entries are appended. -/
def Run.siteEntries (r : Run) (g : Desc) (cap rank : Nat) (m : KMap) : List (Nat × Option Nat) → KMap × Run
  | [] => (m, r)
  | (k, none) :: l => r.siteEntries g cap rank (m.add k cap (rank, rank)) l
  | (k, some key) :: l =>
    match r.find g key false with
    | (none, r) => r.siteEntries g cap rank m l
    | (some (vo, _), r) =>
      match r.value g vo with
      | (v, r) =>
        match r.readNat g.rh (4 * (v % 65536)) 4 with
        | (q, r) => r.siteEntries g cap rank (m.add k cap (rank, q)) l

/-- Sites in ascending rank. -/
def Run.sites (r : Run) (g : Desc) (mode cap : Nat) (keys : List (Nat × Nat)) : Nat → KMap → List Nat → KMap × Run
  | _, m, [] => (m, r)
  | rank, m, id :: l =>
    match keys.find? fun e => decide (e.1 = id) with
    | none => r.sites g mode cap keys (rank + 1) m l
    | some (_, key) =>
      match r.siteEntries g cap rank m (siteProbes mode g.level key) with
      | (m, r) => r.sites g mode cap keys (rank + 1) m l

/-- The ids and keys of a table. -/
def Run.idKeys (r : Run) (g : Desc) : List (Nat × Nat) → List (Nat × Nat) × Run
  | [] => ([], r)
  | e :: l =>
    match r.value g e.2 with
    | (v, r) =>
      match r.idKeys g l with
      | (t, r) => ((v % 65536, e.1) :: t, r)

/-- Completion of kmap: the map of Table 5-7. -/
def Run.doKmap (r : Run) (a b : Desc) (i : Issued) : Run :=
  let mode := (fieldsOf i.w).fn
  let ck := bitsOf i.x.toNat 31 16
  let d := refOf i.rd
  let o := refOf i.rc
  let k := mapOffsets mode
  let nc := ceilDiv d.n 256
  match ((r.settleTable a).settleTable b).slots a with
  | (l, r) =>
    match r.idKeys a l with
    | (keys, r) =>
      match r.readMany d.h d.off 4 d.n with
      | (ids, r) =>
        match r.sites b mode ck keys 0 ⟨List.replicate k [], 0⟩ ids with
        | (m, r) =>
          let lists := m.lists.map List.reverse
          let total := (lists.map List.length).sum
          let head := bytesOf 4 d.n ++ bytesOf 2 k ++ bytesOf 1 mode ++ bytesOf 1 (if m.dropped = 0 then 0 else 1) ++
            bytesOf 4 total ++ bytesOf 4 m.dropped ++ bytesOf 4 nc ++ bytesOf 44 0
          let index := (lists.zipIdx).flatMap fun e => bytesOf 4 (e.2 * ck) ++ bytesOf 4 e.1.length
          let chunks := lists.flatMap fun q =>
            (List.range nc).flatMap fun c => bytesOf 4 (q.filter fun e => decide (e.1 < 256 * c)).length
          let r := r.write o.h o.off (head ++ index ++ chunks)
          (lists.zipIdx).foldl (fun r e =>
            r.write o.h (o.off + mapEntries k nc + 8 * e.2 * ck) (e.1.flatMap fun q => bytesOf 4 q.1 ++ bytesOf 4 q.2)) r

/-! ### Ball queries (R140) -/

/-- The reach of a ball in cells of a level. -/
def State.ballReach (s : State) (level rho : Nat) : Nat := ceilDiv rho (s.edge * 2 ^ s.sh level)

/-- BALL: k from 1 to 64, a reach of at most 2 cells. -/
def execBall (n : CoreId) (w x : W64) (s : State) : Ans :=
  .next (s.issue n w x (opRow 0x94) fun s c f =>
    let a := s.descRef n c (s.getS c f.a)
    let b := refOf (s.getS c f.b)
    let k := bitsOf x.toNat 14 8
    let far := match a with
      | some g => decide (2 < s.ballReach g.level (bitsOf x.toNat 63 32))
      | none => false
    s.compute n c .grid 3 w x f
      [(a.isNone, some 1), (!s.refOk c b 16, some 2), (decide (k = 0 ∨ 64 < k), none),
        (!s.refHolds c (refOf (s.getS c f.c)) (b.n * listBytes k), some 3), (far, none)])

/-- A value rounded to binary32. -/
def f32 (v : Val) : Val := v.round fp32

/-- The squared distance of a cell's centroid from a query, in binary32. -/
def State.dist2 (s : State) (level key : Nat) (q : List Int) (recs : List Nat) : Val :=
  let count := (recs.map fun v => bitsOf v 15 0).sum
  let axis (a lo : Nat) : Val :=
    let total := (recs.map fun v => bitsOf v (lo + 31) lo).sum
    let mean := f32 ((f32 (.ofInt total)).div (f32 (.ofInt count)))
    let c := f32 ((f32 (.ofInt (s.corner a level (bitsOf key (20 * a + 19) (20 * a))))).add mean)
    let d := f32 (c.sub (f32 (.ofInt (q.getD a 0))))
    f32 (d.mul d)
  f32 ((f32 ((axis 0 32).add (axis 1 64))).add (axis 2 96))

/-- The valid records of a cell. -/
def validRecs (g : Desc) (l : List Nat) : List Nat := if g.mode = 0 then l else l.filter fun v => bitOf v 24

/-- The candidates of one query enter its working list in enumeration order, each with the poison of its statistics and its rank (R209). -/
def Run.ballCells (r : Run) (g : Desc) (q : List Int) (rho : Nat) (m : Live) : List Nat → Live × Run
  | [] => (m, r)
  | key :: l =>
    match r.find g key false with
    | (none, r) => r.ballCells g q rho m l
    | (some (vo, _), r) =>
      match r.value g vo with
      | (v, r) =>
        let met := r.bad
        match { r with bad := none }.stats g (v % 65536) with
        | (recs, r) =>
          let d := r.s.dist2 g.level key q (validRecs g recs)
          match r.readNat g.rh (4 * (v % 65536)) 4 with
          | (rank, r) =>
            let near := !(Val.ofInt (rho * rho)).lt d && !d.isNan
            let r := if near then r.on fun s => s.bump SEL_PERF.count [r.n.val, 0] else r
            let bad := r.bad.isSome
            let r := { r with bad := met.or r.bad }
            r.ballCells g q rho (if near then m.take (.valid (fp32.write d.neg) rank bad) else m) l

/-- The keys of the cells around a query in the offset order of Table 5-6. -/
def State.ballKeys (s : State) (level reach : Nat) (q : List Int) : List Nat :=
  let at' (a : Nat) : Int := s.index0 a (q.getD a 0) / (2 ^ s.sh level : Int)
  let m := 2 * reach + 1
  (List.range (m * m * m)).filterMap fun k =>
    neighbour level (at' 0) (at' 1) (at' 2) ((k % m : Nat) - (reach : Int)) ((k / m % m : Nat) - (reach : Int))
      ((k / (m * m) : Nat) - (reach : Int))

/-- Queries in order, each with the poisoned line that it lies in, if any; list q lies at line + q × its lines, and its POISON flag says that
poison was met in forming it. -/
def Run.balls (r : Run) (g : Desc) (o : Ref) (k rho : Nat) : Nat → List (Nat × Option Nat) → Run
  | _, [] => r
  | j, (v, bad) :: l =>
    let q : List Int := [signedOf 32 v, signedOf 32 (v / 2 ^ 32), signedOf 32 (v / 2 ^ 64)]
    match { r with bad := bad }.ballCells g q rho (.fresh 2 k) (r.s.ballKeys g.level (r.s.ballReach g.level rho) q) with
    | (m, r') =>
      let m := { m with poison := r'.bad.isSome }
      let at' := o.off + j * listBytes k
      let r := { r' with bad := r.bad.or r'.bad }.on fun s => if m.ties ≠ 0 then s.bump SEL_STATUS.tie_events [r.n.val] else s
      let r := r.write o.h at' (padLine (m.result 0 r.n.val))
      (r.markLines o.h ((taintLines m.entries m.taint).map (at' + ·))).balls g o k rho (j + 1) l

/-- Completion of ball. -/
def Run.doBall (r : Run) (g : Desc) (i : Issued) : Run :=
  let b := refOf i.rb
  match ({ r with keep := true }.settleTable g).readMany b.h b.off 16 b.n with
  | (l, r) =>
    let bad := (List.range b.n).map fun j => r.badByte b.h (b.off + 16 * j)
    let r := r.on fun s => s.bump SEL_PERF.count [r.n.val, 1] (s.cycles r.n - i.since)
    r.balls g (refOf i.rc) (bitsOf i.x.toNat 14 8) (bitsOf i.x.toNat 63 32) 0 (l.zip bad)

/-! ### Sampling (R141, R356) -/

/-- SAMPLE: a p above 65,536 is an invalid operand; the output's n is a capacity and may be 0 (R341). -/
def execSample (n : CoreId) (w x : W64) (s : State) : Ans :=
  .next (s.issue n w x (opRow 0x95) fun s c f =>
    let z := 4 * 2 ^ f.fn
    let t := s.compute n c .grid 3 w x f
      [(decide (65536 < bitsOf x.toNat 32 16), none), (!s.refOk c (refOf (s.getS c f.a)) z, some 1),
        (!s.refHolds c (refOf (s.getS c f.b)) (z * (refOf (s.getS c f.b)).n), some 2)]
    if ctxGoesOn s t c then t.pendS c f.d else t)

/-- Completion of sample. -/
def Run.doSample (r : Run) (i : Issued) : Run :=
  let f := fieldsOf i.w
  let x := i.x.toNat
  let z := 4 * 2 ^ f.fn
  let a := refOf i.ra
  let b := refOf i.rb
  match r.readMany a.h a.off z a.n with
  | (l, r) =>
    let kept := ((l.zipIdx).filter fun e =>
      decide ((drawOf r.s.salt i.rc (bitsOf x 15 8) (bitsOf x 63 40 + e.2)).toNat / 2 ^ 48 < bitsOf x 32 16)).map (·.1)
    let r := r.writeMany b.h b.off z (kept.take b.n)
    r.on fun s => s.putS r.c f.d (BitVec.ofNat 64 kept.length)

/-! ### Completion -/

/-- A grid operation on the descriptors it names; one whose descriptors are no longer in order changes nothing. -/
def State.doGrid (s : State) (n : CoreId) (i : Issued) : State :=
  let f := fieldsOf i.w
  let r := s.runOf n i false
  let none' : State := s.retire n .grid i true []
  let one (act : Run → Desc → State) : State :=
    match s.descRef n i.ctx i.ra with
    | some g => act (r.note g.h g.o 64) g
    | none => none'
  let two (act : Run → Desc → Desc → State) : State :=
    match s.descRef n i.ctx i.ra, s.descRef n i.ctx i.rb with
    | some a, some b => act ((r.note a.h a.o 64).note b.h b.o 64) a b
    | _, _ => none'
  match f.op, f.fn with
  | 0x90, 0 => one fun r g => (r.clear g).done i
  | 0x90, 1 => (r.doIns i).done i
  | 0x90, 2 => one fun r g => (r.doLook g i).done i
  | 0x90, _ => two fun r a b => (r.doAge a b).done i
  | 0x91, 0 => one fun r g => r.doExp i g
  | 0x91, _ => one fun r g => (r.doImp g i).done i
  | 0x92, 0 => (r.doMorton i).done i
  | 0x92, 1 => one fun r g => (r.doMortonTab g i).done i
  | 0x92, _ => one fun r g => r.doRankw i g
  | 0x93, _ => two fun r a b => (r.doKmap a b i).done i
  | 0x94, _ => one fun r g => (r.doBall g i).done i
  | _, _ => (r.doSample i).done i

/-- GRID_CLASS_COMPLETE (R342). -/
def execGridClassComplete (dt : Nat) (n : CoreId) (s : State) : Ans :=
  let s := s.advance dt
  .next (match s.headOf n .grid with
    | none => s
    | some i => s.doGrid n i)

end Sys2Proof.Machine
end

