-- ==== Sys2Proof/Machine/Matrix.lean ====
section
/-! DEFINITION. Machine/Matrix.lean: tile descriptors (R288, R289), operand pairs (R146), operand extents and accumulator regions (R154
to R156, R172, R186), and the issue of the array class (R347 to R352). -/
namespace Sys2Proof.Machine
open Reg

/-! ### Tile descriptors -/

/-- A tile descriptor (Table 11-2). -/
structure TileD where
  m         : Nat
  k         : Nat
  n         : Nat
  xh        : Nat
  wh        : Nat
  yh        : Nat
  xo        : Nat
  wo        : Nat
  yo        : Nat
  xFmt      : Nat
  yFmt      : Nat
  xPlane    : Bool
  yPlane    : Bool
  transpose : Bool
  accIn     : Bool
  drain     : Bool
  relu      : Bool
  path      : Nat
  sbEn      : Bool
  maskEn    : Bool
  stripCopy : Bool
  sbH       : Nat
  maskH     : Nat
  scH       : Nat
  accOff    : Nat
  accSize   : Nat
  siteBase  : Nat
  deriving DecidableEq, Repr

/-- The reserved bits of a tile descriptor. -/
def tileReserved : Nat := 0xffff0000e000f000ffff000000f80000fff8000000000000000000c000000000

/-- The fields of a tile descriptor. -/
def tileFields (v : Nat) : TileD :=
  { m := bitsOf v 15 0 + 1, k := bitsOf v 27 16 + 1, n := bitsOf v 37 28 + 1
    xh := bitsOf v 47 40, wh := bitsOf v 55 48, yh := bitsOf v 63 56
    xo := 32 * bitsOf v 80 64, wo := 32 * bitsOf v 97 81, yo := 32 * bitsOf v 114 98
    xFmt := bitsOf v 131 128, yFmt := bitsOf v 135 132, xPlane := bitOf v 136, yPlane := bitOf v 137
    transpose := bitOf v 138, accIn := bitOf v 139, drain := bitOf v 140, relu := bitOf v 141, path := bitsOf v 143 142
    sbEn := bitOf v 144, maskEn := bitOf v 145, stripCopy := bitOf v 146
    sbH := bitsOf v 159 152, maskH := bitsOf v 167 160, scH := bitsOf v 175 168
    accOff := 64 * bitsOf v 203 192, accSize := 64 * bitsOf v 220 208, siteBase := bitsOf v 239 224 }

/-- A tile descriptor has no reserved bit set and no reserved code (R288). -/
def tileOk (v : Nat) : Bool :=
  let t := tileFields v
  decide (v &&& tileReserved = 0 ∧ t.xFmt ≤ 5 ∧ t.yFmt ≤ 7 ∧ t.path ≠ 3)

/-- Columns of X. -/
def TileD.cin (t : TileD) : Nat := if t.transpose then t.n else t.k
/-- Columns of Y. -/
def TileD.cout (t : TileD) : Nat := if t.transpose then t.k else t.n

/-! ### Operand pairs (Table 6-1) -/

/-- A mode of Table 6-1 as it applies to one instruction: how weights stand in a cell, integer accumulation, outputs of a group of
tile columns, CCLK per vector, stage time, capacity of a compacted set. -/
structure Mode where
  kind : WKind
  int  : Bool
  g    : Nat
  cpv  : Nat
  st   : Nat
  cap  : Nat
  deriving DecidableEq, Repr

/-- The mode of a weight element code and an activation format code; none for a pair the table does not list (R146). -/
def modeOf (elem xFmt : Nat) (transpose : Bool) : Option Mode :=
  let cpv (n : Nat) : Nat := if transpose then 2 else n
  if elem = 0 ∧ xFmt = 0 then some ⟨.w8, true, 8, cpv 1, 1, 128⟩
  else if (elem = 1 ∨ elem = 2) ∧ (xFmt = 1 ∨ xFmt = 2) then some ⟨.w8, false, 8, cpv 1, 1, 128⟩
  else if elem = 3 ∧ xFmt = 0 then some ⟨.w4, true, 16, cpv 1, 1, 128⟩
  else if (elem = 4 ∨ elem = 5) ∧ xFmt = elem then some ⟨.w16, false, 8, 2, 2, 128⟩
  else none

/-- The mode of a test strip (R202): an INT8 matrix with INT4 or INT8 activations. -/
def stripMode (elem xFmt : Nat) : Option Mode :=
  if elem = 0 ∧ (xFmt = 0 ∨ xFmt = 3) then some ⟨.w4a4, true, 16, 1, 1, 256⟩ else none

/-- Outputs of a group of the fold (R155, R161). -/
def Mode.gsz (p : Mode) (transpose : Bool) : Nat := if transpose then 128 else p.g

/-! ### Layouts (R186) -/

/-- Elements of a 256-bit block. -/
def blockElems (b : Nat) : Nat := 256 / b

/-- The place in bits, from the operand's first byte, of element (m, c) of an operand of `rows` rows and `cols` columns. -/
def elemBit (plane : Bool) (rows cols b m c : Nat) : Nat :=
  if plane then 256 * (c * ceilDiv rows (blockElems b) + m / blockElems b) + m % blockElems b * b
  else (m * cols + c) * b

/-- Bytes of an operand. -/
def opBytes (plane : Bool) (rows cols b : Nat) : Nat :=
  if plane then 32 * cols * ceilDiv rows (blockElems b) else ceilDiv (rows * cols * b) 8

/-- `k` bytes from byte `o` of handle `h` are in order. -/
def State.spanOk (s : State) (c : CtxId) (h o k : Nat) : Bool := s.refHolds c ⟨0, 0, h⟩ (o + k)

/-! ### Accumulator regions (R156, R172) -/

/-- The accumulator window of a slot as it stood when its context became resident: base and end in bytes. -/
def State.accWindow (s : State) (n : CoreId) (k : Fin 4) : Nat × Nat :=
  let w := s.cores[n].accWin[k]
  let size := min w.2 16
  (16384 * w.1, min (16384 * (w.1 + size)) 262144)

/-- The region lies in the window, and the size it gives. -/
def State.regionOk (s : State) (n : CoreId) (k : Fin 4) (t : TileD) : Bool :=
  let w := s.accWindow n k
  decide (0 < s.cores[n].accWin[k].2 ∧ 64 ≤ t.accSize ∧ t.accSize ≤ 262144 ∧ w.1 + t.accOff + t.accSize ≤ w.2)

/-- The region is double-buffered: drain without acc_in. -/
def TileD.double (t : TileD) : Bool := t.drain && !t.accIn

/-- Rows of an m-block. -/
def TileD.mblk (t : TileD) (p : Mode) (resident : Bool) (m : Nat) : Nat :=
  let most := min m (8192 / p.cpv)
  if resident then most else min most (4 * (t.accSize / (32 * p.gsz t.transpose)))

/-- Bytes of a resident region. -/
def TileD.footprint (t : TileD) (p : Mode) : Nat :=
  4 * t.m * (p.gsz t.transpose * ceilDiv t.cout (p.gsz t.transpose))

/-! ### Checks at issue -/

/-- The stored matrix of a tile descriptor as it stands. -/
def State.tileMat (s : State) (n : CoreId) (c : CtxId) (t : TileD) : Mat := s.matAt n c t.wh t.wo

/-- An instruction of the matrix-vector path (R163): forced, or automatic with M below the threshold. -/
def State.onMv (s : State) (n : CoreId) (op : Nat) (held : Bool) (t : TileD) : Bool :=
  let th := min 64 (s.reg ARR_CTRL.mv_threshold [n.val])
  !held && (decide (op = 0x83 ∨ t.path = 2) || (decide (t.path = 0) && decide (t.m < th)))

/-- An instruction of the array class queues passes for the arrays: a strip, or a matrix instruction that does not run on the matrix-vector path. -/
def State.hasPasses (s : State) (n : CoreId) (i : Issued) : Bool :=
  let f := fieldsOf i.w
  match f.op with
  | 0x82 => !(decide (f.fn = 0) && s.onMv n 0x82 false (tileFields i.tile.toNat))
  | 0x84 => true
  | 0x85 => true
  | _ => false

/-- A pass is queued or in flight (Table 6-8). -/
def State.arraysBusy (s : State) (n : CoreId) : Bool := s.cores[n].array.any fun i => s.hasPasses n i

/-- The mode of a matrix instruction at issue: that of the record A for a held form, else that of the stored matrix. -/
def State.issueMode (s : State) (n : CoreId) (c : CtxId) (held : Bool) (t : TileD) : Option Mode :=
  if held then
    match s.ctxs[c].heldA with
    | none => none
    | some h => modeOf (s.tileMat n c (tileFields h.toNat)).elem t.xFmt t.transpose
  else modeOf (s.tileMat n c t).elem t.xFmt t.transpose

/-- The stored matrix is in its handle. -/
def State.tileHolds (s : State) (n : CoreId) (c : CtxId) (t : TileD) : Bool :=
  s.spanOk c t.wh t.wo 32 && s.matHolds c (s.tileMat n c t)

/-- A strip copy goes with INT8 outputs in plane layout (R289). -/
def TileD.copyCheck (t : TileD) : Check := (t.stripCopy && !(decide (t.yFmt = 0) && t.yPlane), none)

/-- What every matrix instruction asks of what its drain writes and of its mask. -/
def State.outChecks (s : State) (c : CtxId) (t : TileD) (rows : Nat) : List Check :=
  let yb := (numOf t.yFmt).width
  [(t.drain && !s.spanOk c t.yh t.yo (opBytes t.yPlane rows t.cout yb), none),
    (t.drain && t.sbEn && !s.spanOk c t.sbH 0 (8 * t.cout), none),
    (t.maskEn && !s.spanOk c t.maskH 0 (ceilDiv rows 8), none),
    t.copyCheck,
    (t.drain && t.stripCopy && !s.spanOk c t.scH 0 (opBytes true rows t.cout 4), none)]

/-- What an instruction asks of its accumulator region. -/
def State.regionCheck (s : State) (n : CoreId) (c : CtxId) (t : TileD) (p : Mode) (resident : Bool) : Check :=
  (!s.regionOk n (s.slotNow n c) t ||
    (if resident then decide (t.accSize < t.footprint p) else decide (t.mblk p false t.m < 4)), none)

/-- Issue of an array-class instruction: the tile descriptor first, then the checks the instruction makes of it. -/
def State.arrayIssue (s : State) (n : CoreId) (c : CtxId) (w : W64) (f : Fields) (checks : TileD → List Check) : State :=
  let v := (s.ctxs[c].t[tReg f.a]).toNat
  s.compute n c .array 1 w 0 f (if tileOk v then checks (tileFields v) else [(true, none)])

/-- Accumulators lost at a swap-out (R160): the exception of an acc_in = 1 instruction. -/
def State.accGone (s : State) (n : CoreId) (c : CtxId) (t : TileD) : Bool :=
  t.accIn && s.ctxs[c].accLost && (s.slotOf n c).isSome

/-- After issue: what the held-set records of the context name once the instruction has executed (R347). -/
def State.heldAfter (s t : State) (c : CtxId) (f : Ctx → Ctx) : State := if ctxGoesOn s t c then t.setCtx c f else t

/-- Both records are empty. -/
def Ctx.noHeld (x : Ctx) : Ctx := { x with heldA := none, heldS := none }

/-- WLD (R347). -/
def execWld (n : CoreId) (w : W64) (s : State) : Ans :=
  .next (s.issue n w 0 (opRow 0x80) fun s c f =>
    let t := s.arrayIssue n c w f fun t =>
      [(!s.tileHolds n c t, none), ((modeOf (s.tileMat n c t).elem t.xFmt t.transpose).isNone, none)]
    s.heldAfter t c fun x => { x with heldS := some (x.t[tReg f.a]) })

/-- WSWAP (R347): invalid operand where S is empty. -/
def execWswap (n : CoreId) (w : W64) (s : State) : Ans :=
  .next (s.issue n w 0 (opRow 0x81) fun s c f =>
    let t := s.compute n c .array 1 w 0 f [(s.ctxs[c].heldS.isNone, none)]
    s.heldAfter t c fun x => { x with heldA := x.heldS, heldS := x.heldA })

/-- What the plain form of mm and mv asks. -/
def State.matrixChecks (s : State) (n : CoreId) (c : CtxId) (op : Nat) (held : Bool) (t : TileD) : List Check :=
  let m := s.issueMode n c held t
  let region : Check :=
    match m with
    | none => (true, none)
    | some p => if s.onMv n op held t && t.double then (false, none) else s.regionCheck n c t p (!t.double || s.onMv n op held t)
  [(held && s.ctxs[c].heldA.isNone, none), (!held && !s.tileHolds n c t, none), (m.isNone, none),
    (!s.spanOk c t.xh t.xo (opBytes t.xPlane t.m t.cin (numOf t.xFmt).width), none)] ++ s.outChecks c t t.m ++ [region]

/-- What the masked weight-gradient form asks (R347, R348). The gradient has one FP32 value per entry. -/
def State.wgradChecks (s : State) (n : CoreId) (c : CtxId) (held : Bool) (t : TileD) (v : W64) : List Check :=
  let m := s.tileMat n c t
  let code := bitsOf v.toNat 63 60
  let b := if code = 7 then 4 else 2
  let bytes := s.peek n c t.wh t.wo m.len
  let r : Run := ⟨s, n, c, true, none, [], []⟩
  let most (p : Mode) : Nat :=
    ((List.range (ceilDiv (8 * m.cols) p.g)).map fun g =>
      match r.columns m bytes (groupCols m p.g g) with
      | (ts, _) => (unionOf t.k m ts (groupCols m p.g g)).length).foldl max 0
  let fit : Check :=
    match modeOf m.elem t.xFmt false with
    | none => (true, none)
    | some p => (!s.regionOk n (s.slotNow n c) t || decide (t.accSize < most p * p.g * 4), none)
  let entries : Nat := ((r.columns m bytes (List.range m.cols)).1.map fun q => q.es.length).sum
  [(held && s.ctxs[c].heldA.isNone, none), (!s.tileHolds n c t, none), (decide (t.yFmt ≠ 7) || !t.xPlane, none), t.copyCheck,
    (!s.spanOk c t.yh t.yo (4 * entries), none),
    (decide (code ≠ 7 ∧ code ≠ 5 ∧ code ≠ 4) || decide (bitsOf v.toNat 59 32 ≠ 0) ||
      !s.refHolds c (refOf v) (t.m * t.n * b), some 2),
    (!s.spanOk c t.xh t.xo (opBytes true t.m t.k (numOf t.xFmt).width), none), fit]

/-- MM (R155, R163, R347, R348). -/
def execMm (n : CoreId) (w : W64) (s : State) : Ans :=
  .next (s.issue n w 0 (opRow 0x82) fun s c f =>
    let held := bitOf f.fn 0
    let wgrad := bitOf f.fn 1
    let t := tileFields (s.ctxs[c].t[tReg f.a]).toNat
    if tileOk (s.ctxs[c].t[tReg f.a]).toNat && !wgrad && s.accGone n c t then s.precise c 0x06 (s.slotNow n c).val
    else
      let u := s.arrayIssue n c w f fun t =>
        if wgrad then s.wgradChecks n c held t (s.getS c f.b) else s.matrixChecks n c 0x82 held t
      s.heldAfter u c fun x => if wgrad || !(held || s.onMv n 0x82 held t) then x.noHeld else x)

/-- MV (R163, R349). It raises no accumulator-lost exception (Table 13-2). -/
def execMv (n : CoreId) (w : W64) (s : State) : Ans :=
  .next (s.issue n w 0 (opRow 0x83) fun s c f =>
    let vreg := bitOf f.fn 0
    let u := s.arrayIssue n c w f fun t =>
        if vreg then
          let p := modeOf (s.tileMat n c t).elem t.xFmt t.transpose
          [(!s.tileHolds n c t, none), (p.isNone, none),
            (decide (t.m ≠ 1 ∨ 2048 < t.cin * (numOf t.xFmt).width ∨ 64 < t.cout ∨ t.yFmt < 6), none),
            (t.sbEn && !s.spanOk c t.sbH 0 (8 * t.cout), none), t.copyCheck]
        else s.matrixChecks n c 0x83 false t
    if vreg && ctxGoesOn s u c then
      match u.draw 2048 with
      | (v, u) => u.setCtx c fun x => { x with v := x.v.set f.d v }
    else u)

/-! ### Gather form (R350) -/

/-- The map operand of mm.g: handle, first byte, list k. -/
def mapRef (v : W64) : Nat × Nat × Nat := (bitsOf v.toNat 7 0, 32 * bitsOf v.toNat 31 8, bitsOf v.toNat 38 32)

/-- MM_G. The map's own size is that of its lists of c_k entries, which list 1 starts after (R139, R341); a map of one list has c_k at its
count. -/
def execMmG (n : CoreId) (w : W64) (s : State) : Ans :=
  .next (s.issue n w 0 (opRow 0x84) fun s c f =>
    let held := bitOf f.fn 0
    let t := tileFields (s.ctxs[c].t[tReg f.a]).toNat
    if tileOk (s.ctxs[c].t[tReg f.a]).toNat && s.accGone n c t then s.precise c 0x06 (s.slotNow n c).val
    else
      let u := s.arrayIssue n c w f fun t =>
        let q := mapRef (s.getS c f.b)
        let m := s.issueMode n c held t
        let ks := s.peekNat n c q.1 (q.2.1 + 4) 2
        let nc := s.peekNat n c q.1 (q.2.1 + 16) 4
        let ck := s.peekNat n c q.1 (q.2.1 + (if ks < 2 then 68 else 72)) 4
        let region : Check := match m with
          | none => (true, none)
          | some p => s.regionCheck n c t p true
        [(held && s.ctxs[c].heldA.isNone, none), (!held && !s.tileHolds n c t, none), (m.isNone, none),
          (t.xPlane || t.yPlane || decide (t.siteBase % 256 ≠ 0), none),
          (decide (bitsOf (s.getS c f.b).toNat 63 39 ≠ 0) || !s.spanOk c q.1 q.2.1 64, some 2),
          (decide (ks ≤ q.2.2) || !s.spanOk c q.1 q.2.1 (mapEntries ks nc + 8 * ks * ck), some 2),
          (!s.spanOk c (f.imm / 256 % 256) 0 (ceilDiv (ck * t.cin * (numOf t.xFmt).width) 8), none),
          (!s.spanOk c t.xh t.xo 1, none)] ++ s.outChecks c t (t.siteBase + t.m) ++ [region]
      s.heldAfter u c fun x => if held then x else x.noHeld)

/-- STRIP (R202, R352). -/
def execStrip (n : CoreId) (w : W64) (s : State) : Ans :=
  .next (s.issue n w 0 (opRow 0x85) fun s c f =>
    let u := s.arrayIssue n c w f fun t =>
      [(!s.tileHolds n c t, none), ((stripMode (s.tileMat n c t).elem t.xFmt).isNone || !t.xPlane || t.transpose, none),
        (!s.spanOk c t.xh t.xo (opBytes true t.m t.k (numOf t.xFmt).width), none),
        (!s.spanOk c t.maskH 0 (ceilDiv t.m 8), none), (t.sbEn && !s.spanOk c t.sbH 0 (8 * t.n), none),
        t.copyCheck]
    s.heldAfter u c Ctx.noHeld)

end Sys2Proof.Machine
end

