-- ==== Sys2Proof/Machine/Tables.lean ====
section
/-! DEFINITION. Machine/Tables.lean: the map tables (R227 to R260) and the table-class instructions (R359). -/
namespace Sys2Proof.Machine
open Reg

/-! ### Configuration of a bank -/

/-- Change the table engine. -/
def State.setTbl (s : State) (f : Tbl → Tbl) : State := { s with tbl := f s.tbl }

/-- The active bank of a table (R227, R254). -/
def State.bankOf (s : State) (t : Nat) : Nat := s.reg TBL_TAB_STATUS.active [t]

/-- A field of a bank's TBL_TAB_CFG. -/
def State.tabCfg (s : State) (f : Fld) (t b : Nat) : Nat := s.reg f [t, b]

/-- The table is enabled (R227). -/
def State.tabOn (s : State) (t : Nat) : Bool := decide (s.tabCfg TBL_TAB_CFG.en t (s.bankOf t) = 1)

/-- Rows of a bank. -/
def State.tabRows (s : State) (t b : Nat) : Nat := 2 ^ s.tabCfg TBL_TAB_CFG.rows_log2 t b

/-- The bank is in compatibility mode (R253). -/
def State.compat (s : State) (t b : Nat) : Bool := decide (s.tabCfg TBL_TAB_CFG.mode t b = 1)

/-- The bank accepts lookups and prefetches only (R252). -/
def State.frozen (s : State) (t b : Nat) : Bool := decide (s.tabCfg TBL_TAB_CFG.frozen t b = 1)

/-- The bank takes row indices for keys (R228). -/
def State.direct (s : State) (t b : Nat) : Bool := decide (s.tabCfg TBL_TAB_CFG.index t b = 1)

/-- Bytes of a record in compatibility mode (R253). -/
def recordBytes (opt : Nat) : Nat := 64 * 2 ^ min opt 2

/-- Bytes of a slot of a tier (Table 9-1). -/
def slotBytes (tier : Nat) : Nat := if tier = 1 then 64 else 32

/-- The address of a slot, or of a record in compatibility mode (R232, R253). -/
def State.rowSlotAddr (s : State) (t b tier slot : Nat) : Nat :=
  if s.compat t b then s.reg TBL_TAB_BASE.dir_base [t, b] * 4096 + recordBytes (s.tabCfg TBL_TAB_CFG.opt t b) * slot
  else s.reg TBL_TAB_POOL.base [t, b, tier - 1] * 4096 + slotBytes tier * slot

/-- The address of a directory entry (R231). -/
def State.entryAddr (s : State) (t b row : Nat) : Nat := s.reg TBL_TAB_BASE.dir_base [t, b] * 4096 + 4 * row

/-- The address of entry `k` of a pool's free stack (R232). -/
def State.stackAddr (s : State) (t b tier k : Nat) : Nat :=
  let i := [t, b, tier - 1]
  s.reg TBL_TAB_POOL.base i * 4096 + slotBytes tier * s.reg TBL_TAB_POOL.slots i + 4 * k

/-! ### Keys (R228, R236) -/

/-- The shift of a level in the latched geometry (R120). -/
def State.levelShift (s : State) (l : Nat) : Nat := csrGet s.proc VOX_LEVEL.sh [l]

/-- The key breaks the check of R228: a cell key whose level is too coarse for the table. -/
def State.keyCoarse (s : State) (t b key : Nat) : Bool :=
  !s.direct t b && decide (key < 2 ^ 62 ∧ s.tabCfg TBL_TAB_CFG.res_shift t b < s.levelShift (bitsOf key 61 60))

/-- The row that a key names, if it is valid (R228, R236). -/
def State.rowOf (s : State) (t b key : Nat) : Option Nat :=
  if s.direct t b then (if key % 2 ^ 32 < s.tabRows t b then some (key % 2 ^ 32) else none)
  else if 2 ^ 62 ≤ key then none
  else
    let k := s.tabCfg TBL_TAB_CFG.res_shift t b - s.levelShift (bitsOf key 61 60)
    let c := (bitsOf key 59 40 / 2 ^ k) * 2 ^ 40 + (bitsOf key 39 20 / 2 ^ k) * 2 ^ 20 + bitsOf key 19 0 / 2 ^ k
    let h := ((c ^^^ s.reg TBL_TAB_HASH.tab_seed [t, b]) * 0xA24BAED4963EE407) % 2 ^ 64
    some (h / 2 ^ (64 - s.tabCfg TBL_TAB_CFG.rows_log2 t b))

/-! ### Memory of the engine -/

/-- The engine reaches DRAM whose channels are trained and the whole vault, its region included (R279, R379). -/
def State.engReach (s : State) (a : Nat) : Bool :=
  match regionOf s a with
  | .dram _ => s.trained
  | .vault _ => true
  | _ => false

/-- The engine reads bytes: it acts for no partition; the answer says whether they could be read without an uncorrectable error (R239). -/
def State.engRead (s : State) (a n : Nat) : List Byte × Bool × State :=
  if s.engReach a then
    let s := s.settleRange a n
    (s.readBytes a n, !s.poisonedIn a n, s)
  else (List.replicate n 0, true, s)

/-- The engine reads a value. -/
def State.engNat (s : State) (a n : Nat) : Nat × Bool × State :=
  match s.engRead a n with
  | (b, ok, s) => (natOfBytes b, ok, s)

/-- The engine writes a value. -/
def State.engPut (s : State) (a n v : Nat) : State := if s.engReach a then s.writeBytes a (bytesOf n v) else s

/-- A directory entry (Table 9-2). -/
structure Entry where
  tier : Nat
  rep  : Bool
  mig  : Bool
  acc  : Nat
  slot : Nat
  deriving DecidableEq, Repr

/-- The entry in 32 bits. -/
def entryOf (v : Nat) : Entry := ⟨bitsOf v 31 30, bitOf v 29, bitOf v 28, bitsOf v 27 24, bitsOf v 23 0⟩

/-- The 32 bits of an entry. -/
def Entry.bits (e : Entry) : Nat :=
  e.tier * 2 ^ 30 + (if e.rep then 2 ^ 29 else 0) + (if e.mig then 2 ^ 28 else 0) + e.acc * 2 ^ 24 + e.slot

/-- Read the entry of a row; in compatibility mode every row is present and hot, in the record of its number (R253). -/
def State.getEntry (s : State) (t b row : Nat) : Entry × Bool × State :=
  if s.compat t b then (⟨1, false, false, 0, row⟩, true, s)
  else
    match s.engNat (s.entryAddr t b row) 4 with
    | (v, ok, s) => (entryOf v, ok, s)

/-- Write the entry of a row. -/
def State.putEntry (s : State) (t b row : Nat) (e : Entry) : State :=
  if s.compat t b then s else s.engPut (s.entryAddr t b row) 4 e.bits

/-! ### Row formats (R229, R230) -/

/-- A row's features in FP32, from the bytes of its slot. -/
def rowVals (tier : Nat) (v : Nat) : List Val :=
  match tier with
  | 1 => (lanesOf 16 32 v).map fp16.read
  | 2 => (lanesOf 8 32 v).map e4m3.read
  | _ =>
    let scale := bf16.read (bitsOf v 143 128)
    (lanesOf 4 32 v).map fun q => (scale.mul (.ofInt (signedOf 4 q))).round fp32

/-- A finite value beyond FP16 saturates; a NaN becomes +0 (R230). The Boolean counts a saturation. -/
def toHot (v : Val) : Nat × Bool :=
  match v with
  | .nan => (0, false)
  | .inf _ => (fp16.write v, false)
  | .num neg _ _ =>
    match fp16.put v with
    | (b, false) => (b, false)
    | (_, true) => (fp16.sign neg + 0x7BFF, true)

/-- E4M3 of Table 9-1 (R230). -/
def toWarm (v : Val) : Nat × Bool :=
  match v with
  | .nan => (0, false)
  | _ => e4m3.put v

/-- A decoded feature of a cold row in FP16: it saturates to ±65,504, whether it or the FP32 product is beyond the range (Table 9-1). -/
def coldFp16 (v : Val) : Nat :=
  match v with
  | .inf neg => fp16.sign neg + 0x7BFF
  | .num _ _ _ => (toHot v).1
  | .nan => fp16.write .nan

/-- The row as a lookup returns it: 32 FP16 values (Table 9-1): hot unchanged, warm exactly, cold rounded and saturated. -/
def rowFp16 (tier v : Nat) : Nat :=
  match tier with
  | 1 => v % 2 ^ 512
  | 2 => packLanes 16 ((rowVals 2 v).map fun x => fp16.write x)
  | _ => packLanes 16 ((rowVals tier v).map coldFp16)

/-- The largest magnitude of some values, NaNs taken as 0. -/
def maxAbs (l : List Val) : Val := l.foldl (fun (m : Val) (x : Val) => if m.lt x.abs then x.abs else m) (.num false 0 1)

/-- The smallest BF16 bits not below a positive FP32 value. -/
def bf16Up (v : Nat) : Nat := v / 65536 + (if v % 65536 = 0 then 0 else 1)

/-- The features of a cold row: none where the quotient is not a number, for which R230 gives no result. -/
def coldQ (scale x : Val) : Option Nat :=
  match x.div scale with
  | .nan => none
  | .inf neg => some (wrapOf 4 (if neg then -7 else 7))
  | .num neg n d => some (wrapOf 4 (clampInt (-7) 7 (signedNum neg (rne n d))))

/-- A list of four-bit features, with free values where none is stated (assumption 2, DESIGN CHOICE). -/
def State.fillQ (s : State) : List (Option Nat) → List Nat × State
  | [] => ([], s)
  | some q :: l =>
    match s.fillQ l with
    | (r, s) => (q :: r, s)
  | none :: l =>
    match s.draw 4 with
    | (v, s) =>
      match s.fillQ l with
      | (r, s) => (v.toNat :: r, s)

/-- Count saturations on encode (Table 9-11). -/
def State.satCount (s : State) (n : Nat) : State := s.bump TBL_PERF.count [6] n

/-- Encode a row value into the bytes of a tier (R230). -/
def State.encodeRow (s : State) (tier : Nat) (l : List Val) : Nat × State :=
  match tier with
  | 1 =>
    let q := l.map toHot
    (packLanes 16 (q.map (·.1)), s.satCount (q.filter (·.2)).length)
  | 2 =>
    let q := l.map toWarm
    (packLanes 8 (q.map (·.1)), s.satCount (q.filter (·.2)).length)
  | _ =>
    let l := l.map fun x => if x.isNan then .num false 0 1 else x
    let m := maxAbs l
    if m.eq (.num false 0 1) then (0, s)
    else
      let sc := bf16Up (fp32.write (m.div (.ofInt 7)))
      match s.fillQ (l.map (coldQ (bf16.read sc))) with
      | (q, s) => (packLanes 4 q + sc * 2 ^ 128, s)

/-- The features as FP32 patterns. -/
def toFp32 (l : List Val) : List Nat := l.map fun v => fp32.write v

/-- FP32 patterns as values. -/
def ofFp32 (l : List Nat) : List Val := l.map fun v => fp32.read v

/-! ### Pools (R232) -/

/-- The number under which the top of a free stack is kept. -/
def topKey (t b tier : Nat) : Nat := t * 6 + b * 3 + (tier - 1)

/-- The top of a free stack. -/
def State.top (s : State) (t b tier : Nat) : Nat := (alookup (topKey t b tier) s.tbl.tops).getD 0

/-- Set the top of a free stack. -/
def State.setTop (s : State) (t b tier v : Nat) : State := s.setTbl fun x => { x with tops := aset (topKey t b tier) v 0 x.tops }

/-- Pop a free slot of a tier, if there is one. -/
def State.popSlot (s : State) (t b tier : Nat) : Option Nat × State :=
  let k := s.top t b tier
  if k = 0 then (none, s)
  else
    match s.engNat (s.stackAddr t b tier (k - 1)) 4 with
    | (v, _, s) => (some (v % 2 ^ 24), s.setTop t b tier (k - 1))

/-- Push a free slot of a tier. -/
def State.pushSlot (s : State) (t b tier slot : Nat) : State :=
  let k := s.top t b tier
  (s.engPut (s.stackAddr t b tier k) 4 slot).setTop t b tier (k + 1)

/-- At activation the free slots are the first free_init entries of each stack (R232). -/
def State.initTops (s : State) (t b : Nat) : State :=
  [1, 2, 3].foldl (fun s tier => s.setTop t b tier (s.reg TBL_TAB_POOL.free_init [t, b, tier - 1])) s

/-! ### Replicas (R243, R244) -/

/-- The replicas of a row. -/
def State.repOf (s : State) (t b row : Nat) : Option TblRep :=
  s.tbl.reps.find? fun r => decide (r.tab = t ∧ r.bank = b ∧ r.row = row)

/-- A word of a row's replicas, in any group's set. -/
def inRep (t b row : Nat) : Sram → Bool
  | .replica _ u c r => decide (u = t ∧ c = b ∧ r = row)
  | _ => false

/-- A word of a row's replica in the set of a group, which lies in vault banks 4g to 4g + 3 (R243). -/
def inRepOf (g t b row : Nat) : Sram → Bool
  | .replica v u c r => decide (v.val / 4 = g ∧ u = t ∧ c = b ∧ r = row)
  | _ => false

/-- The replicas of a row become invalid. -/
def State.dropRep (s : State) (t b row : Nat) : State :=
  (s.sramFresh (inRep t b row)).setTbl fun x => { x with reps := x.reps.filter fun r => !decide (r.tab = t ∧ r.bank = b ∧ r.row = row) }

/-- The home entry of a row in a replica set (R243). -/
def repHome (log t row : Nat) : Nat := ((t * 2 ^ 24 + row) * 0x9E3779B9 % 2 ^ 32) / 2 ^ (32 - log)

/-- The first free entry of the four that a probe visits; with rep_log2 0 there is none. -/
def State.repFree (s : State) (t row : Nat) : Option Nat :=
  let log := s.reg TBL_VAULT.rep_log2
  if log = 0 then none
  else
    let h := repHome log t row
    ((List.range 4).map fun i => (h + i) % 2 ^ log).find? fun p => !s.tbl.reps.any fun r => decide (r.pos = p)

/-- Change the replicas of a row. -/
def State.setRep (s : State) (t b row : Nat) (f : TblRep → TblRep) : State :=
  s.setTbl fun x => { x with reps := x.reps.map fun r => if r.tab = t ∧ r.bank = b ∧ r.row = row then f r else r }

/-! ### Writing a row -/

/-- Write the bytes of a slot. In compatibility mode a hot row is the first 64 bytes of its record. -/
def State.putSlot (s : State) (t b tier slot v : Nat) : State := s.engPut (s.rowSlotAddr t b tier slot) (slotBytes tier) v

/-- The rebuild whose target takes a write of a source row: one that has copied the row and mirrors (R258). -/
def State.mirrorOf (s : State) (t b row : Nat) : Option TblReb :=
  s.tbl.rebs.find? fun r => decide (r.tab = t ∧ r.src = b ∧ row < r.next) && r.mirror

/-- The value of a row written into the target of a rebuild: in the tier of its row there, where it is present. -/
def State.mirrorRow (s : State) (t b row : Nat) (l : List Val) : State :=
  match s.mirrorOf t b row with
  | none => s
  | some _ =>
    match s.getEntry t (1 - b) row with
    | (e, ok, s) =>
      if ok && decide (e.tier ≠ 0) then
        match s.encodeRow e.tier l with
        | (v, s) => s.putSlot t (1 - b) e.tier e.slot v
      else s

/-- The migration of a row that has not flipped. -/
def State.migOf (s : State) (t b row : Nat) : Option TblMig :=
  s.tbl.migs.find? fun m => decide (m.tab = t ∧ m.bank = b ∧ m.row = row)

/-- Change the migration of a row. -/
def State.setMig (s : State) (t b row : Nat) (f : TblMig → TblMig) : State :=
  s.setTbl fun x => { x with migs := x.migs.map fun m => if m.tab = t ∧ m.bank = b ∧ m.row = row then f m else m }

/-- Write a present row: its slot, its replicas, the entry of the migration buffer and the target of a rebuild take the value (R237, R244, R246,
R250, R258). -/
def State.writeRow (s : State) (t b row : Nat) (e : Entry) (l : List Val) : State :=
  match s.encodeRow e.tier l with
  | (v, s) =>
    let s := s.putSlot t b e.tier e.slot v
    let s := s.sramFresh fun k => decide (k = .rowLine t b row)
    let s := if e.rep then (s.sramFresh (inRep t b row)).setRep t b row fun r => { r with val := rowFp16 e.tier v } else s
    let s := if e.mig then s.setMig t b row fun m => { m with res := some (toFp32 l) } else s
    s.mirrorRow t b row l

/-! ### Optimiser state (R251, R253) -/

/-- Number of state values per feature: none, m, or m and v (Table 9-4). -/
def stateCount (opt : Nat) : Nat := if opt = 0 then 0 else if opt = 1 then 1 else 2

/-- The state of a bank is BF16: by state_fmt, and always in compatibility mode (R251, R253). -/
def State.stateBf (s : State) (t b : Nat) : Bool := s.compat t b || decide (s.tabCfg TBL_TAB_CFG.state_fmt t b = 1)

/-- The address of array `k` of a row's state (m precedes v). -/
def State.stateAddr (s : State) (t b row k : Nat) : Nat :=
  let opt := s.tabCfg TBL_TAB_CFG.opt t b
  let one := if s.stateBf t b then 64 else 128
  if s.compat t b then s.rowSlotAddr t b 1 row + 64 + 64 * k
  else s.reg TBL_TAB_BASE.state_base [t, b] * 4096 + row * (one * stateCount opt) + one * k

/-- Read array `k` of a row's state; one that the optimiser does not keep reads zero. -/
def State.getMoment (s : State) (t b row k : Nat) : List Val × Bool × State :=
  if stateCount (s.tabCfg TBL_TAB_CFG.opt t b) ≤ k then (List.replicate 32 (.num false 0 1), true, s)
  else
    let bf := s.stateBf t b
    match s.engNat (s.stateAddr t b row k) (if bf then 64 else 128) with
    | (v, ok, s) => ((if bf then (lanesOf 16 32 v).map bf16.read else (lanesOf 32 32 v).map fp32.read), ok, s)

/-- Write array `k` of a row's state, where the optimiser keeps it. -/
def State.putMoment (s : State) (t b row k : Nat) (l : List Val) : State :=
  if stateCount (s.tabCfg TBL_TAB_CFG.opt t b) ≤ k then s
  else if s.stateBf t b then s.engPut (s.stateAddr t b row k) 64 (packLanes 16 (l.map fun v => bf16.write v))
  else s.engPut (s.stateAddr t b row k) 128 (packLanes 32 (l.map fun v => fp32.write v))

/-- Write the state of a row, and of its copy in the target of a rebuild (R258). -/
def State.putState (s : State) (t b row : Nat) (m v : List Val) : State :=
  let s := (s.putMoment t b row 0 m).putMoment t b row 1 v
  match s.mirrorOf t b row with
  | none => s
  | some _ => (s.putMoment t (1 - b) row 0 m).putMoment t (1 - b) row 1 v

/-! ### Operations at issue (R234, R248, R249, R256, R359) -/

/-- The tables of a mask in ascending slot order. -/
def maskTabs (m : Nat) : List Nat := (List.range 16).filter fun t => bitOf m t

/-- Bytes of a key of a table (R359). -/
def State.keyBytes (s : State) (t : Nat) : Nat := if s.direct t (s.bankOf t) then 4 else 8

/-- The byte size of the keys of a mask: that of its lowest table. -/
def State.maskKeyBytes (s : State) (m : Nat) : Nat :=
  match maskTabs m with
  | [] => 8
  | t :: _ => s.keyBytes t

/-- A mask names a disabled table. -/
def State.maskOff (s : State) (m : Nat) : Bool := (maskTabs m).any fun t => !s.tabOn t

/-- A mask names tables of both index modes. -/
def State.maskMixed (s : State) (m : Nat) : Bool := (maskTabs m).any fun t => decide (s.keyBytes t ≠ s.maskKeyBytes m)

/-- TLOOK (R234, R359). -/
def execTlook (n : CoreId) (w x : W64) (s : State) : Ans :=
  .next (s.issue n w x (opRow 0xA0) fun s c f =>
    let m := (s.getS c f.b).toNat % 65536
    let a := refOf (s.getS c f.a)
    s.compute n c .table 6 w x f
      [(decide (65536 < a.n) || !s.refOk c a (s.maskKeyBytes m), some 1), (s.maskOff m || s.maskMixed m, some 2),
        (!s.refHolds c (refOf (s.getS c f.c)) (64 * a.n * (maskTabs m).length), some 3)])

/-- Rows of a source as values, poisoned ones none. -/
def Run.readRows (r : Run) (h o z : Nat) : Nat → List (Option Nat) × Run
  | 0 => ([], r)
  | k + 1 =>
    match { r with bad := none }.readNat h o z with
    | (v, r') =>
      match { r' with bad := r.bad }.readRows h (o + z) z k with
      | (l, r'') => ((if r'.bad.isSome then none else some v) :: l, r'')

/-- The issue of a gradient or replace operation: its whole source is read before the next instruction issues (R240). -/
def State.issueSource (s : State) (n : CoreId) (w x : W64) (op z : Nat) : State :=
  s.issue n w x (opRow op) fun s c f =>
    let t := (s.getS c f.b).toNat % 16
    let a := refOf (s.getS c f.a)
    let d := refOf (s.getS c f.c)
    let seq := s.stamp
    let s' := s.compute n c .table 6 w x f
      [(decide (65536 < a.n) || !s.refOk c a (s.keyBytes t), some 1), (!s.tabOn t, some 2), (!s.refHolds c d (z * a.n), some 3)]
    if ctxGoesOn s s' c then
      match (Run.mk s' n c false none [] []).readMany a.h a.off (s.keyBytes t) a.n with
      | (keys, r) =>
        match r.readRows d.h d.off z a.n with
        | (rows, r) => r.s.setTbl fun y => { y with srcs := y.srcs ++ [⟨seq, keys, rows, false, none⟩] }
    else s'

/-- TGRAD (R248). -/
def execTgrad (n : CoreId) (w x : W64) (s : State) : Ans := .next (s.issueSource n w x 0xA1 128)

/-- TREPL (R256). -/
def execTrepl (n : CoreId) (w x : W64) (s : State) : Ans := .next (s.issueSource n w x 0xA3 64)

/-- TSTEP (R249, R359): the object is checked under R296 at issue. -/
def execTstep (n : CoreId) (w : W64) (s : State) : Ans :=
  .next (s.issue n w 0 (opRow 0xA2) fun s c f =>
    let m := (s.getS c f.a).toNat % 65536
    let o := (s.getS c f.b).toNat % 16384
    if s.ctrAllowed n c (ctrOf f 0) && !s.maskOff m && !s.soPermits (s.partOf (.ctx c)) o then s.precise c 0x0A o
    else s.compute n c .table 6 w 0 f [(s.maskOff m, some 1)])

/-- TPF (R242, R359): a slice above 63 is an invalid operand. -/
def execTpf (n : CoreId) (w : W64) (s : State) : Ans :=
  .next (s.issue n w 0 (opRow 0xA4) fun s c f =>
    s.compute n c .table 6 w 0 f [(decide (63 < (s.getS c f.a).toNat / 256), some 1)])

/-! ### The table port -/

/-- The source that an instruction has read. -/
def State.srcOfSeq (s : State) (seq : Nat) : Option TblSrc := s.tbl.srcs.find? fun x => decide (x.seq = seq)

/-- Change the source of an instruction. -/
def State.setSrc (s : State) (seq : Nat) (f : TblSrc → TblSrc) : State :=
  s.setTbl fun x => { x with srcs := x.srcs.map fun y => if y.seq = seq then f y else y }

/-- The table mask of a table-class instruction. -/
def Issued.tabMask (i : Issued) : Nat :=
  let op := (fieldsOf i.w).op
  if op = 0xA0 then i.rb.toNat % 65536
  else if op = 0xA2 then i.ra.toNat % 65536
  else 2 ^ (i.rb.toNat % 16)

/-- Requests that an instruction forms in all. -/
def Issued.requests (i : Issued) : Nat :=
  let op := (fieldsOf i.w).op
  if op = 0xA0 then (refOf i.ra).n * (maskTabs i.tabMask).length
  else if op = 0xA1 ∨ op = 0xA3 then (refOf i.ra).n
  else 0

/-- The check of its keys has failed (R228). -/
def State.keysBad (s : State) (i : Issued) : Bool :=
  match s.srcOfSeq i.seq with
  | none => false
  | some x => x.bad

/-- The instruction still has requests to form. -/
def State.forms (s : State) (i : Issued) : Bool := decide (i.done < i.requests) && !s.keysBad i

/-- Change a table-class instruction. -/
def State.setTabInstr (s : State) (n : CoreId) (seq : Nat) (f : Issued → Issued) : State :=
  s.setCore n fun k => { k with table := k.table.map fun i => if i.seq = seq then f i else i }

/-- The instruction of core `n` whose requests the port forms now: the first that has any left, if it has started (R344). -/
def State.portHead (s : State) (n : CoreId) : Option Issued :=
  match s.cores[n].table.find? fun i => !i.started || s.forms i with
  | none => none
  | some i => if i.started then some i else none

/-- A key of an instruction fails R228 against one of its tables in the bank active now. -/
def State.anyCoarse (s : State) (keys : List Nat) (m : Nat) : Bool :=
  keys.any fun k => (maskTabs m).any fun t => s.keyCoarse t (s.bankOf t) k

/-- The start of a table-class instruction (R311): a lookup's keys are read, every key is checked before a request is formed, and a step operation
goes to the engine. -/
def State.tableBegin (s : State) (n : CoreId) (i : Issued) : State :=
  let s := s.setTabInstr n i.seq fun i => { i with started := true, since := s.cycles n }
  let op := (fieldsOf i.w).op
  let m := i.tabMask
  if op = 0xA0 then
    let a := refOf i.ra
    match (Run.mk s n i.ctx false none [] []).readMany a.h a.off (s.maskKeyBytes m) a.n with
    | (keys, r) =>
      let s := r.s.setTabInstr n i.seq fun i => { i with spoilt := i.spoilt || r.seen.any i.wrote.contains }
      s.setTbl fun y => { y with srcs := y.srcs ++ [⟨i.seq, keys, [], r.s.anyCoarse keys m, r.bad⟩] }
  else if op = 0xA1 ∨ op = 0xA3 then s.setSrc i.seq fun x => { x with bad := s.anyCoarse x.keys m }
  else if op = 0xA2 then
    s.setTbl fun y => { y with steps := y.steps ++ [⟨n, i.ctx, i.seq, m, Fin.ofNat 16384 i.rb.toNat⟩] }
  else s

/-- The first table-class instruction that has not started starts, once every earlier one has formed its requests (R344). -/
def State.tableStart (s : State) (n : CoreId) : State :=
  match s.cores[n].table.find? fun i => !i.started || s.forms i with
  | none => s
  | some i => if i.started then s else s.tableBegin n i

/-! ### Lookups (R235 to R240) -/

/-- Write a row at a lookup's destination, poisoned where it could not be read; rows for a handle that is not pinned are discarded once the context has
been swapped out (R239, R240). -/
def State.deliverRow (s : State) (q : TblRead) (v : Nat) (poison : Bool) : State :=
  let h := s.handle q.ctx q.h
  let lost := s.cores[q.core].table.any fun i => decide (i.seq = q.seq) && i.lost
  if lost && !hPin h then s
  else
    let r := (Run.mk s q.core q.ctx false none [] []).write q.h q.o (bytesOf 64 v)
    let r := r.on fun s => (s.setTabInstr q.core q.seq fun i => { i with laid := r.laid ++ i.laid }).overwrite q.core q.ctx
      (fun i => decide ((fieldsOf i.w).op < 0xA0)) r.laid
    if poison then
      [q.o, q.o + 32].foldl (fun s o =>
        match rawAddr q.core h o with
        | none => s
        | some a => s.setPoison (a / 32)) r.s
    else r.s

/-- A lookup that met an uncorrectable error: its row is written poisoned and the instruction will raise the poison exception (R239). -/
def State.lookupBad (s : State) (q : TblRead) (a : Nat) : State :=
  (s.deliverRow q 0 true).setSrc q.seq fun x => { x with poison := some (x.poison.getD (a / 32 * 32)) }

/-- A lookup whose key is not valid: a zero row, counted (R236). -/
def State.lookupDrop (s : State) (q : TblRead) : State := (s.deliverRow q 0 false).bump TBL_TAB_STATUS.dropped [q.tab]

/-- Deliver a lookup's row from its slot. -/
def State.lookupRow (s : State) (q : TblRead) (tier slot : Nat) : State :=
  let a := s.rowSlotAddr q.tab q.bank tier slot
  match s.engNat a (slotBytes tier) with
  | (v, ok, s) => if ok then s.deliverRow q (rowFp16 tier v) false else s.lookupBad q a

/-- A lookup waits for a line of the engine's cache. -/
def State.waitLine (s : State) (q : TblRead) : State := s.setTbl fun x => { x with reads := x.reads ++ [q] }

/-- The engine resolves a lookup from the directory: acc is counted, then the row comes from the row cache (`cached`) or waits for its line (R235, R252). -/
def State.resolve (s : State) (q : TblRead) (cached : Bool) : State :=
  match s.getEntry q.tab q.bank q.row with
  | (e, ok, s) =>
    if !ok then s.lookupBad q (s.entryAddr q.tab q.bank q.row)
    else if e.tier = 0 then s.lookupDrop q
    else
      let s := if s.frozen q.tab q.bank then s else s.putEntry q.tab q.bank q.row { e with acc := min 15 (e.acc + 1) }
      if cached then
        let here (k : Sram) : Bool := decide (k = .rowLine q.tab q.bank q.row)
        let s := s.sramMeet here
        (if s.sramAny here then s.lookupBad q (s.rowSlotAddr q.tab q.bank e.tier e.slot) else s.lookupRow q e.tier e.slot).bump TBL_PERF.count [2]
      else s.waitLine { q with at' := some (e.tier, e.slot) }

/-- The key and table of request `k` of a lookup instruction, and its place at the destination (R234). -/
def Issued.request (i : Issued) (keys : List Nat) (k : Nat) : Nat × Nat :=
  let tabs := maskTabs i.tabMask
  (keys.getD (k / tabs.length) 0, tabs.getD (k % tabs.length) 0)

/-- A lookup request is formed and resolved, or waits (R235, R236). -/
def State.lookup (s : State) (n : CoreId) (i : Issued) (keys : List Nat) (dirHit rowHit : Bool) : State :=
  let d := refOf i.rc
  let (key, t) := i.request keys i.done
  let b := s.bankOf t
  let q : TblRead := ⟨n, i.ctx, i.seq, d.h, d.off + 64 * i.done, t, b, 0, none⟩
  let s := (s.setTabInstr n i.seq fun i => { i with done := i.done + 1 }).bump TBL_PERF.count [0]
  match s.rowOf t b key with
  | none => s.lookupDrop q
  | some row =>
    let q := { q with row := row }
    match (if s.tabCfg TBL_TAB_CFG.replicate t b = 1 then s.repOf t b row else none) with
    | some r =>
      let g := n.val / 4
      let s := s.setRep t b row fun r => { r with hits := r.hits.set! g (min 15 (r.hits[g]! + 1)) }
      let s := (s.bump TBL_PERF.count [1]).sramMeet (inRepOf g t b row)
      if s.sramAny (inRepOf g t b row) then
        match s.draw 48 with
        | (a, s) => s.lookupBad q a.toNat
      else s.deliverRow q r.val false
    | none => if dirHit then s.resolve q rowHit else s.waitLine q

/-- TABLE_REQUEST (R235): the port of core `n` forms its next lookup request; `dirHit` and `rowHit` say whether the engine's cache holds the
directory line and the row. With 64 misses outstanding a request that misses waits at the port (R238). -/
def execTableRequest (dt : Nat) (n : CoreId) (dirHit rowHit : Bool) (s : State) : Ans :=
  let s := s.advance dt
  .next (match s.portHead n with
    | none => s
    | some i =>
      if (fieldsOf i.w).op = 0xA0 ∧ ((dirHit && rowHit) = true ∨ s.tbl.reads.length < 64) then
        match s.srcOfSeq i.seq with
        | none => s
        | some x => s.lookup n i x.keys dirHit rowHit
      else s)

/-- ROW_CACHE_FILL (R238): the line that waiting lookup `j` missed arrives; a lookup resolved now may still miss its row. -/
def execRowCacheFill (dt : Nat) (j : Nat) (rowHit : Bool) (s : State) : Ans :=
  let s := s.advance dt
  .next (match s.tbl.reads[j]? with
    | none => s
    | some q =>
      let s := s.setTbl fun x => { x with reads := x.reads.eraseIdx j }
      match q.at' with
      | some (tier, slot) => s.lookupRow q tier slot
      | none => s.resolve q rowHit)

/-! ### Gradients (R248) -/

/-- Add gradients to sums, feature by feature in FP32. -/
def addSums (a g : List Nat) : List Nat :=
  (a.zip g).map fun p => fp32.write ((fp32.read p.1).add (fp32.read p.2))

/-- A pair is dropped. -/
def State.pairDrop (s : State) : State := s.bump TBL_STATUS.upd_dropped []

/-- A pair takes its place in the open half. -/
def State.pairPut (s : State) (t b row : Nat) (g : List Nat) : State :=
  let same (e : TblSum) : Bool := decide (e.tab = t ∧ e.bank = b ∧ e.row = row)
  if s.tbl.opened.any same then
    let here (k : Sram) : Bool := decide (k = .sums t b row)
    let s := s.sramMeet here
    if s.sramAny here then s.pairDrop
    else s.setTbl fun x => { x with opened := x.opened.map fun e => if same e then { e with sums := addSums e.sums g } else e }
  else if 2 ^ (s.reg TBL_VAULT.upd_log2 - 1) ≤ s.tbl.opened.length then s.bump TBL_STATUS.upd_overflow []
  else s.setTbl fun x => { x with opened := x.opened ++ [⟨t, b, row, g⟩] }

/-- A pair reaches the update buffer (R248, R239): one for a frozen table, an invalid key, an absent row or an unreadable source is dropped. -/
def State.pair (s : State) (t key : Nat) (g : Option Nat) : State :=
  let b := s.bankOf t
  match s.rowOf t b key, g with
  | some row, some g =>
    if s.frozen t b then s.pairDrop
    else
      match s.getEntry t b row with
      | (e, ok, s) => if ok && decide (e.tier ≠ 0) then s.pairPut t b row (lanesOf 32 32 g) else s.pairDrop
  | _, _ => s.pairDrop

/-- Form the next request of a gradient or replace instruction. -/
def State.nextPair (s : State) (n : CoreId) (op : Nat) (act : State → Issued → Nat → Option Nat → State) : State :=
  match s.portHead n with
  | none => s
  | some i =>
    if (fieldsOf i.w).op = op then
      match s.srcOfSeq i.seq with
      | none => s
      | some x =>
        act (s.setTabInstr n i.seq fun i => { i with done := i.done + 1 }) i (x.keys.getD i.done 0) (x.rows.getD i.done none)
    else s

/-- TABLE_GRADIENT_PAIR (R248). -/
def execTableGradientPair (dt : Nat) (n : CoreId) (s : State) : Ans :=
  .next ((s.advance dt).nextPair n 0xA1 fun s i k g => s.pair (i.rb.toNat % 16) k g)

/-! ### Replacement (R256) -/

/-- A row of the target of a rebuild is written as an absent row becomes present: a slot of its tier, or of a lower one (R257, R258). -/
def State.placeRow (s : State) (t b row acc : Nat) (l : List Val) (raw : Option Nat) : List Nat → State × Bool
  | [] => (s.putEntry t b row ⟨0, false, false, acc, 0⟩, false)
  | tier :: rest =>
    match s.popSlot t b tier with
    | (none, s) => s.placeRow t b row acc l none rest
    | (some slot, s) =>
      match (match raw with
        | some v => (v, s)
        | none => s.encodeRow tier l) with
      | (v, s) => ((s.putSlot t b tier slot v).putEntry t b row ⟨tier, false, false, acc, slot⟩, true)

/-- The tiers from `t` down. -/
def tiersFrom (t : Nat) : List Nat := [1, 2, 3].filter fun k => decide (t ≤ k)

/-- Clear the state of a row with clear_state. -/
def State.clearState (s : State) (t b row : Nat) (on : Bool) : State :=
  let z : List Val := List.replicate 32 (.num false 0 1)
  if on then s.putState t b row z z else s

/-- A row is made absent: its slot returns once its reads drain, replicas become invalid, and a migration of it is given up (R256). -/
def State.removeRow (s : State) (t b row : Nat) (e : Entry) : State :=
  let s := s.dropRep t b row
  let s := match s.migOf t b row with
    | none => s
    | some m =>
      (s.setTbl fun x => { x with migs := x.migs.filter fun m => !decide (m.tab = t ∧ m.bank = b ∧ m.row = row) }).pushSlot t b m.y m.b
  let s := s.putEntry t b row ⟨0, false, false, 0, 0⟩
  let s := s.setTbl fun x => { x with drains := x.drains ++ [⟨t, b, e.tier, e.slot, false⟩] }
  match s.mirrorOf t b row with
  | none => s
  | some _ =>
    match s.getEntry t (1 - b) row with
    | (f, _, s) =>
      if f.tier = 0 then s
      else (s.putEntry t (1 - b) row ⟨0, false, false, 0, 0⟩).pushSlot t (1 - b) f.tier f.slot

/-- A replace of a row in a native or compatibility bank (R253, R256). -/
def State.replaceRow (s : State) (t b row tier : Nat) (clear : Bool) (v : Nat) : State :=
  let l := rowVals 1 v
  match s.getEntry t b row with
  | (e, ok, s) =>
    if !ok then s.pairDrop
    else if e.tier ≠ 0 then
      if tier = 0 then
        if s.compat t b then s.clearState t b row clear else (s.removeRow t b row e).clearState t b row clear
      else
        match s.engNat (s.rowSlotAddr t b e.tier e.slot) (slotBytes e.tier) with
        | (_, ok, s) => if ok then (s.writeRow t b row e l).clearState t b row clear else s.pairDrop
    else if tier = 0 then s.clearState t b row clear
    else
      match s.popSlot t b tier with
      | (none, s) => s.pairDrop
      | (some slot, s) =>
        match s.encodeRow tier l with
        | (x, s) =>
          let s := (s.putSlot t b tier slot x).putEntry t b row ⟨tier, false, false, 0, slot⟩
          let s := match s.mirrorOf t b row with
            | none => s
            | some _ => (s.placeRow t (1 - b) row 0 l none (tiersFrom tier)).1
          s.clearState t b row clear

/-- A replace request (R236, R252, R256, R259): an invalid key or an unreadable source is dropped and counted; a frozen table stays as it is. -/
def State.replace (s : State) (t key tier : Nat) (clear : Bool) (v : Option Nat) : State :=
  let b := s.bankOf t
  match s.rowOf t b key, v with
  | some row, some v => if s.frozen t b then s else s.replaceRow t b row tier clear v
  | _, _ => s.pairDrop

/-- TABLE_REPLACE_REQUEST (R256). -/
def execTableReplaceRequest (dt : Nat) (n : CoreId) (s : State) : Ans :=
  .next ((s.advance dt).nextPair n 0xA3 fun s i k v =>
    let r := i.rb.toNat
    s.replace (r % 16) k (bitsOf r 5 4) (bitOf r 6) v)

/-! ### Steps (R249, R250) -/

/-- An entry joins a half: it is summed into the entry of its row there, if there is one. -/
def joinSum (l : List TblSum) (e : TblSum) : List TblSum :=
  let same (x : TblSum) : Bool := decide (x.tab = e.tab ∧ x.bank = e.bank ∧ x.row = e.row)
  if l.any same then l.map fun x => if same x then { x with sums := addSums x.sums e.sums } else x else l ++ [e]

/-- TABLE_STEP_START (R249): with no step running, the oldest step operation exchanges the halves. Entries that an earlier step left in the closed
half are taken by the first step that names their table; the rest stay where they are. -/
def execTableStepStart (dt : Nat) (s : State) : Ans :=
  let s := s.advance dt
  .next (match s.tbl.run, s.tbl.steps with
    | none, q :: l =>
      let cfg := s.csr
      let mine (e : TblSum) : Bool := bitOf q.mask e.tab
      let s := s.setTbl fun x => { x with
        steps := l, run := some (q, cfg), opened := x.closed.filter fun e => !mine e, closed := (x.closed.filter mine).foldl joinSum x.opened }
      (s.setTabInstr q.core q.seq fun i => { i with done := 1 }).setReg TBL_STATUS.step_busy [] 1
    | _, _ => s)

/-- FP32 operations, each rounded. -/
def fAdd (a b : Val) : Val := (a.add b).round fp32
/-- Difference. -/
def fSub (a b : Val) : Val := (a.sub b).round fp32
/-- Product. -/
def fMul (a b : Val) : Val := (a.mul b).round fp32
/-- Quotient. -/
def fDiv (a b : Val) : Val := (a.div b).round fp32
/-- Square root. -/
def fSqrt (a : Val) : Val := (a.sqrt 256).round fp32

/-- A power with one rounding. -/
def fPow (a : Val) (t : Nat) : Val :=
  match a with
  | .num neg n d => (Val.num (neg && decide (t % 2 = 1)) (n ^ t) (d ^ t)).round fp32
  | v => if t = 0 then .ofInt 1 else v

/-- The hyperparameters of a table as a step took them: η, β1, β2, ε, λ. -/
structure Hyper where
  eta : Val
  b1  : Val
  b2  : Val
  eps : Val
  lam : Val
  deriving DecidableEq, Repr

/-- The hyperparameters in TBL_TAB_OPT as they stood. -/
def hyperOf (c : Csr) (t : Nat) : Hyper :=
  let f (x : Fld) : Val := fp32.read (csrGet c x [t])
  ⟨f TBL_TAB_OPT.eta, f TBL_TAB_OPT.beta1, f TBL_TAB_OPT.beta2, f TBL_TAB_OPT.eps, f TBL_TAB_OPT.lambda⟩

/-- One feature of a step (Table 9-4): the new w, m and v. -/
def stepFeature (opt : Nat) (h : Hyper) (t : Nat) (w m v g : Val) : Val × Val × Val :=
  let one : Val := .ofInt 1
  let decay := fMul h.lam w
  match opt with
  | 0 => (fSub w (fMul h.eta (fAdd g decay)), m, v)
  | 1 =>
    let m := fAdd (fMul h.b1 m) g
    (fSub w (fMul h.eta (fAdd m decay)), m, v)
  | _ =>
    let m := fAdd (fMul h.b1 m) (fMul (fSub one h.b1) g)
    let v := fAdd (fMul h.b2 v) (fMul (fSub one h.b2) (fMul g g))
    let c1 := fDiv one (fSub one (fPow h.b1 t))
    let c2 := fDiv one (fSub one (fPow h.b2 t))
    let q := fDiv (fMul m c1) (fAdd (fSqrt (fMul v c2)) h.eps)
    (fSub w (fMul h.eta (fAdd q decay)), m, v)

/-- The features of a step. -/
def stepRow (opt : Nat) (h : Hyper) (t : Nat) : List Val → List Val → List Val → List Val → List (Val × Val × Val)
  | w :: ws, m :: ms, v :: vs, g :: gs => stepFeature opt h t w m v g :: stepRow opt h t ws ms vs gs
  | _, _, _, _ => []

/-- Bytes 192 to 255 of a compatibility record with two moments are zero (R253). -/
def State.zeroTail (s : State) (t b row : Nat) : State :=
  if s.compat t b && decide (s.tabCfg TBL_TAB_CFG.opt t b = 2) then s.engPut (s.rowSlotAddr t b 1 row + 192) 64 0 else s

/-- Apply one entry of the closed half (R239, R250, R252). -/
def State.applySum (s : State) (c : Csr) (q : TblSum) : State :=
  let here (k : Sram) : Bool := decide (k = .sums q.tab q.bank q.row)
  let s := s.sramMeet here
  let lost := s.sramAny here
  let s := s.sramFresh here
  if s.frozen q.tab q.bank then s
  else if lost then s.pairDrop
  else
    match s.getEntry q.tab q.bank q.row with
    | (e, ok, s) =>
      if ok && decide (e.tier = 0) then s
      else
        match s.engNat (s.rowSlotAddr q.tab q.bank e.tier e.slot) (slotBytes e.tier) with
        | (v, ok1, s) =>
          match s.getMoment q.tab q.bank q.row 0 with
          | (m, ok2, s) =>
            match s.getMoment q.tab q.bank q.row 1 with
            | (u, ok3, s) =>
              if ok && ok1 && ok2 && ok3 then
                let opt := s.tabCfg TBL_TAB_CFG.opt q.tab q.bank
                let r := stepRow opt (hyperOf c q.tab) (s.reg TBL_TAB_STEPS.steps [q.tab]) (rowVals e.tier v) m u (ofFp32 q.sums)
                let s := s.writeRow q.tab q.bank q.row e (r.map (·.1))
                let s := s.putState q.tab q.bank q.row (r.map (·.2.1)) (r.map (·.2.2))
                (s.zeroTail q.tab q.bank q.row).bump TBL_PERF.count [5]
              else s.pairDrop

/-- TABLE_STEP_DONE (R249, R250): steps of each table in the mask counts, the closed half's rows of those tables are optimised, and the object
advances. -/
def execTableStepDone (dt : Nat) (s : State) : Ans :=
  let s := s.advance dt
  .next (match s.tbl.run with
    | none => s
    | some (q, cfg) =>
      let s := (maskTabs q.mask).foldl (fun s t => s.bump TBL_TAB_STEPS.steps [t]) s
      let mine (e : TblSum) : Bool := bitOf q.mask e.tab
      let l := s.tbl.closed.filter mine
      let s := s.setTbl fun x => { x with run := none, closed := x.closed.filter fun e => !mine e }
      let s := l.foldl (fun s e => s.applySum cfg e) s
      (s.setReg TBL_STATUS.step_busy [] 0).soCome q.obj.val .add 1)

/-! ### Sweep, replication, migration (R243 to R247) -/

/-- The sweep visits the table: enabled, not frozen, native (R245, R252, R253). -/
def State.swept (s : State) (t : Nat) : Bool :=
  let b := s.bankOf t
  s.tabOn t && !s.frozen t b && !s.compat t b

/-- The table and row that the sweep visits next, from a cursor. -/
def State.sweepNext (s : State) : Option (Nat × Nat) :=
  let (t, row) := s.tbl.sweep
  if t < 16 ∧ s.swept t = true ∧ row < s.tabRows t (s.bankOf t) then some (t, row)
  else (((List.range 16).map fun i => (t + 1 + i) % 16).find? fun u => s.swept u).map fun u => (u, 0)

/-- Replication at a visit (R244): hit counts join acc; the row gains or loses its replicas. -/
def State.replicateRow (s : State) (t b row : Nat) (e : Entry) : Entry × State :=
  if s.tabCfg TBL_TAB_CFG.replicate t b = 0 then (e, s)
  else
    let hits := match s.repOf t b row with
      | none => 0
      | some r => r.hits.toList.foldl (· + ·) 0
    let s := s.setRep t b row fun r => { r with hits := Vector.replicate 8 0 }
    let e := { e with acc := min 15 (e.acc + hits) }
    let thr := s.reg TBL_TAB_CTL.rep_thr [t]
    if e.rep then (if e.acc < thr then ({ e with rep := false }, s.dropRep t b row) else (e, s))
    else if e.tier = 1 ∧ thr ≤ e.acc then
      match s.repFree t row with
      | none => (e, s.bump TBL_STATUS.rep_fail [])
      | some p =>
        match s.engNat (s.rowSlotAddr t b 1 e.slot) 64 with
        | (v, ok, s) =>
          if ok then
            ({ e with rep := true }, s.setTbl fun x => { x with reps := x.reps ++ [⟨t, b, row, p, v, Vector.replicate 8 0⟩] })
          else (e, s)
    else (e, s)

/-- The tier to which a visit moves a row (R245): up where acc has reached prom_thr, else down where it is at most dem_thr. -/
def State.moveTo (s : State) (t : Nat) (e : Entry) : Option Nat :=
  if e.mig then none
  else if 1 < e.tier ∧ s.reg TBL_TAB_CTL.prom_thr [t] ≤ e.acc then some (e.tier - 1)
  else if e.tier < 3 ∧ e.acc ≤ s.reg TBL_TAB_CTL.dem_thr [t] then some (e.tier + 1)
  else none

/-- A copy's packet goes from the table engine to where its data lie, in class C2 (R24, Table 1-3). -/
def State.sendCopy (s : State) (a : Nat) : Nat × State :=
  let id := s.stamp
  let s := { s with stamp := id + 1 }
  (id, match s.placeOfAddr 0 a with
    | some d => s.meshEnter id .c2 (attachment .tableEngine) (placeAt d) s.fclk
    | none => s)

/-- A migration begins, or is deferred (R246, R247): step 1, and the read of the copy. -/
def State.migBegin (s : State) (t b row : Nat) (e : Entry) (y : Nat) : Entry × State :=
  if 64 ≤ s.tbl.migs.length ∨ s.top t b y = 0 then (e, s.bump TBL_STATUS.mig_deferred [])
  else
    match s.popSlot t b y with
    | (none, s) => (e, s)
    | (some slot, s) =>
      match s.engNat (s.rowSlotAddr t b e.tier e.slot) (slotBytes e.tier) with
      | (v, ok, s) =>
        let val := if ok then some (toFp32 (rowVals e.tier v)) else none
        match s.sendCopy (s.rowSlotAddr t b y slot) with
        | (id, s) =>
          ({ e with mig := true },
            s.setTbl fun x => { x with migs := x.migs ++ [⟨t, b, row, e.tier, e.slot, y, slot, val, false, none, id⟩] })

/-- A visit to a row. -/
def State.visit (s : State) (t row : Nat) : State :=
  let b := s.bankOf t
  match s.getEntry t b row with
  | (e, ok, s) =>
    if !ok || decide (e.tier = 0) then s
    else
      match s.replicateRow t b row e with
      | (e, s) =>
        match (match s.moveTo t e with
          | none => (e, s)
          | some y => s.migBegin t b row e y) with
        | (e, s) => s.putEntry t b row { e with acc := e.acc / 2 }

/-- SWEEP_VISIT (R245): at sweep_rate entries per µs, that is not before 250 / sweep_rate TCLK edges after the visit before. -/
def execSweepVisit (dt : Nat) (s : State) : Ans :=
  let s := s.advance dt
  .next (if (s.clk.tclk - s.tbl.sweepT) * s.reg TBL_CTRL.sweep_rate < 250 then s
    else
      match s.sweepNext with
      | none => s
      | some (t, row) =>
        let s := s.setTbl fun x => { x with sweep := (t, row + 1), sweepT := s.clk.tclk }
        s.visit t row)

/-- MIGRATION_COPY_DONE (R239, R246): the copy of migration `j`, through the mesh, lands; where the row could not be read, the migration is abandoned. -/
def execMigrationCopyDone (dt : Nat) (j : Nat) (s : State) : Ans :=
  let s := s.advance dt
  .next (match s.tbl.migs[j]? with
    | none => s
    | some m =>
      if m.copied || !s.through m.seq then s
      else
        match m.val with
        | some v =>
          match s.encodeRow m.y (ofFp32 v) with
          | (x, s) => (s.putSlot m.tab m.bank m.y m.b x).setMig m.tab m.bank m.row fun m => { m with copied := true }
        | none =>
          let s := s.setTbl fun x => { x with migs := x.migs.eraseIdx j }
          let s := s.pushSlot m.tab m.bank m.y m.b
          match s.getEntry m.tab m.bank m.row with
          | (e, _, s) => s.putEntry m.tab m.bank m.row { e with mig := false })

/-- MIGRATION_FLIP (R246): replicas become invalid, a buffered result is replayed, and the entry names the new slot. -/
def execMigrationFlip (dt : Nat) (j : Nat) (s : State) : Ans :=
  let s := s.advance dt
  .next (match s.tbl.migs[j]? with
    | none => s
    | some m =>
      if !m.copied then s
      else
        let s := s.dropRep m.tab m.bank m.row
        let s := match m.res with
          | none => s
          | some r =>
            match s.encodeRow m.y (ofFp32 r) with
            | (x, s) => s.putSlot m.tab m.bank m.y m.b x
        match s.getEntry m.tab m.bank m.row with
        | (e, _, s) =>
          let s := s.putEntry m.tab m.bank m.row ⟨m.y, false, false, e.acc, m.b⟩
          s.setTbl fun x => { x with migs := x.migs.eraseIdx j, drains := x.drains ++ [⟨m.tab, m.bank, m.x, m.a, true⟩] })

/-- MIGRATION_SLOT_RELEASE (R246): once no lookup reads the old slot, it returns to its free stack. -/
def execMigrationSlotRelease (dt : Nat) (j : Nat) (s : State) : Ans :=
  let s := s.advance dt
  .next (match s.tbl.drains[j]? with
    | none => s
    | some d =>
      if s.tbl.reads.any fun q => decide (q.tab = d.tab ∧ q.bank = d.bank ∧ q.at' = some (d.tier, d.slot)) then s
      else
        let s := s.setTbl fun x => { x with drains := x.drains.eraseIdx j }
        let s := s.pushSlot d.tab d.bank d.tier d.slot
        if d.mig then s.bump TBL_PERF.count [4] else s)

/-! ### Versions (R254, R255) -/

/-- A committed change of sel takes effect for one table: the new bank is activated, unless the engine holds it already. -/
def State.switchTab (s : State) (t : Nat) : State :=
  let sel := s.reg TBL_TAB_CTL.sel [t]
  let old := s.bankOf t
  if sel = old then s
  else
    let live := s.bit TBL_TAB_STATUS.draining [t] || s.tbl.rebs.any fun r => decide (r.tab = t) && r.mirror
    let s := if live then s else s.initTops t sel
    let s := if s.tbl.rebs.any (fun r => decide (r.tab = t) && r.busy) then s.setReg TBL_STATUS.rb_busy [] 0 else s
    let s := s.setTbl fun x => { x with rebs := x.rebs.filter fun r => decide (r.tab ≠ t) }
    (s.setReg TBL_TAB_STATUS.active [t] sel).setReg TBL_TAB_STATUS.draining [t] 1

/-- Step 4 of R38 (R254). -/
def State.switchBanks (s : State) : State := (List.range 16).foldl (fun s t => s.switchTab t) s

/-- An operation bound to a bank, or a step's entry, remains (R255). -/
def State.bankBusy (s : State) (t b : Nat) : Bool :=
  s.tbl.reads.any (fun q => decide (q.tab = t ∧ q.bank = b)) || (s.tbl.opened ++ s.tbl.closed).any (fun e => decide (e.tab = t ∧ e.bank = b)) ||
    s.tbl.migs.any (fun m => decide (m.tab = t ∧ m.bank = b)) || s.tbl.drains.any (fun d => decide (d.tab = t ∧ d.bank = b))

/-- BANK_RETIRE (R255). -/
def execBankRetire (dt : Nat) (t : Fin 16) (s : State) : Ans :=
  let s := s.advance dt
  let i := [t.val]
  let b := 1 - s.bankOf t.val
  .next (if s.bit TBL_TAB_STATUS.draining i && !s.bankBusy t.val b then
      let s := s.setTbl fun x => { x with reps := x.reps.filter fun r => !decide (r.tab = t.val ∧ r.bank = b) }
      (s.setReg TBL_TAB_STATUS.draining i 0).wrap TBL_TAB_STATUS.ver i
    else s)

/-! ### Rebuild (R257, R258) -/

/-- The arrangement that a rebuild requires (R257). -/
def State.rebuildOk (s : State) (t : Nat) : Bool :=
  let a := s.bankOf t
  let b := 1 - a
  let same (f : Fld) : Bool := decide (s.reg f [t, a] = s.reg f [t, b])
  decide (s.tabCfg TBL_TAB_CFG.en t b = 1 ∧ s.tabCfg TBL_TAB_CFG.mode t a = 0 ∧ s.tabCfg TBL_TAB_CFG.mode t b = 0) &&
    same TBL_TAB_CFG.rows_log2 && same TBL_TAB_CFG.index && same TBL_TAB_CFG.res_shift && same TBL_TAB_HASH.tab_seed &&
    !s.tbl.rebs.any (·.busy)

/-- A rebuild of a table starts, or is refused. -/
def State.rebuildStart (s : State) (t : Nat) : State :=
  if s.rebuildOk t then
    let a := s.bankOf t
    let s := s.initTops t (1 - a)
    match s.sendCopy (s.entryAddr t a 0) with
    | (id, s) =>
    let s := s.setTbl fun x => { x with rebs := (x.rebs.filter fun r => decide (r.tab ≠ t)) ++ [⟨t, a, 0, true, true, id⟩] }
    ((s.setReg TBL_STATUS.rb_table [] t).setReg TBL_STATUS.rb_busy [] 1).setReg TBL_STATUS.rb_done [] 0
  else s.setReg TBL_STATUS.rb_err [] 1

/-- Mirroring into the target ends (R258); a rebuild that has copied every row is over. -/
def State.rebuildStop (s : State) (t : Nat) : State :=
  s.setTbl fun x => { x with
    rebs := (x.rebs.map fun r => if r.tab = t then { r with mirror := false } else r).filter fun r => r.busy || r.mirror }

/-- A write of TBL_REBUILD: stop acts before start. -/
def onRebuild (s : State) (w : Wr) (idx : List Nat) : State :=
  let s := plainWrite s w idx
  let t := s.reg TBL_REBUILD.table
  let s := if w.sets TBL_REBUILD.stop then s.rebuildStop t else s
  if w.sets TBL_REBUILD.start then s.rebuildStart t else s

/-- REBUILD_START (R257): a write of TBL_REBUILD with start 1. -/
def execRebuildStart (a : Agent) (v : BitVec 32) (s : State) : Ans :=
  .next (s.writeNamed a .TBL_REBUILD [] .whole (v ||| (1#32 <<< 31)).toNat onRebuild)

/-- REBUILD_STOP (R258): a write of TBL_REBUILD with stop 1. -/
def execRebuildStop (a : Agent) (v : BitVec 32) (s : State) : Ans :=
  .next (s.writeNamed a .TBL_REBUILD [] .whole (v ||| (1#32 <<< 30)).toNat onRebuild)

/-- Change the running rebuild. -/
def State.setReb (s : State) (f : TblReb → TblReb) : State :=
  s.setTbl fun x => { x with rebs := x.rebs.map fun r => if r.busy then f r else r }

/-- The state of a row is copied into the other bank (R251, R257). -/
def State.copyMoments (s : State) (t src row : Nat) : State :=
  match s.getMoment t src row 0 with
  | (m, _, s) =>
    match s.getMoment t src row 1 with
    | (u, _, s) => (s.putMoment t (1 - src) row 0 m).putMoment t (1 - src) row 1 u

/-- Copy one row with its acc and its state (R257): in its tier or a lower one; where none has room, or the row cannot be read, it is made
absent and counted; a row that is absent stays so. -/
def State.copyRow (s : State) (r : TblReb) : State :=
  let t := r.tab
  let b := 1 - r.src
  match s.getEntry t r.src r.next with
  | (e, ok, s) =>
    if ok && decide (e.tier = 0) then (s.putEntry t b r.next ⟨0, false, false, e.acc, 0⟩).copyMoments t r.src r.next
    else
      match s.engNat (s.rowSlotAddr t r.src e.tier e.slot) (slotBytes e.tier) with
      | (v, ok1, s) =>
        match s.placeRow t b r.next e.acc (rowVals e.tier v) (some v) (if ok && ok1 then tiersFrom e.tier else []) with
        | (s, placed) =>
          let s := if placed then s else s.bump TBL_STATUS.rb_lost []
          s.copyMoments t r.src r.next

/-- REBUILD_ROW_COPY (R257): a row whose packet is through the mesh; the next one's is sent. -/
def execRebuildRowCopy (dt : Nat) (s : State) : Ans :=
  let s := s.advance dt
  .next (match s.tbl.rebs.find? fun r => r.busy && decide (r.next < s.tabRows r.tab r.src) with
    | none => s
    | some r =>
      if !s.through r.seq then s
      else if s.tabRows r.tab r.src ≤ r.next + 1 then (s.copyRow r).setReb fun r => { r with next := r.next + 1 }
      else
        match (s.copyRow r).sendCopy (s.entryAddr r.tab r.src (r.next + 1)) with
        | (id, s) => s.setReb fun r => { r with next := r.next + 1, seq := id })

/-- REBUILD_DONE (R258): the last row has been copied. -/
def execRebuildDone (dt : Nat) (s : State) : Ans :=
  let s := s.advance dt
  .next (match s.tbl.rebs.find? fun r => r.busy && decide (s.tabRows r.tab r.src ≤ r.next) with
    | none => s
    | some _ =>
      let s := s.setTbl fun x => { x with rebs := (x.rebs.map fun r => { r with busy := false }).filter (·.mirror) }
      (s.setReg TBL_STATUS.rb_done [] 1).setReg TBL_STATUS.rb_busy [] 0)

/-! ### Prefetch and completion -/

/-- The rows that a prefetch brings into the cache (R242): for each listed key and each enabled table with prefetch 1, a present row. -/
def State.prefetchKeys (s : State) (a : Nat) : Nat → State
  | 0 => s
  | k + 1 =>
    match s.engNat a 8 with
    | (key, _, s) =>
      let s := ((List.range 16).filter fun t => s.tabOn t && decide (s.tabCfg TBL_TAB_CFG.prefetch t (s.bankOf t) = 1)).foldl (fun s t =>
        let b := s.bankOf t
        if s.direct t b || s.keyCoarse t b key then s
        else
          match s.rowOf t b key with
          | none => s
          | some row =>
            match s.getEntry t b row with
            | (e, ok, s) => if ok && decide (e.tier ≠ 0) then s.bump TBL_PERF.count [3] else s) s
      s.prefetchKeys (a + 8) k

/-- The key list of a point buffer and slice is read (R241, R242). -/
def State.prefetch (s : State) (v : Nat) : State :=
  let a := s.reg TBL_PF_BASE.base * 2 ^ 25 + (64 * (v % 4) + bitsOf v 13 8) * 131072
  match s.engNat a 4 with
  | (k, _, s) => s.prefetchKeys (a + 8) (min k 16383)

/-- A table-class instruction has reached its completion point (Table 13-5): every row written, pair accepted, replace executed; the half exchanged. -/
def State.tableDone (s : State) (i : Issued) : Bool :=
  i.started && (s.keysBad i || (!s.forms i && !s.tbl.reads.any (fun q => decide (q.seq = i.seq)) &&
    (decide ((fieldsOf i.w).op ≠ 0xA2) || decide (i.done = 1))))

/-- TABLE_CLASS_COMPLETE (R342): the table-class instruction `j` of core `n`. -/
def execTableClassComplete (dt : Nat) (n : CoreId) (j : Nat) (s : State) : Ans :=
  let s := s.advance dt
  .next (match s.cores[n].table[j]? with
    | none => s
    | some i =>
      if s.tableDone i then
        let bad := s.keysBad i
        let exc : List (Nat × Nat) := if bad then [(0x04, opInfo 6 1)] else
          match s.srcOfSeq i.seq with
          | some ⟨_, _, _, _, some a⟩ => [(0x05, poisonInfo 6 a)]
          | _ => []
        let s := if (fieldsOf i.w).op = 0xA4 then s.prefetch i.ra.toNat else s
        let s := s.setTbl fun x => { x with srcs := x.srcs.filter fun y => decide (y.seq ≠ i.seq) }
        let s := if i.spoilt || i.laid.any i.wrote.contains then s.undo i i.laid.eraseDups else s
        let s := s.setCore n fun k => { k with table := k.table.eraseIdx j }
        let s := if bad then s else s.advanceCtr n (ctrOf (fieldsOf i.w) i.x)
        (exc.foldl (fun s (e : Nat × Nat) => s.completion i.ctx e.1 e.2 i.pc) s).settle i.ctx
      else s)

/-- A write of TBL_CTRL: perf_clr clears TBL_PERF and the counters of TBL_STATUS (R260). -/
def onTblCtrl (s : State) (w : Wr) (idx : List Nat) : State :=
  let s := plainWrite s w idx
  if w.sets TBL_CTRL.perf_clr then
    let s := (List.range 9).foldl (fun s c => s.setReg TBL_PERF.count [c] 0) s
    [TBL_STATUS.upd_overflow, TBL_STATUS.mig_deferred, TBL_STATUS.rep_fail, TBL_STATUS.rb_lost, TBL_STATUS.upd_dropped].foldl
      (fun s f => s.setReg f [] 0) s
  else s

/-- TBL_PERF_CLR (R260): a write of TBL_CTRL with perf_clr 1. -/
def execTblPerfClr (a : Agent) (v : BitVec 32) (s : State) : Ans :=
  .next (s.writeNamed a .TBL_CTRL [] .whole (v ||| (1#32 <<< 31)).toNat onTblCtrl)

end Sys2Proof.Machine
end

