-- ==== Sys2Proof/Machine/Arrays.lean ====
section
/-! DEFINITION. Machine/Arrays.lean: what the matrix arrays and the matrix-vector path compute (R145 to R170, R181 to R204, R347 to
R352), the start of compute instructions (R343) and the events of the arrays. -/
namespace Sys2Proof.Machine
open Reg

/-! ### The accumulator buffer -/

/-- An accumulator entry's bits; one that nothing has written reads zero (R390). -/
def State.accGet (s : State) (n : CoreId) (e : Nat) : Nat := (alookup e s.cores[n].acc).getD 0

/-- Write an entry with its poison mark (R169). -/
def State.accPut (s : State) (n : CoreId) (e v : Nat) (bad : Bool) : State :=
  s.setCore n fun k => { k with
    acc := aset e (v % 2 ^ 32) 0 k.acc
    accBad := if bad then insertNat e k.accBad else k.accBad.filter fun x => decide (x ≠ e) }

/-- An entry is marked poisoned. -/
def State.accIsBad (s : State) (n : CoreId) (e : Nat) : Bool := s.cores[n].accBad.contains e

/-- The format of the entries. -/
def accNum (int : Bool) : Num := if int then .int 32 else .flt fp32

/-! ### Cells (R147, R148, R161, R165 to R167) -/

/-- The exact sum of some products and a partial, rounded once. -/
def cellSum (int : Bool) (p : Val) (l : List (Val × Val)) : Val × Tally :=
  roundSum int (l.foldl (fun a e => a.add (e.1.mul e.2)) p)

/-- A chain of cells of `z` products each. -/
def chain (int : Bool) (z : Nat) : Nat → Val → List (Val × Val) → Val × Tally
  | 0, p, _ => (p, .zero)
  | _, p, [] => (p, .zero)
  | fuel + 1, p, l =>
    match cellSum int p (l.take z) with
    | (p, t) =>
      match chain int z fuel p (l.drop z) with
      | (p, u) => (p, t.plus u)

/-- The sum a pass forms of (weight, activation) pairs: `z` products a cell, zeros up to `width`. -/
def passSum (int : Bool) (z width : Nat) (l : List (Val × Val)) : Val × Tally :=
  let zero : Val := .num false 0 1
  chain int z width zero (l ++ List.replicate (width - l.length) (zero, zero))

/-- Products of a cell: 4, in W4A4 8; in transpose mode a sum takes one column of a row at a time. -/
def cellOf (k : WKind) (transpose : Bool) : Nat := if transpose then 1 else if k = .w4a4 then 8 else 4

/-- A4 and W4 of a test strip: sat((v + 8) >> 4) (R202). -/
def strip4 (v : Int) : Int := clampInt (-8) 7 ((v + 8) / 16)

/-! ### The plan of an instruction -/

/-- One pass as it reaches one output group: the channels it reduces, the outputs it forms, whether its weights carry poison, and its
number among the passes over one m-block. -/
structure Part where
  red  : List Nat
  out  : List Nat
  bad  : Bool
  pass : Nat
  deriving DecidableEq, Repr

/-- An output group: its number, the outputs it stores, its passes in order, and the number of the pass after which it is complete; none
where a malformed tile keeps it from being completed. -/
structure OutGroup where
  j     : Nat
  outs  : List Nat
  parts : List Part
  last  : Option Nat
  deriving DecidableEq, Repr

/-- A row an instruction deals: its row of X, its target row. -/
abbrev RowPair := Nat × Nat

/-- Everything the passes of one instruction work on: its descriptor and mode, its weights by (k, n), its activations and their poison
by (row, channel), its output groups, and whether its region is resident. -/
structure Work where
  t     : TileD
  p     : Mode
  w     : Nat → Nat → Val
  x     : Nat → Nat → Val
  xBad  : Nat → Nat → Option Nat
  plan  : List OutGroup
  res   : Bool
  slot  : Fin 4

/-- The (weight, activation) pairs of a row and an output in a pass. -/
def Work.pairs (k : Work) (row out : Nat) (red : List Nat) : List (Val × Val) :=
  red.map fun r => (if k.t.transpose then k.w out r else k.w r out, k.x row r)

/-- The sum of a row and an output over a pass. -/
def Work.sum (k : Work) (row out : Nat) (red : List Nat) : Val × Tally :=
  passSum k.p.int (cellOf k.p.kind k.t.transpose) (if k.t.transpose then k.p.g else k.p.cap) (k.pairs row out red)

/-- Outputs of Y rounded up to whole groups. -/
def Work.width (k : Work) : Nat := k.p.gsz k.t.transpose * ceilDiv k.t.cout (k.p.gsz k.t.transpose)

/-- The entry of target row `m` (from the first row of the region or of the m-block), output `o`, in output group `q` of the
instruction's succession of groups (R156). -/
def Work.entry (k : Work) (s : State) (n : CoreId) (q m o : Nat) : Nat :=
  let base := ((s.accWindow n k.slot).1 + k.t.accOff) / 4
  if k.res then base + m * k.width + o
  else
    let g := k.p.gsz k.t.transpose
    base + q % 2 * (k.t.accSize / 8) + m * g + o % g

/-- One sum joins its entry: it is written where it is the entry's first and there is nothing to add to, else added. -/
def Work.join (k : Work) (n : CoreId) (e : Nat) (first bad : Bool) (v : Val × Tally) (s : State) : State :=
  let f := accNum k.p.int
  if first then ((s.accPut n e (f.put v.1).1 bad).tallyAcc n v.2).tallyAcc n { Tally.zero with nan := if v.1.isNan then 1 else 0 }
  else
    match accAdd k.p.int (f.read (s.accGet n e)) v.1 with
    | (u, t) => (s.accPut n e (f.put u).1 (bad || s.accIsBad n e)).tallyAcc n (v.2.plus t)

/-- The rows in an order that arbitration chooses, where several may meet in one entry (R168, R192): by a free value each. -/
def State.shuffle (s : State) : List RowPair → List (Nat × RowPair) × State
  | [] => ([], s)
  | r :: l =>
    match s.draw 32 with
    | (q, s) =>
      match s.shuffle l with
      | (t, s) => ((q.toNat, r) :: t, s)

/-- Insert by a key. -/
def byKey (e : Nat × RowPair) : List (Nat × RowPair) → List (Nat × RowPair)
  | [] => [e]
  | a :: l => if e.1 < a.1 then e :: a :: l else a :: byKey e l

/-- The rows of a pass in the order in which their sums reach the accumulator. -/
def State.passRows (s : State) (scatter : Bool) (l : List RowPair) : List RowPair × State :=
  if scatter then
    match s.shuffle l with
    | (q, s) => ((q.foldl (fun a e => byKey e a) []).map (·.2), s)
  else (l, s)

/-- The poison a pass meets in its activations. -/
def Work.passBad (k : Work) (rows : List RowPair) (red : List Nat) : Option Nat :=
  rows.findSome? fun r => red.findSome? fun c => k.xBad r.1 c

/-- The accumulator lines of a pass's outputs: outputs that share a 64-byte line (R192). -/
def outLines (out : List Nat) : List (List Nat) := (out.map (· / 16)).eraseDups.map fun l => out.filter fun o => decide (o / 16 = l)

/-- The passes of an output group over some rows; `seen` are the outputs that earlier passes of the group have written; `gather` says
that entries are added to through the bank queues in gather form, the updates of each line in an order of its own. Poison met is noted. -/
def Work.passes (k : Work) (n : CoreId) (q : Nat) (off : Nat) (rows : List RowPair) (gather : Bool) :
    List Nat → List Part → State × Option Nat → State × Option Nat
  | _, [], a => a
  | seen, p :: l, (s, bad) =>
    let xb := k.passBad rows p.red
    let pb := p.bad || xb.isSome || s.cores[n].cellBad
    let s := (outLines p.out).foldl (fun s out =>
      match s.passRows gather rows with
      | (order, s) =>
        order.foldl (fun s r => out.foldl (fun s o =>
          let first := !k.t.accIn && !gather && !seen.contains o
          k.join n (k.entry s n q (r.2 - off) o) first pb (k.sum r.1 o p.red) s) s) s) s
    k.passes n q off rows gather (seen ++ p.out) l (s, bad.or xb)

/-- Entries of a group that no pass writes hold zero (a group whose union is empty, or an output no set names). -/
def Work.zeros (k : Work) (n : CoreId) (q off : Nat) (rows : List RowPair) (g : OutGroup) (s : State) : State :=
  let left := g.outs.filter fun o => !g.parts.any fun p => p.out.contains o
  if k.t.accIn then s
  else rows.foldl (fun s r => left.foldl (fun s o => s.accPut n (k.entry s n q (r.2 - off) o) 0 false) s) s

/-! ### Drain (R158, R170, R204) -/

/-- R170 steps 1 and 2. -/
def stepV (sb : Option (Val × Val)) (relu int : Bool) (acc : Val) : Val :=
  let v :=
    match sb with
    | none => acc
    | some (sc, b) => ((if int then acc.round fp32 else acc).mul sc |>.add b).round fp32
  if relu then (if v.isNan then v else if v.lt (.num false 0 1) then .num false 0 1 else v.abs) else v

/-- Bytes written so far by a drain: (byte in the handle, value). -/
abbrev Bytes := List (Nat × Nat)

/-- Put an element of `b` bits at bit `o`; a nibble keeps the other nibble of its byte. -/
def Run.putElem (r : Run) (h o b v : Nat) (m : Bytes) : Bytes :=
  if b = 4 then
    let old := (alookup (o / 8) m).getD (r.s.peekNat r.n r.c h (o / 8) 1)
    aput (o / 8) (if o % 8 = 0 then old / 16 * 16 + v % 16 else old % 16 + v % 16 * 16) m
  else (List.range (b / 8)).foldl (fun m i => aput (o / 8 + i) (v / 256 ^ i % 256) m) m

/-- Write collected bytes, each run of neighbours at once. -/
def Run.putBytes (r : Run) (h : Nat) : Option (Nat × List Byte) → Bytes → Run
  | none, [] => r
  | some (o, bs), [] => r.write h o bs.reverse
  | none, (a, v) :: l => r.putBytes h (some (a, [BitVec.ofNat 8 v])) l
  | some (o, bs), (a, v) :: l =>
    if a = o + bs.length then r.putBytes h (some (o, BitVec.ofNat 8 v :: bs)) l
    else (r.write h o bs.reverse).putBytes h (some (a, [BitVec.ofNat 8 v])) l

/-- The scale and bias vectors of an instruction. -/
def Run.scales (r : Run) (t : TileD) : List (Val × Val) × Run :=
  if !t.sbEn then ([], r)
  else
    match r.readMany t.sbH 0 4 t.cout with
    | (a, r) =>
      match r.readMany t.sbH (4 * t.cout) 4 t.cout with
      | (b, r) => ((a.zip b).map fun e => (fp32.read e.1, fp32.read e.2), r)

/-- The scale and bias of an output. -/
def sbOf (t : TileD) (sb : List (Val × Val)) (o : Nat) : Option (Val × Val) := if t.sbEn then sb[o]? else none

/-- What a drain has formed: bytes of Y and of the strip copy, poisoned places of both, saturations. -/
structure Drained where
  y   : Bytes
  sc  : Bytes
  yb  : List Nat
  scb : List Nat
  cvt : Nat
  deriving DecidableEq, Repr

/-- One output goes to Y and to the strip copy (R170, R289). -/
def Run.drainOne (r : Run) (t : TileD) (rows m o : Nat) (v : Val) (bad : Bool) (d : Drained) : Drained :=
  let f := numOf t.yFmt
  let b := f.width
  let q := f.put v
  let at' := 8 * t.yo + elemBit t.yPlane rows t.cout b m o
  let d := { d with y := r.putElem t.yh at' b q.1 d.y, cvt := d.cvt + (if q.2 then 1 else 0)
                    yb := if bad then at' / 8 :: d.yb else d.yb }
  if t.stripCopy then
    let sc := elemBit true rows t.cout 4 m o
    { d with sc := r.putElem t.scH sc 4 (wrapOf 4 (strip4 (signedOf 8 q.1))) d.sc, scb := if bad then sc / 8 :: d.scb else d.scb }
  else d

/-- What a drain formed is written. -/
def Run.drained (r : Run) (t : TileD) (d : Drained) : Run :=
  let r := r.putBytes t.yh none d.y
  let r := r.putBytes t.scH none d.sc
  let r := (r.markLines t.yh d.yb).markLines t.scH d.scb
  r.on fun s => s.tallyAcc r.n { Tally.zero with cvt := d.cvt }

/-- CCLK of a drain of `rows` rows of a group (R158). -/
def Work.drainCycles (k : Work) (rows : Nat) : Nat := ceilDiv (rows * k.p.gsz k.t.transpose * (numOf k.t.yFmt).width) 4096

/-- A drain of a group over some rows: entries converted, rows a mask dropped filled with zero where strip_fill says so. Its cycles are
stalls, but not after the instruction's last vector (R158). -/
def Work.drain (k : Work) (sb : List (Val × Val)) (rows : Nat) (q off : Nat) (live fill : List Nat) (after : Bool) (g : OutGroup) (r : Run) : Run :=
  let outs := g.outs.filter fun o => decide (o < k.t.cout)
  let f := accNum k.p.int
  let d : Drained := ⟨[], [], [], [], 0⟩
  let d := live.foldl (fun d m => outs.foldl (fun d o =>
    let e := k.entry r.s r.n q (m - off) o
    r.drainOne k.t rows m o (stepV (sbOf k.t sb o) k.t.relu k.p.int (f.read (r.s.accGet r.n e))) (r.s.accIsBad r.n e) d) d) d
  let d := fill.foldl (fun d m => outs.foldl (fun d o => r.drainOne k.t rows m o (.num false 0 1) false d) d) d
  (r.drained k.t d).on fun s => if after then s else s.bump ARR_PERF.count [r.n.val, 3] (4 * k.drainCycles (live.length + fill.length))

/-! ### Weights and activations of an instruction -/

/-- The weight of (k, n) of a stored matrix; +0 where no entry is. -/
def weightVal (strip : Bool) (m : Mat) (ts : List Tile) (k n : Nat) : Val :=
  match weightAt ts k n with
  | none => .num false 0 1
  | some b => if strip then .ofInt (strip4 (signedOf 8 b)) else (numOf m.elem).read b

/-- The bits of weight (k, n) in an image. -/
def weightBits (strip : Bool) (ts : List Tile) (k n : Nat) : Nat :=
  match weightAt ts k n with
  | none => 0
  | some b => if strip then wrapOf 4 (strip4 (signedOf 8 b)) else b

/-- The value of an activation's bits. -/
def xVal (strip : Bool) (fmt b : Nat) : Val :=
  if strip && decide (fmt = 0) then .ofInt (strip4 (signedOf 8 b)) else (numOf fmt).read b

/-- Read bytes of which poison is judged later, pass by pass. -/
def Run.readQuiet (r : Run) (h o k : Nat) : List Byte × Run :=
  match r.read h o k with
  | (b, q) => (b, { q with bad := r.bad })

/-- Bit `m` of a mask. -/
def maskBit (b : List Byte) (m : Nat) : Bool := bitOf (natOfBytes ((b.drop (m / 8)).take 1)) (m % 8)

/-- The site mask of an instruction: every row stands without one. -/
def Run.siteMask (r : Run) (t : TileD) (rows : Nat) : (Nat → Bool) × Run :=
  if !t.maskEn then (fun _ => true, r)
  else
    match r.read t.maskH 0 (ceilDiv rows 8) with
    | (b, r) => (maskBit b, r)

/-- A set as the Developer emits it: its group, its channels, what the headers and unions of the tiles that it draws from first cost
(R184), and whether it draws from a poisoned tile. -/
structure PSet where
  g    : Nat
  set  : List Nat
  cost : Nat
  bad  : Bool
  deriving DecidableEq, Repr

/-- The tile cost of each of a group's sets, and what is left over; `fr` is the first tile row not counted yet. A tile is counted with
the first set that draws from it or lies past it, and after the last set of a whole group nothing is left. -/
def setCosts (ts : List Tile) (whole : Bool) (fr : Nat) : List (List Nat) → List Nat × Nat
  | [] => ([], ((ts.filter fun t => decide (fr ≤ t.kt)).map Tile.cost).sum)
  | q :: l =>
    let upto := if whole && l.isEmpty then 2 ^ 16 else q.getLastD 0 / 128 + 1
    match setCosts ts whole (max fr upto) l with
    | (cs, rest) => (((ts.filter fun t => decide (fr ≤ t.kt ∧ t.kt < upto)).map Tile.cost).sum :: cs, rest)

/-- The sets of a group (R182), compacted for plane layout and full for row layout, with the cost left over. Where a tile fails, the
group emits the sets it had filled before. -/
def groupSets (t : TileD) (p : Mode) (m : Mat) (ts : List Tile) (e : Option TileErr) (g : Nat) : List PSet × Nat :=
  let cols := groupCols m p.g g
  let own := ts.filter fun x => cols.contains x.nt
  let l :=
    if t.xPlane then
      let l := setsFrom p.cap [] 0 (unionOf t.k m own cols)
      if e.isSome then l.dropLast else l
    else
      match e with
      | some e => (fullSets t.k).take e.kt
      | none => fullSets t.k
  match setCosts own e.isNone 0 l with
  | (cs, rest) => ((l.zip cs).map fun x => ⟨g, x.1, x.2, setBad own cols x.1⟩, rest)

/-- What the Developer makes of an instruction's matrix: the matrix and its mode, the tiles, the sets in pass order, the tile cost of no
set, the failure at which it stops, and the groups that are complete. -/
structure Sets where
  m    : Mat
  p    : Mode
  ts   : List Tile
  sets : List PSet
  left : Nat
  err  : Option TileErr
  whole : Nat → Bool

/-- Sets in pass order up to the first failure: group by group; in transpose of row layout the 128-row output chunks are outer and the
groups, which it reduces over, inner (R155). -/
def passOrder (inner : Bool) (l : List (List (PSet ⊕ TileErr))) : List PSet × Option TileErr :=
  let most := (l.map List.length).foldl max 0
  let all := if inner then (List.range most).flatMap fun j => l.filterMap fun g => g[j]? else l.flatten
  let ok := all.takeWhile Sum.isLeft
  (ok.filterMap fun x => x.getLeft?, (all[ok.length]?).bind fun x => x.getRight?)

/-- The sets of some groups of tile columns of a matrix whose bytes are `b`. -/
def Run.setsOf (r : Run) (t : TileD) (p : Mode) (m : Mat) (b : List Byte) (groups : List Nat) : Sets :=
  let l := groups.map fun g =>
    match r.columns m b (groupCols m p.g g) with
    | (ts, e) => (ts, e, groupSets t p m ts e g)
  let inner := t.transpose && !t.xPlane
  match passOrder inner (l.map fun x => x.2.2.1.map Sum.inl ++ (x.2.1.toList.map Sum.inr)) with
  | (sets, err) =>
    let good := (l.takeWhile fun x => x.2.1.isNone).length
    let done : Nat → Bool :=
      if err.isNone then fun _ => true
      else if !t.transpose then fun g => decide (g < good)
      else if inner then fun j => decide (j < sets.length / max 1 groups.length)
      else fun _ => false
    ⟨m, p, l.flatMap (·.1), sets, ((l.take (good + 1)).map fun x => x.2.2.2).sum, err, done⟩

/-- The last pass of each of some groups, given their parts: a group that no pass reaches ends with the group before it. -/
def lastPasses (whole : Nat → Bool) : Nat → List OutGroup → List OutGroup
  | _, [] => []
  | at', g :: l =>
    let e := g.parts.foldl (fun a p => max a p.pass) (if g.parts = [] then at' else 0)
    { g with last := if whole g.j then some e else none } :: lastPasses whole e l

/-- The output groups of an instruction whose passes use the given sets (R155, R161, R189). In transpose mode the outputs are taken 128 at
a time, each pass forming those of its set; where a set may reach several of them and they share one half of a double-buffered region, they
are formed one after another at the last pass (assumption 114, DESIGN CHOICE). -/
def planOf (t : TileD) (c : Sets) (groups : List Nat) : List OutGroup :=
  let p := c.p
  let ps := c.sets.zipIdx
  lastPasses c.whole 0 <|
    if t.transpose then
      (List.range (ceilDiv t.k 128)).map fun j =>
        ⟨j, (List.range 128).map (128 * j + ·),
          (ps.map fun e => (⟨((List.range p.g).map (e.1.g * p.g + ·)).filter fun c => decide (c < t.n),
            e.1.set.filter fun k => decide (k / 128 = j), e.1.bad,
            if t.xPlane && t.double then c.sets.length - 1 else e.2⟩ : Part)).filter fun q => decide (q.out ≠ []), none⟩
    else
      groups.map fun g =>
        let outs := (List.range p.g).map (g * p.g + ·)
        ⟨g, outs, (ps.filter fun e => decide (e.1.g = g)).map fun e => ⟨e.1.set, outs, e.1.bad, e.2⟩, none⟩

/-- Groups of tile columns of an instruction. -/
def groupsOf (t : TileD) (p : Mode) : List Nat := List.range (ceilDiv t.n p.g)

/-- The image of a set. -/
def Sets.image (c : Sets) (strip : Bool) (q : PSet) : BitVec 16384 :=
  imageOf c.p.kind c.p.g (weightBits strip c.ts) (q.g * c.p.g) q.set

/-! ### What a pass streams (R155, R187, R188, R192) -/

/-- How a pass meets the arrays: its image with its tile cost, none where it uses the active set; the vectors of each array; the cycles
that feeding holds it and those that full bank queues hold it; the CCLK of the drains that stall it; the mode. -/
structure Job where
  image  : Option (BitVec 16384 × Nat)
  lanes  : List Nat
  feed   : Nat
  queue  : Nat
  stall  : Nat
  p      : Mode
  turned : Bool
  deriving DecidableEq, Repr

/-- The rows dealt to array `a`, given their places in the m-block: segments of `eb` rows in turn in plane layout (R187), else rows
modulo 4 (R155). -/
def laneRows (plane : Bool) (eb : Nat) (places : List Nat) (a : Nat) : List Nat :=
  if plane then
    let segs := (places.map (· / eb)).eraseDups
    places.filter fun x => decide (segs.idxOf (x / eb) % 4 = a)
  else places.filter fun x => decide (x % 4 = a)

/-- L_S of R188. -/
def feedReads (chans : List Nat) : Nat :=
  let c (q : Nat) : Nat := (chans.filter fun k => decide (k % 16 = q % 16)).length
  ((List.range 16).map fun r => c r + c (r + 15) + c (r + 14) + c (r + 13)).foldl max 0

/-- Feed wait of a pass (R188). -/
def feedWait (plane : Bool) (eb cpv : Nat) (places chans : List Nat) : Nat :=
  if plane then ceilDiv (places.map (· / eb)).eraseDups.length 4 * (feedReads chans - eb * cpv) else 0

/-- An update joins the queue of its bank; where it is full, every bank applies one update and the arrays hold for the cycle (R192). -/
def joinBank (a : List Nat × Nat) (b : Nat) : List Nat × Nat :=
  if 8 ≤ a.1.getD b 0 then ((a.1.map (· - 1)).modify b (· + 1), a.2 + 1) else (a.1.modify b (· + 1), a.2)

/-- The cycles for which full bank queues hold the arrays: `steps` are the banks of the updates of each vector entry. -/
def queueStall (cpv : Nat) (steps : List (List Nat)) : Nat :=
  (steps.foldl (fun (a : List Nat × Nat) l =>
    match l.foldl joinBank a with
    | (q, n) => (q.map (· - cpv), n)) (List.replicate 16 0, 0)).2

/-- The banks of the updates of each vector entry: the four arrays in turn. -/
def bankSteps (lanes : List (List Nat)) (banks : Nat → List Nat) : List (List Nat) :=
  (List.range ((lanes.map List.length).foldl max 0)).map fun t => lanes.flatMap fun l => ((l[t]?).map banks).getD []

/-! ### The staging buffer and the cells (R151 to R153, R185) -/

/-- Whether an operation is strip. -/
def Issued.isStrip (i : Issued) : Bool := decide ((fieldsOf i.w).op = 0x85)

/-- An instruction that loads weights for its passes. -/
def State.loads (s : State) (n : CoreId) (i : Issued) : Bool :=
  let f := fieldsOf i.w
  let t := tileFields i.tile.toNat
  match f.op with
  | 0x82 => bitOf f.fn 1 || !(bitOf f.fn 0 || s.onMv n 0x82 false t)
  | 0x84 => !bitOf f.fn 0
  | 0x85 => true
  | _ => false

/-- The m-blocks of `rows` rows. -/
def chunks {α : Type} (z : Nat) : Nat → List α → List (List α)
  | 0, _ => []
  | _, [] => []
  | fuel + 1, l => l.take z :: chunks z fuel (l.drop z)

/-- The mode an instruction runs in. -/
def Issued.mode (i : Issued) (m : Mat) : Option Mode :=
  let t := tileFields i.tile.toNat
  if i.isStrip then stripMode m.elem t.xFmt else modeOf m.elem t.xFmt t.transpose

/-- Images that the Developer prepares ahead (Table 7-9). -/
def State.aheadSlots (s : State) (n : CoreId) : Nat := min 30 (max 1 (s.reg DVL_CTRL.ahead_slots [n.val]))

/-- A word of a staging slot of a core. -/
def inStage (n : CoreId) (slot : Nat) : Sram → Bool
  | .stage m k => decide (m = n ∧ k / 64 = slot)
  | _ => false

/-- The Developer writes an image into the next staging slot, from cycle `at'` on, where it waits for its pass; its tile cost and its rows
are counted (R184). -/
def State.prepare (s : State) (n : CoreId) (i : Issued) (pass at' : Nat) (img : BitVec 16384) (cost : Nat) : State :=
  (((s.bump DVL_PERF.count [n.val, 0] cost).bump DVL_PERF.count [n.val, 1] 32).sramFresh (inStage n s.cores[n].ring)).setCore n fun k =>
    let done := max k.devAt at' + cost + 32
    { k with staging := k.staging.set! k.ring img, ring := (k.ring + 1) % 32, devAt := done
             prep := k.prep ++ [⟨k.ring, i.seq, i.ctx, pass, img, done⟩] }

/-- The image prepared for a pass. -/
def State.readyFor (s : State) (n : CoreId) (i : Issued) (j : Nat) : Option Ready :=
  s.cores[n].prep.find? fun e => decide (e.seq = i.seq ∧ e.pass = j)

/-- A pass counts (R172, R188, R192): vectors entered, the gap of a weight change that follows a pass, weight wait, feed wait, queue stall. -/
def State.passCount (s : State) (n : CoreId) (b : Job) (gap : Bool) (wait : Nat) : State :=
  let i := n.val
  ((((s.bump ARR_PERF.count [i, 0] b.lanes.sum).bump ARR_PERF.count [i, 1] (if gap then 4 * (39 * b.p.st - b.p.cpv) else 0)).bump
    ARR_PERF.count [i, 2] (4 * wait)).bump DVL_PERF.count [i, 2] b.feed).bump DVL_PERF.count [i, 3] b.queue

/-- Pass `j` of an instruction begins (R151, R152): where it changes weights, its image swaps from the shadow registers into the cells, and
the shadow load of the next image that is prepared follows. The cycles at which the Developer's images and the arrays' passes follow one
another are those of R151 and R185; the events of the model may come later (assumption 115, DESIGN CHOICE). -/
def State.beginPass (s : State) (n : CoreId) (i : Issued) (j : Nat) (b : Job) : State :=
  let s := match b.image with
    | some (img, cost) => if (s.readyFor n i j).isSome then s else s.prepare n i j (max i.since (s.cycles n)) img cost
    | none => s
  let s := match s.readyFor n i j with
    | some e => s.sramMeet (inStage n e.slot)
    | none => s
  let k := s.cores[n]
  let e := s.readyFor n i j
  let base := max i.since (if b.image.isSome then k.clearAt else k.clearAt - (39 * b.p.st - b.p.cpv))
  let at' := max base ((e.map (·.since)).getD 0)
  let last := at' + ((b.lanes.foldl max 0) - 1) * b.p.cpv + b.feed + b.queue + b.stall
  let s := s.passCount n b (b.image.isSome && decide (0 < j ∨ i.since < k.clearAt)) (at' - base)
  let s := s.setReg ARR_STATUS.transpose [n.val] (if b.turned then 1 else 0)
  s.setCore n fun k =>
    let k := { k with clearAt := last + 39 * b.p.st }
    match e with
    | none => k
    | some e =>
      let left := k.prep.filter fun q => decide (q ≠ e)
      { k with prep := left, cellBad := s.sramAny (inStage n e.slot), active := e.image, shadow := (left.head?.map (·.image)).getD k.active }

/-! ### Operands of a matrix instruction -/

/-- The sets of an instruction's matrix over some groups of tile columns. -/
def Run.sets (r : Run) (i : Issued) (t : TileD) (groups : Mode → List Nat) : Option Sets × Run :=
  let m := r.s.tileMat r.n i.ctx t
  match i.mode m with
  | none => (none, r)
  | some p =>
    match r.matBytes m with
    | (b, r) => (some (r.setsOf t p m b (groups p)), r)

/-- The activations of an instruction in its layout, and their poison. -/
def Run.activations (r : Run) (t : TileD) (strip : Bool) : (Nat → Nat → Val) × (Nat → Nat → Option Nat) × Run :=
  let b := (numOf t.xFmt).width
  match r.readQuiet t.xh t.xo (opBytes t.xPlane t.m t.cin b) with
  | (bs, r) =>
    let at' (m c : Nat) : Nat := elemBit t.xPlane t.m t.cin b m c
    (fun m c => xVal strip t.xFmt (valueAt bs (at' m c / 8) b (at' m c % 8 / b)),
      fun m c => r.badByte t.xh (t.xo + at' m c / 8), r)

/-- Rows of an audit whose v reaches the threshold although the mask dropped them (R204; assumption 105, DEDUCED). -/
def Work.misses (k : Work) (s : State) (n : CoreId) (sb : List (Val × Val)) (q off : Nat) (dropped : List Nat) (g : OutGroup) : List Nat :=
  let th := fp32.read s.cores[n].thr
  dropped.filter fun m => (g.outs.filter fun o => decide (o < k.t.cout)).any fun o =>
    let v := stepV (sbOf k.t sb o) false k.p.int ((accNum k.p.int).read (s.accGet n (k.entry s n q (m - off) o)))
    !v.isNan && !v.lt th

/-- An m-block as it is dealt: its place in the instruction's succession of blocks, its first row, the rows of X with their targets, rows that
a mask dropped and that are filled with zero or audited. -/
structure Deal where
  b       : Nat
  off     : Nat
  rows    : List RowPair
  fill    : List Nat
  dropped : List Nat
  deriving DecidableEq, Repr

/-- A word of the accumulator region of an instruction. -/
def Work.inRegion (k : Work) (s : State) (n : CoreId) : Sram → Bool
  | .acc m w => decide (m = n ∧ ((s.accWindow n k.slot).1 + k.t.accOff) / 32 ≤ w ∧ 32 * w < (s.accWindow n k.slot).1 + k.t.accOff + k.t.accSize)
  | _ => false

/-- The accumulator words of a region are met: errors there are decoded, and words that hold poisoned entries are logged (R395, R396). -/
def Work.meetAcc (k : Work) (n : CoreId) (s : State) : State :=
  let s := s.sramMeet (k.inRegion s n)
  if s.cores[n].accBad = [] then s
  else (((s.cores[n].accBad.map (· / 8)).eraseDups.map (Sram.acc n)).filter (k.inRegion s n)).foldl (fun s x => s.sramRead x false false) s

/-- Pass `i` over an m-block: the sums of its outputs join their entries, and each group that it completes is filled up, audited and
drained. `after` says that no vector follows. The rows that an audit counts are collected. -/
def Work.pass (k : Work) (sb : List (Val × Val)) (d : Deal) (i : Nat) (after : Bool) (a : Run × List Nat) : Run × List Nat :=
  (k.plan.zipIdx).foldl (fun (a : Run × List Nat) e =>
    let g := e.1
    let q := d.b * k.plan.length + e.2
    let seen := (g.parts.filter fun p => decide (p.pass < i)).flatMap Part.out
    let met := if i = 0 ∧ k.t.accIn = false then a.1.s.sramFresh (k.inRegion a.1.s a.1.n) else k.meetAcc a.1.n a.1.s
    match k.passes a.1.n q d.off d.rows false seen (g.parts.filter fun p => decide (p.pass = i)) (met, none) with
    | (s, bad) =>
      let r := { a.1 with s := s, bad := a.1.bad.or bad }
      if g.last = some i then
        let r := r.on fun s => k.zeros r.n q d.off d.rows g s
        if k.t.drain then
          (k.drain sb k.t.m q d.off (d.rows.map (·.2)) d.fill after g r, a.2 ++ k.misses r.s r.n sb q d.off d.dropped g)
        else (r, a.2)
      else (r, a.2)) a

/-! ### The passes of an instruction -/

/-- What has been gathered while passes run: the unit at work, rows that an audit counts, updates dropped. -/
structure Toll where
  r      : Run
  missed : List Nat
  oob    : Nat

/-- An instruction made ready to run on the arrays: its passes in order, what each does beyond the cells, what follows the last with the
completion exceptions, tile cost that no set carries, the failure at which it stops, and whether it empties the held sets. -/
structure Prep where
  jobs : List Job
  act  : Nat → Toll → Toll
  fin  : Toll → Run × List (Nat × Nat)
  left : Nat
  err  : Option TileErr
  own  : Bool

/-- The weights of an instruction's passes: how they stand, weights by (k, n), the output groups, for each pass over an m-block its image and
the channels it reads and the outputs it forms; tile cost of no set and the failure. -/
structure Weights where
  p      : Mode
  w      : Nat → Nat → Val
  plan   : List OutGroup
  passes : List (Option (BitVec 16384 × Nat) × List Nat × List Nat)
  left   : Nat
  err    : Option TileErr
  own    : Bool

/-- The weights of an instruction that prepares its own sets. -/
def Sets.weights (c : Sets) (strip : Bool) (t : TileD) : Weights :=
  let outs (g : Nat) : List Nat := ((List.range c.p.g).map (g * c.p.g + ·)).filter fun o => decide (o < t.n)
  ⟨c.p, weightVal strip c.m c.ts, planOf t c (groupsOf t c.p),
    c.sets.map fun q => (some (c.image strip q, q.cost), if t.transpose then (outs q.g, q.set) else (q.set, outs q.g)), c.left, c.err, true⟩

/-- The passes over blocks of rows: `deal` gives the rows of each block with their places in it. -/
def Weights.jobs (v : Weights) (t : TileD) (plane : Bool) (banks : Option (Nat → Nat → List Nat → List Nat)) (stall : Nat → Nat → Nat)
    (blocks : List (List Nat)) : List Job :=
  let eb := blockElems (numOf t.xFmt).width
  let ps := if v.passes = [] then [(none, [], [])] else v.passes
  (blocks.zipIdx).flatMap fun e => (ps.zipIdx).map fun q =>
    let lanes := (List.range 4).map (laneRows plane eb e.1)
    let none' := v.passes = []
    { image := q.1.1, lanes := if none' then [] else lanes.map List.length, feed := if none' then 0 else feedWait plane eb v.p.cpv e.1 q.1.2.1
      queue := match banks with
        | some f => queueStall v.p.cpv (bankSteps lanes fun x => f e.2 x q.1.2.2)
        | none => 0
      stall := stall e.2 q.2, p := v.p, turned := t.transpose }

/-- The banks of the accumulator lines of some entries (R157). -/
def banksOf (entries : List Nat) : List Nat := ((entries.map (· / 16)).eraseDups).map (· % 16)

/-- A matrix instruction on the arrays in plain form (R155 to R170, R186 to R189, R204). -/
def Run.plainPrep (r : Run) (i : Issued) (v : Weights) : Prep × Run :=
  let t := tileFields i.tile.toNat
  let n := r.n
  match r.activations t false with
  | (x, xb, r) =>
    match r.siteMask t t.m with
    | (stands, r) =>
      match r.scales t with
      | (sb, r) =>
        let k : Work := ⟨t, v.p, v.w, x, xb, v.plan, !t.double, i.slot⟩
        let audit := r.s.bit DVL_CTRL.strip_audit [n.val] && t.maskEn
        let fill := r.s.bit DVL_CTRL.strip_fill [n.val]
        let z := max 1 (t.mblk v.p (!t.double) t.m)
        let all := chunks z t.m (List.range t.m)
        let dealt (ms : List Nat) : List Nat := if audit then ms else ms.filter stands
        let per := max 1 v.passes.length
        let off (b : Nat) : Nat := if k.res then 0 else b * z
        let deal (b : Nat) : Deal :=
          let ms := all.getD b []
          let dropped := ms.filter fun m => !stands m
          ⟨b, off b, (dealt ms).map fun m => (m, m), if audit || !fill then [] else dropped, if audit then dropped else []⟩
        let total := per * all.length
        let stall (b j : Nat) : Nat :=
          let rows := (deal b).rows.length + (deal b).fill.length
          if t.drain && decide (b * per + j + 1 < total) then (v.plan.filter fun g => decide (g.last = some j)).length * k.drainCycles rows else 0
        let s := r.s
        let banks (b x : Nat) (out : List Nat) : List Nat :=
          banksOf (out.map fun o => k.entry s n (b * v.plan.length + o / 128) (b * z + x - off b) o)
        ({ jobs := v.jobs t t.xPlane (if t.transpose && t.xPlane then some banks else none) stall ((all.zipIdx).map fun e => (dealt e.1).map (· - e.2 * z))
           act := fun j a =>
             match k.pass sb (deal (j / per)) (j % per) (decide (j + 1 = total)) (a.r, a.missed) with
             | (r, miss) => ⟨r, miss, a.oob⟩
           fin := fun a => (a.r.on fun s => s.bump DVL_STRIP_MISS.strip_miss [n.val] (a.missed.eraseDups).length, [])
           left := v.left, err := v.err, own := v.own }, r)

/-! ### Held sets (R347) -/

/-- The first set of a tile descriptor's weight operand: its channels, its image and its poison, with its tile cost; or the failure of a
tile that it draws from. -/
def Run.firstSet (r : Run) (i : Issued) (v : BitVec 256) : Option (HeldSet × Nat) × Option TileErr × Run :=
  let t := tileFields v.toNat
  let met := r.bad
  match { r with bad := none }.sets { i with tile := v } t fun _ => [0] with
  | (none, r) => (none, none, { r with bad := met })
  | (some c, r) =>
    let bad := if (c.sets.head?.map (·.bad)).getD false then r.bad else none
    let r := { r with bad := met }
    match c.sets, c.err with
    | q :: _, _ => (some (⟨v, false, q.set, c.image false q, bad⟩, q.cost), none, r)
    | [], some e => (none, some e, r)
    | [], none => (some (⟨v, false, [], c.image false ⟨0, [], 0, false⟩, none⟩, c.left), none, r)

/-- A held set's image goes through a staging slot, and its cost is counted. -/
def State.stageHeld (s : State) (n : CoreId) (h : HeldSet) (cost : Nat) : State :=
  (((s.bump DVL_PERF.count [n.val, 0] cost).bump DVL_PERF.count [n.val, 1] 32).sramFresh (inStage n s.cores[n].ring)).setCore n fun k => { k with
    staging := k.staging.set! k.ring h.image, cellBad := false, ring := (k.ring + 1) % 32, devAt := max k.devAt (s.cycles n) + cost + 32 }

/-- A record whose cell contents were lost is rebuilt from its weight operand, through a staging slot. -/
def Run.rebuild (r : Run) (i : Issued) (h : Option HeldSet) : Option HeldSet × Option TileErr × Run :=
  match h with
  | none => (none, none, r)
  | some q =>
    if q.lost then
      match r.firstSet i q.tile with
      | (some (h, cost), _, r) => (some h, none, r.on fun s => s.stageHeld r.n h cost)
      | (none, e, r) => (none, e, r)
    else (some q, none, r)

/-- The pass queue is empty (R162): the arrays ramp down from the level they have reached (assumption 106, DEDUCED). -/
def State.rampDown (s : State) (n : CoreId) : State :=
  let i := [n.val]
  if s.arraysBusy n ∨ s.reg ARR_STATUS.ramp_level i = 0 ∨ s.reg ARR_STATUS.ramp_dir i = 2 then s
  else (s.setReg ARR_STATUS.ramp_dir i 2).setCore n fun k => { k with rampC := s.cycles n }

/-- The end of an array-class instruction: what it leaves counted and marked. -/
def State.arrayEnd (s : State) (n : CoreId) (i : Issued) (counts wrote : Bool) (exc : List (Nat × Nat)) : State :=
  let s := if wrote then s.setCtx i.ctx fun x => { x with accLost := false } else s
  let s := s.setReg ARR_STATUS.mv_busy [n.val] 0
  (s.retire n .array i counts exc).rampDown n

/-- The end of an array-class instruction of a run. -/
def Run.arrayEnd (r : Run) (i : Issued) (counts wrote : Bool) (exc : List (Nat × Nat)) : State :=
  (r.closed .array i).s.arrayEnd r.n i counts wrote exc

/-- Both records are empty from here on (R347). -/
def Ctx.noSets (x : Ctx) : Ctx := { x with weightsA := none, weightsS := none }

/-- An instruction that a malformed tile stops: what it has written stands (R178). -/
def Run.stopped (r : Run) (n : CoreId) (i : Issued) (e : Option TileErr) : State :=
  let s := match e with
    | some e => r.s.tileFailed n e
    | none => r.s
  match s.draw 8 with
  | (q, s) => { r with s := s }.arrayEnd i false false ((0x04, opInfo 1 q.toNat) :: r.poison 1)

/-- Completion of wld: the set is in the shadow registers, held as S. -/
def State.doWld (s : State) (n : CoreId) (i : Issued) : State :=
  match (s.runOf n i false).firstSet i i.tile with
  | (some (h, cost), _, r) =>
    let r := r.on fun s => ((s.setCtx i.ctx fun x => { x with weightsS := some h }).stageHeld n h cost).setCore n fun k => { k with shadow := h.image }
    r.arrayEnd i true false []
  | (none, e, r) => (r.on fun s => s.setCtx i.ctx fun x => { x with weightsS := none }).stopped n i e

/-- Completion of wswap. -/
def State.doWswap (s : State) (n : CoreId) (i : Issued) : State :=
  match (s.runOf n i false).rebuild i s.ctxs[i.ctx].weightsS with
  | (some h, _, r) =>
    let a := r.s.ctxs[i.ctx].weightsA
    let r := r.on fun s =>
      (s.setCtx i.ctx fun x => { x with weightsA := some h, weightsS := a }).setCore n fun k => { k with active := h.image, shadow := k.active }
    r.arrayEnd i true false []
  | (none, e, r) => r.stopped n i e

/-- The weight of position `j` and column `c` of a held set. -/
def HeldSet.weight (h : HeldSet) (m : Mode) (elem : Nat) (k n : Nat) : Val :=
  if n < m.g then
    match (h.chans.zipIdx).find? fun e => decide (e.1 = k) with
    | some e => (numOf elem).read (imageAt m.kind h.image e.2 n)
    | none => .num false 0 1
  else .num false 0 1

/-- The output groups of a held form: one pass, with the outputs of the set's group. -/
def heldPlan (t : TileD) (p : Mode) (set : List Nat) (bad : Bool) : List OutGroup :=
  if t.transpose then
    (List.range (ceilDiv t.k 128)).map fun j =>
      let outs := set.filter fun k => decide (k / 128 = j)
      ⟨j, (List.range 128).map (128 * j + ·),
        if outs = [] then [] else [⟨(List.range p.g).filter fun c => decide (c < t.n), outs, bad, 0⟩], some 0⟩
  else
    (List.range (ceilDiv t.n p.g)).map fun g =>
      let outs := (List.range p.g).map (g * p.g + ·)
      ⟨g, outs, if g = 0 then [⟨set, outs, bad, 0⟩] else [], some 0⟩

/-- The weights a held form works with: the active set, rebuilt where it was lost. -/
def Run.heldWeights (r : Run) (i : Issued) : Option Weights × Option TileErr × Run :=
  match r.rebuild i r.s.ctxs[i.ctx].weightsA with
  | (some h, _, r) =>
    let t := tileFields i.tile.toNat
    let elem := (r.s.tileMat r.n i.ctx (tileFields h.tile.toNat)).elem
    let r := r.on fun s => (s.setCtx i.ctx fun x => { x with weightsA := some h }).setCore r.n fun k => { k with active := h.image, cellBad := false }
    match modeOf elem t.xFmt t.transpose with
    | some p =>
      let outs := (List.range p.g).filter fun c => decide (c < t.n)
      (some ⟨p, h.weight p elem, heldPlan t p h.chans h.bad.isSome, [(none, if t.transpose then (outs, h.chans) else (h.chans, outs))], 0, none, false⟩,
        none, { r with bad := r.bad.or h.bad })
    | none => (none, none, r)
  | (none, e, r) => (none, e, r)

/-- The weights of a matrix instruction: the active set of a held form, or sets of its own in the layout of descriptor `u`. -/
def Run.weights (r : Run) (i : Issued) (u : TileD) (held : Bool) : Option Weights × Option TileErr × Run :=
  if held then r.heldWeights i
  else
    match r.sets i u (groupsOf u) with
    | (some c, r) => (some (c.weights i.isStrip u), none, r)
    | (none, r) => (none, none, r)

/-! ### Gather form (R190, R191, R350) -/

/-- The entries of a list in the instruction's site range, (out, in) in entry order. -/
def Run.mapList (r : Run) (i : Issued) (t : TileD) : List (Nat × Nat) × Run :=
  let q := mapRef i.rb
  match r.readNat q.1 (q.2.1 + 4) 2 with
  | (ks, r) =>
    match r.readNat q.1 (q.2.1 + 16) 4 with
    | (nc, r) =>
      match r.readNat q.1 (q.2.1 + 64 + 8 * q.2.2) 4 with
      | (start, r) =>
        match r.readNat q.1 (q.2.1 + 68 + 8 * q.2.2) 4 with
        | (count, r) =>
          match r.readMany q.1 (q.2.1 + mapEntries ks nc + 8 * start) 8 count with
          | (l, r) =>
            ((l.map fun e => (e % 2 ^ 32, e / 2 ^ 32)).filter fun e => decide (t.siteBase ≤ e.1 ∧ e.1 < t.siteBase + t.m), r)

/-- The gathered rows: their bytes one after another in row layout. -/
def Run.gatherRows (r : Run) (t : TileD) (bytes : Nat) : List (Nat × Nat) → List Byte × Run
  | [] => ([], r)
  | e :: l =>
    match r.readQuiet t.xh (t.xo + e.2 * bytes) bytes with
    | (a, r) =>
      match r.gatherRows t bytes l with
      | (b, r) => (a ++ b, r)

/-- The copy of the gathered rows in the gather handle, in plane layout; poison goes with it. -/
def Run.gatherCopy (r : Run) (h rows cols b : Nat) (x : Nat → Nat → Nat) (bad : Nat → Nat → Option Nat) : Run :=
  let cells := (List.range rows).flatMap fun m => (List.range cols).map fun c => (m, c)
  let put (e : Nat × Nat) : Nat := elemBit true rows cols b e.1 e.2
  let r' := r.putBytes h none (cells.foldl (fun m e => r.putElem h (put e) b (x e.1 e.2) m) [])
  r'.markLines h ((cells.filter fun e => (bad e.1 e.2).isSome).map fun e => put e / 8)

/-- Region rows a gather-form drain writes, and how a site mask fills them. Every drain follows the last vector. -/
def Work.gatherDrain (k : Work) (sb : List (Val × Val)) (stands : Nat → Bool) (audit fill : Bool) (r : Run) : Run :=
  let all := List.range k.t.m
  let live := all.filter fun m => audit || stands (k.t.siteBase + m)
  let gone := if fill && !audit then all.filter (fun m => !stands (k.t.siteBase + m)) else []
  let rows := k.t.siteBase + k.t.m
  let b := k.t.siteBase
  k.plan.foldl (fun r g => k.drain sb rows 0 b (live.map (b + ·)) (gone.map (b + ·)) true g r) r

/-- Rows of a gather-form audit whose v reaches the threshold although the mask dropped them (R204; assumption 105, DEDUCED). -/
def Work.gatherMisses (k : Work) (s : State) (n : CoreId) (sb : List (Val × Val)) (stands : Nat → Bool) (audit : Bool) : Nat :=
  let b := k.t.siteBase
  let dropped := ((List.range k.t.m).map (b + ·)).filter fun m => !stands m
  if k.t.drain && audit then ((k.plan.flatMap fun g => k.misses s n sb 0 b dropped g).eraseDups).length else 0

/-- Every entry of an accumulator region becomes zero (R350). -/
def Work.clear (k : Work) (n : CoreId) (s : State) : State :=
  (List.range (k.t.accSize / 4)).foldl (fun s e => s.accPut n (((s.accWindow n k.slot).1 + k.t.accOff) / 4 + e) 0 false) s

/-- mm.g made ready to run (R190, R191, R350). -/
def Run.gatherPrep (r : Run) (i : Issued) (v : Weights) : Prep × Run :=
  let f := fieldsOf i.w
  let n := r.n
  let t := tileFields i.tile.toNat
  let b := (numOf t.xFmt).width
  let bytes := t.cin * b / 8
  match r.mapList i t with
  | (es, r) =>
    match r.siteMask t (t.siteBase + t.m) with
    | (stands, r) =>
      let audit := r.s.bit DVL_CTRL.strip_audit [n.val] && t.maskEn
      let fill := r.s.bit DVL_CTRL.strip_fill [n.val]
      let es := es.filter fun e => audit || stands e.1
      match r.gatherRows t bytes es with
      | (bs, r) =>
        match r.scales t with
        | (sb, r) =>
          let raw (m c : Nat) : Nat := valueAt bs (m * bytes) b c
          let r0 := r
          let bad (m c : Nat) : Option Nat := r0.badByte t.xh (t.xo + (es.getD m (0, 0)).2 * bytes + c * b / 8)
          let k : Work := ⟨t, v.p, v.w, fun m c => (numOf t.xFmt).read (raw m c), bad, v.plan, true, i.slot⟩
          let target (e : Nat × Nat) : Nat := if t.transpose then e.2 else e.1
          let inside (e : Nat × Nat) : Bool := decide (t.siteBase ≤ target e ∧ target e < t.siteBase + t.m)
          let all := chunks (max 1 (t.mblk v.p true es.length)) es.length (List.range es.length)
          let at' (x : Nat) : Nat × Nat := es.getD x (0, 0)
          let per := max 1 v.passes.length
          let start (r : Run) : Run :=
            let r := r.gatherCopy (f.imm / 256 % 256) es.length t.cin b raw bad
            r.on fun s =>
              let s := s.bump DVL_PERF.count [n.val, 4] (ceilDiv (es.length * t.cin * b) 2048)
              if t.accIn then s else k.clear n s
          let act (j : Nat) (a : Toll) : Toll :=
            let r := if j = 0 then start a.r else a.r
            let xs := all.getD (j / per) []
            let rows := (xs.filter fun x => inside (at' x)).map fun x => (x, target (at' x) - t.siteBase)
            let parts := k.plan.map fun g => g.parts.filter fun p => decide (p.pass = j % per)
            match parts.foldl (fun a ps => k.passes n 0 0 rows true [] ps a) (r.s, none) with
            | (s, bad) =>
              let lost := (xs.length - rows.length) * (parts.flatten.map fun p => (outLines p.out).length).sum
              ⟨{ r with s := s.bump DVL_STATUS.scatter_oob [n.val] lost, bad := r.bad.or bad }, a.missed, a.oob + lost⟩
          let s := r.s
          let banks (b x : Nat) (out : List Nat) : List Nat :=
            let e := at' ((all.getD b []).headD 0 + x)
            if inside e then banksOf (out.map fun o => k.entry s n 0 (target e - t.siteBase) o) else []
          ({ jobs := v.jobs t true (some banks) (fun _ _ => 0) (all.map fun xs => xs.map fun x => x - xs.headD 0)
             act := act
             fin := fun a =>
               let r := if es = [] then start a.r else a.r
               let r := r.on fun s => s.bump DVL_STRIP_MISS.strip_miss [n.val] (k.gatherMisses s n sb stands audit)
               let r := if t.drain then k.gatherDrain sb stands audit fill r else r
               match r.s.draw 8 with
               | (q, s) => ({ r with s := s }, if a.oob = 0 then [] else [(0x04, opInfo 1 q.toNat)])
             left := v.left, err := v.err, own := v.own }, r)

/-! ### Masked weight gradients (R197, R348) -/

/-- The sum of one entry over the chunks of 128 rows: a pass each, then added in order. -/
def gradSum (int : Bool) (x dy : Nat → Val) (first : Bool) : List (List Nat) → Val → Val × Tally
  | [], v => (v, .zero)
  | c :: l, v =>
    match passSum int 4 128 (c.map fun m => (dy m, x m)) with
    | (p, t) =>
      match (if first then (p, { Tally.zero with nan := if p.isNan then 1 else 0 }) else accAdd int v p) with
      | (v, u) =>
        match gradSum int x dy false l v with
        | (v, w) => (v, t.plus (u.plus w))

/-- The gradients of one group: its tiles' entries in tile and value order, from byte `o` of Y; the sums of u_g × G entries stand in the
region. -/
def Run.gradGroup (r : Run) (t : TileD) (p : Mode) (m : Mat) (ts : List Tile) (base : Nat) (sum : Nat → Nat → Val × Tally)
    (bad : Nat → Nat → Bool) (o : Nat) (g : Nat) : Run × Nat :=
  let cols := groupCols m p.g g
  let u := unionOf t.k m ts cols
  let outs := (List.range p.g).map (g * p.g + ·)
  let s := (u.zipIdx).foldl (fun s e => (outs.zipIdx).foldl (fun s q =>
    let v := sum e.1 q.1
    (s.accPut r.n (base + e.2 * p.g + q.2) (fp32.write v.1) (bad e.1 q.1)).tallyAcc r.n v.2) s) r.s
  let es := cols.flatMap fun nt => (ts.filter fun q => decide (q.nt = nt)).flatMap fun q =>
    q.es.map fun e => (128 * q.kt + e.1, 8 * nt + e.2.1)
  let r := { r with s := s }
  let r := r.write t.yh o (es.flatMap fun e => bytesOf 4 (fp32.write (sum e.1 e.2).1))
  (r.markLines t.yh (((es.zipIdx).filter fun e => bad e.1.1 e.1.2).map fun e => o + 4 * e.2), o + 4 * es.length)

/-- The weight-gradient form made ready to run: for each group ceil(M / 128) passes, each with an image formed from dY's rows; the last of
them drains the group's gradients. How FP32 elements of dY stand in a cell's 64 bits, the manual does not say: such an image is a free
value (assumption 116, DESIGN CHOICE). -/
def Run.gradPrep (r : Run) (i : Issued) : Option Prep × Run :=
  let t := { tileFields i.tile.toNat with transpose := false }
  let n := r.n
  match r.sets { i with tile := i.tile &&& ~~~(1#256 <<< 138) } t (groupsOf t) with
  | (none, r) => (none, r)
  | (some c, r) =>
    match r.activations t false with
    | (x, xb, r) =>
      let d := refOf i.rb
      let code := bitsOf i.rb.toNat 63 60
      let z := (numOf code).width / 8
      match r.readQuiet d.h d.off (t.m * t.n * z) with
      | (bs, r) =>
        match r.s.draw 16384 with
        | (any, s) =>
          let r := { r with s := s }
          let raw (a c : Nat) : Nat := if c < t.n then valueAt bs ((a * t.n + c) * z) (8 * z) 0 else 0
          let dy (a c : Nat) : Val := if c < t.n then (numOf code).read (raw a c) else .num false 0 1
          let rows := chunks 128 t.m (List.range t.m)
          let sum (k c : Nat) : Val × Tally := gradSum false (fun a => x a k) (fun a => dy a c) true rows (.num false 0 1)
          let r0 := r
          let badX (k : Nat) : Option Nat := (List.range t.m).findSome? fun a => xb a k
          let badY (c : Nat) : Option Nat :=
            if c < t.n then (List.range t.m).findSome? fun a => r0.badByte d.h (d.off + (a * t.n + c) * z) else none
          let bad (k c : Nat) : Bool := (badX k).isSome || (badY c).isSome
          let base := ((r.s.accWindow n i.slot).1 + t.accOff) / 4
          let u (g : Nat) : List Nat := unionOf t.k c.m c.ts (groupCols c.m c.p.g g)
          let groups := (groupsOf t c.p).filter fun g => c.whole g && decide (u g ≠ [])
          let size (g : Nat) : Nat := 4 * ((c.ts.filter fun q => (groupCols c.m c.p.g g).contains q.nt).map fun q => q.es.length).sum
          let out (g : Nat) : Nat := t.yo + ((groups.filter fun h => decide (h < g)).map size).sum
          let img (g : Nat) (ms : List Nat) : BitVec 16384 :=
            if code = 7 then any else imageOf .w16 c.p.g (fun a c => raw a c) (g * c.p.g) ms
          let cost (g : Nat) : Nat := ((c.sets.filter fun q => decide (q.g = g)).map PSet.cost).sum
          let per := rows.length
          (some { jobs := groups.flatMap fun g => (rows.zipIdx).map fun e =>
                    { image := some (img g e.1, if e.2 = 0 then cost g else 0), lanes := [(u g).length, 0, 0, 0], feed := 0, queue := 0, stall := 0, p := c.p
                      turned := false }
                  act := fun j a =>
                    let g := groups.getD (j / per) 0
                    if j % per + 1 = per then
                      let met := ((u g).findSome? badX).or (((List.range c.p.g).map (g * c.p.g + ·)).findSome? badY)
                      match a.r.gradGroup t c.p c.m c.ts base sum bad (out g) g with
                      | (r, _) =>
                        let stall := if j / per + 1 = groups.length then 0 else 4 * ceilDiv ((u g).length * c.p.g * 4) 512
                        ⟨{ r with s := r.s.bump ARR_PERF.count [n.val, 3] stall, bad := r.bad.or met }, a.missed, a.oob⟩
                    else a
                  fin := fun a => (a.r, [])
                  left := c.left, err := c.err, own := true }, r)

/-! ### Test strips (R202, R203, R352) -/

/-- What a strip writes: the mask, from the predictions over all of its sets. -/
def Run.stripMask (r : Run) (i : Issued) (v : Weights) (x : Nat → Nat → Val) (xb : Nat → Nat → Option Nat) (sb : List (Val × Val)) : Run :=
  let t := tileFields i.tile.toNat
  let n := r.n
  let thr := i.rb.toNat % 2 ^ 32
  let limit := (Val.sub (fp32.read thr) (fp32.read (i.rb.toNat / 2 ^ 32))).round fp32
  let est (a o : Nat) (g : OutGroup) : Val :=
    let v := (g.parts.foldl (fun (u : Val) q => u.add (passSum true 8 256 (q.red.map fun c => (v.w c o, x a c))).1) (Val.num false 0 1))
    let e := (v.mul (.ofInt 256)).round fp32
    match sbOf t sb o with
    | some (sc, b) => ((e.mul sc).add b).round fp32
    | none => e
  let keep (a : Nat) : Bool := v.plan.any fun g => (g.outs.filter fun o => decide (o < t.n)).any fun o =>
    let e := est a o g
    e.isNan || (!limit.isNan && !e.lt limit)
  let bits := (List.range t.m).map keep
  let rowBad (a : Nat) : Option Nat := v.plan.findSome? fun g => g.parts.findSome? fun q => q.red.findSome? fun c => xb a c
  let weightBad := r.s.cores[n].cellBad || v.plan.any fun g => g.parts.any Part.bad
  let r := { r with bad := r.bad.or ((List.range t.m).findSome? rowBad) }
  let old := (r.s.peek n i.ctx t.maskH (t.m / 8) 1).map BitVec.toNat
  let mask := (chunks 8 t.m bits).map fun l => packLanes 1 (l.map fun b => if b then 1 else 0)
  let mask := (mask.zipIdx).map fun e => if e.2 = t.m / 8 then e.1 + old.headD 0 / 2 ^ (t.m % 8) * 2 ^ (t.m % 8) else e.1
  let r := r.write t.maskH 0 (mask.map (BitVec.ofNat 8 ·))
  let marks := (List.range t.m).filter fun a => weightBad || (rowBad a).isSome
  let r := r.markLines t.maskH (marks.map (· / 8))
  r.on fun s =>
    ((s.bump DVL_STRIP_CNT.sites_tested [n.val] t.m).bump DVL_STRIP_CNT.sites_kept [n.val] (bits.filter id).length).setCore n fun k =>
      { k with thr := thr }

/-- strip made ready to run: passes over blocks of up to 8,192 rows (Table 6-6), then the mask. -/
def Run.stripPrep (r : Run) (i : Issued) (v : Weights) : Prep × Run :=
  let t := tileFields i.tile.toNat
  match r.activations t true with
  | (x, xb, r) =>
    match r.scales t with
    | (sb, r) =>
      let all := chunks 8192 t.m (List.range t.m)
      ({ jobs := v.jobs t true none (fun _ _ => 0) (all.map fun ms => ms.map fun m => m - ms.headD 0)
         act := fun _ a => a
         fin := fun a => (a.r.stripMask i v x xb sb, [])
         left := v.left, err := v.err, own := true }, r)

/-! ### Passes and their completion -/

/-- A matrix instruction on the arrays made ready to run. -/
def State.prepOf (s : State) (n : CoreId) (i : Issued) : Option Prep × Option TileErr × Run :=
  let f := fieldsOf i.w
  let t := tileFields i.tile.toNat
  let r : Run := { s.runOf n i false with bad := i.met }
  if f.op = 0x82 ∧ bitOf f.fn 1 = true then
    match r.gradPrep i with
    | (p, r) => (p, none, r)
  else
    let u := if f.op = 0x84 then { t with xPlane := true } else t
    match r.weights i u (decide (f.op ≠ 0x85) && bitOf f.fn 0) with
    | (none, e, r) => (none, e, r)
    | (some v, _, r) =>
      match (if f.op = 0x84 then r.gatherPrep i v else if f.op = 0x85 then r.stripPrep i v else r.plainPrep i v) with
      | (p, r) => (some p, none, r)

/-- Passes from `j` on run, `count` of them at most. -/
def Prep.run (pr : Prep) (n : CoreId) (i : Issued) (j : Nat) : Nat → Toll → Toll
  | 0, a => a
  | count + 1, a =>
    match pr.jobs[j]? with
    | none => a
    | some b =>
      let r := a.r.on fun s => if b.image.isNone && decide (b.lanes.sum = 0) then s else s.beginPass n i j b
      let r := if r.s.cores[n].cellBad && r.bad.isNone then
          match r.s.draw 48 with
          | (a, s) => { r with s := s, bad := some a.toNat }
        else r
      pr.run n i (j + 1) count (pr.act j { a with r := r })

/-- The images of the passes to come, through the array class in issue order (R185): the instruction, the pass, the image, its tile cost; and
how many free values forming them has used. A held form needs none; the Developer's own instructions and the weight gradient of a later
instruction are waited for. -/
def State.upcoming (s : State) (n : CoreId) : Bool → List Issued → List (Issued × Nat × BitVec 16384 × Nat) × Nat
  | _, [] => ([], s.free)
  | first, i :: l =>
    let grad := decide ((fieldsOf i.w).op = 0x82) && bitOf (fieldsOf i.w).fn 1
    if s.loads n i && (first || !grad) then
      match s.prepOf n i with
      | (some p, _, r) =>
        match (if p.err.isNone then s.upcoming n false l else ([], s.free)) with
        | (t, used) =>
          (((p.jobs.zipIdx).drop i.done).filterMap (fun e => e.1.image.map fun q => (i, e.2, q.1, q.2)) ++ t, max used r.s.free)
      | (none, _, r) => ([], r.s.free)
    else if s.hasPasses n i && !grad then s.upcoming n false l
    else ([], s.free)

/-- The Developer prepares images from cycle `at'` on, up to ahead_slots of them beyond the pass that runs (R185). -/
def State.develop (s : State) (n : CoreId) (at' : Nat) : State :=
  match s.upcoming n true s.cores[n].array with
  | (l, used) =>
    let l := (l.filter fun e => (s.readyFor n e.1 e.2.1).isNone).take (s.aheadSlots n - s.cores[n].prep.length)
    l.foldl (fun s e => s.prepare n e.1 e.2.1 at' e.2.2.1 e.2.2.2) { s with free := used }

/-- Completion of a matrix instruction on the arrays: the passes left run and what follows the last is done. A malformed tile stops it at
the end of the pass in progress, which is at most ahead_slots passes behind the set that would have drawn from the tile. -/
def State.doArray (s : State) (n : CoreId) (i : Issued) : State :=
  let t := tileFields i.tile.toNat
  match s.prepOf n i with
  | (none, e, r) => r.stopped n i e
  | (some pr, _, r) =>
    let total := pr.jobs.length
    let gone (s : State) : State := if pr.own then s.setCtx i.ctx Ctx.noSets else s
    match pr.err with
    | some e =>
      let lo := max i.done (total - s.aheadSlots n)
      match r.s.draw 16 with
      | (q, s) =>
        let a := pr.run n i i.done (lo + q.toNat % (total + 1 - lo) - i.done) ⟨{ r with s := s }, i.missed, i.oob⟩
        (a.r.on fun s => gone (s.bump DVL_PERF.count [n.val, 0] pr.left)).stopped n i (some e)
    | none =>
      match pr.fin (pr.run n i i.done total ⟨r, i.missed, i.oob⟩) with
      | (r, exc) =>
        let f := fieldsOf i.w
        let wrote := decide (f.op ≠ 0x85) && (!t.accIn || (decide (f.op = 0x82) && bitOf f.fn 1))
        (r.on fun s => gone (s.bump DVL_PERF.count [n.val, 0] pr.left)).arrayEnd i true wrote (exc ++ r.poison 1)

/-! ### The matrix-vector path (R163, R200) -/

/-- The channels a lane consumes for the 64 outputs that hold output `o`. -/
def mvRed (t : TileD) (m : Mat) (ts : List Tile) (o : Nat) : List Nat :=
  if t.transpose then List.range t.n else unionOf t.k m ts (groupCols m 64 (o / 64))

/-- The sum of a row and an output on the matrix-vector path: 4 elements of reduction at a time. -/
def mvSum (t : TileD) (p : Mode) (w x : Nat → Nat → Val) (row out : Nat) (red : List Nat) : Val × Tally :=
  chain p.int 4 (red.length + 1) (.num false 0 1) (red.map fun r => (if t.transpose then w out r else w r out, x row r))

/-- The sums of an accumulator region that was lost are undefined where they are added to (R160). -/
def State.blurRegion (s : State) (n : CoreId) (slot : Fin 4) (t : TileD) : State :=
  (List.range (t.accSize / 4)).foldl (fun s e =>
    match s.draw 32 with
    | (v, s) => s.accPut n (((s.accWindow n slot).1 + t.accOff) / 4 + e) v.toNat false) s

/-- A matrix-vector instruction's weights, or where it stops: the matrix and its mode, its tiles, and how many outputs of its first row are
formed before the tile that fails; the Developer's cost is counted (R184, R200). -/
def Run.mvSets (r : Run) (i : Issued) : Option (Sets × Nat) × Run :=
  let t := tileFields i.tile.toNat
  match r.sets i t (groupsOf t) with
  | (none, r) => (none, r)
  | (some c, r) =>
    let r := r.on fun s => s.bump DVL_PERF.count [r.n.val, 0] ((c.ts.map Tile.cost).sum)
    match c.err with
    | none => (some (c, t.cout), r)
    | some e =>
      match r.s.draw 16 with
      | (q, s) => (some (c, if t.transpose then 0 else 64 * (q.toNat % (e.nt / 8 + 1))), { r with s := s })

/-- A matrix-vector instruction (R163): to Y, or with drain = 0 to the accumulator region. A malformed tile stops it within its first row,
where a free number of the rounds of 64 outputs before it have been written. -/
def State.doMv (s : State) (n : CoreId) (i : Issued) : State :=
  let t := tileFields i.tile.toNat
  match (s.runOf n i false).mvSets i with
  | (none, r) => r.stopped n i none
  | (some (c, most), r) =>
    match r.activations t false with
    | (x, xb, r) =>
      match r.siteMask t t.m with
      | (stands, r) =>
        match r.scales t with
        | (sb, r) =>
          let r := r.on fun s => if t.accIn && s.ctxs[i.ctx].accLost then s.blurRegion n i.slot t else s
          let p := c.p
          let ts := c.ts
          let w := weightVal false c.m ts
          let audit := s.bit DVL_CTRL.strip_audit [n.val] && t.maskEn
          let fill := s.bit DVL_CTRL.strip_fill [n.val] && !audit
          let k : Work := ⟨t, p, w, x, xb, [], true, i.slot⟩
          let f := accNum p.int
          let outs := (List.range t.cout).filter fun o => decide (o < most)
          let rows := if c.err.isSome then [0] else List.range t.m
          let tb := ts.any Tile.bad
          let dealt := rows.filter fun a => audit || stands a
          let form (s : State) (a o : Nat) : Val × Tally :=
            let v := mvSum t p w x a o (mvRed t c.m ts o)
            if t.accIn then
              match accAdd p.int (f.read (s.accGet n (k.entry s n 0 a o))) v.1 with
              | (u, y) => (u, v.2.plus y)
            else v
          let rowBad (a o : Nat) : Option Nat := (mvRed t c.m ts o).findSome? fun c => xb a c
          let bad := dealt.findSome? fun a => outs.findSome? fun o => rowBad a o
          let r := { r with bad := r.bad.or bad }
          let finish (r : Run) : State :=
            match c.err with
            | some e => r.stopped n i (some e)
            | none => r.arrayEnd i true (!t.drain && !t.accIn) (r.poison 1)
          if t.drain then
            let d : Drained × Tally := dealt.foldl (fun d a => outs.foldl (fun (d : Drained × Tally) o =>
              let v := form r.s a o
              let b := tb || (rowBad a o).isSome || (t.accIn && r.s.accIsBad n (k.entry r.s n 0 a o))
              (r.drainOne t t.m a o (stepV (sbOf t sb o) t.relu p.int v.1) b d.1, d.2.plus v.2)) d)
              (⟨[], [], [], [], 0⟩, Tally.zero)
            let miss := if audit then (dealt.filter fun a => !stands a && outs.any fun o =>
              let v := stepV (sbOf t sb o) false p.int (form r.s a o).1
              !v.isNan && !v.lt (fp32.read s.cores[n].thr)).length else 0
            let d' := if fill then (rows.filter fun a => !stands a).foldl (fun d a =>
              outs.foldl (fun d o => r.drainOne t t.m a o (.num false 0 1) false d) d) d.1 else d.1
            finish ((r.drained t d').on fun s => (s.tallyAcc n d.2).bump DVL_STRIP_MISS.strip_miss [n.val] miss)
          else
            finish (r.on fun s => dealt.foldl (fun s a => outs.foldl (fun s o =>
              let v := form s a o
              let e := k.entry s n 0 a o
              let b := tb || (rowBad a o).isSome || (t.accIn && s.accIsBad n e)
              let nan := if v.1.isNan then 1 else 0
              (s.accPut n e (f.put v.1).1 b).tallyAcc n { v.2 with nan := if t.accIn then v.2.nan else nan }) s) s)

/-- mv with vreg (R349): one row from v[b], the results to the lanes of v[d]. Where a malformed tile stops it, v[d] is left as it stands,
undefined (R321). -/
def State.doMvReg (s : State) (n : CoreId) (i : Issued) : State :=
  let t := tileFields i.tile.toNat
  match (s.runOf n i false).mvSets i with
  | (none, r) => r.stopped n i none
  | (some (c, _), r) =>
    match c.err with
    | some e => r.stopped n i (some e)
    | none =>
      match r.scales t with
      | (sb, r) =>
        let p := c.p
        let b := (numOf t.xFmt).width
        let x (_ c : Nat) : Val := (numOf t.xFmt).read (laneOf b i.vb.toNat c)
        let form (o : Nat) : Val × Tally := mvSum t p (weightVal false c.m c.ts) x 0 o (mvRed t c.m c.ts o)
        let lanes := (List.range t.cout).map fun o => (numOf t.yFmt).put (stepV (sbOf t sb o) t.relu p.int (form o).1)
        let tally := (List.range t.cout).foldl (fun a o => a.plus (form o).2) Tally.zero
        let v : VecReg := BitVec.ofNat 2048 (packLanes 32 (lanes.map (·.1)))
        let r := r.on fun s =>
          (s.setCtx i.ctx fun x => { x with v := x.v.set (fieldsOf i.w).d v }).tallyAcc n { tally with cvt := (lanes.filter (·.2)).length }
        r.arrayEnd i true false (r.poison 1)

/-! ### Events of the array class -/

/-- The instruction's context has lost the core: a matrix instruction pauses at the end of its pass, any other counted one goes on (R56, R160,
R286). -/
def State.arrayHeld (s : State) (i : Issued) : Bool :=
  let c := i.ctx
  let op := (fieldsOf i.w).op
  decide (0x82 ≤ op ∧ op ≤ 0x85 ∧ s.ctxs[c].ending = .none) &&
    (decide ((s.ctxState c = 2 ∨ s.ctxState c = 4) ∧ s.slotOf (s.coreOf c) c = none) ||
      (decide (s.ctxState c = 2) && (s.runningOn (s.coreOf c)).isSome))

/-- The first instruction that the arrays may go on with: the oldest whose context has none before it that pauses; `seen` are the contexts
passed over. -/
def State.nextUp (s : State) (seen : List CtxId) : List Issued → Option Issued
  | [] => none
  | i :: l => if seen.contains i.ctx then s.nextUp seen l else if s.arrayHeld i then s.nextUp (i.ctx :: seen) l else some i

/-- A paused instruction lets those of other contexts pass (R160, R286; assumption 117, DEDUCED): the one that the arrays go on with comes to
the front of the class, each context's own order kept. -/
def State.promote (s : State) (n : CoreId) : State :=
  match s.nextUp [] s.cores[n].array with
  | none => s
  | some i => s.setCore n fun k => { k with array := i :: k.array.filter fun x => decide (x.seq ≠ i.seq) }

/-- An acc_in = 1 matrix instruction finds its accumulators lost (R160); mv raises no such exception (Table 13-2). -/
def State.accMissing (s : State) (i : Issued) : Bool :=
  let f := fieldsOf i.w
  (decide (f.op = 0x82) && !bitOf f.fn 1 || decide (f.op = 0x84)) && (tileFields i.tile.toNat).accIn && s.ctxs[i.ctx].accLost

/-- What an array-class instruction leaves. -/
def State.doArrayClass (s : State) (n : CoreId) (i : Issued) : State :=
  let f := fieldsOf i.w
  if s.accMissing i then s.arrayEnd n i false false [(0x06, i.slot.val)]
  else
    match f.op with
    | 0x80 => s.doWld n i
    | 0x81 => s.doWswap n i
    | 0x82 => if s.hasPasses n i then s.doArray n i else s.doMv n i
    | 0x83 => if bitOf f.fn 0 then s.doMvReg n i else s.doMv n i
    | 0x84 => s.doArray n i
    | 0x85 => s.doArray n i
    | 0x88 => s.doDun n i
    | _ => s.doDint n i

/-- ARRAY_CLASS_COMPLETE (R342). -/
def execArrayClassComplete (dt : Nat) (n : CoreId) (s : State) : Ans :=
  let s := (s.advance dt).promote n
  .next (match s.headOf n .array with
    | none => s
    | some i => if s.arrayHeld i then s else s.doArrayClass n i)

/-- WEIGHT_SWAP (R151): the next pass of the instruction at the head of the array class begins, and the Developer prepares images ahead of it. -/
def execWeightSwap (dt : Nat) (n : CoreId) (s : State) : Ans :=
  let s := (s.advance dt).promote n
  .next (match s.headOf n .array with
    | none => s
    | some i =>
      if s.arrayHeld i || s.accMissing i || !s.hasPasses n i then s
      else
        match s.prepOf n i with
        | (none, _, _) => s
        | (some pr, _, r) =>
          if pr.jobs.length ≤ i.done then s
          else
            let a := pr.run n i i.done 1 ⟨r, i.missed, i.oob⟩
            let s := a.r.s.setHead n .array fun i => { i with done := i.done + 1, met := a.r.bad, missed := a.missed, oob := a.oob, laid := a.r.laid }
            s.develop n s.cores[n].clearAt)

/-- ARRAY_PASS_LIMIT (R160): the end of a pass, at which a context switch may take place. -/
def execArrayPassLimit (dt : Nat) (n : CoreId) (s : State) : Ans :=
  let s := s.advance dt
  .next (match s.headOf n .array with
    | none => s
    | some _ => s.preempt n)

/-- CCLK of a ramp step (Table 6-7). -/
def State.rampStep (s : State) (n : CoreId) : Nat := min 16 (max 2 (s.reg ARR_CTRL.ramp_step [n.val]))

/-- RAMP_STEP (R162): once ramp_step cycles have passed, the limit moves one step; the slots that a step up has held back are counted. -/
def execRampStep (dt : Nat) (n : CoreId) (s : State) : Ans :=
  let s := s.advance dt
  let i := [n.val]
  let level := s.reg ARR_STATUS.ramp_level i
  let dir := s.reg ARR_STATUS.ramp_dir i
  .next (if s.cycles n - s.cores[n].rampC < s.rampStep n ∨ dir = 0 then s
    else
      let s := s.setCore n fun k => { k with rampC := s.cycles n }
      if dir = 1 then
        let s := s.bump ARR_PERF.count [n.val, 4] (4 * ((List.range (s.rampStep n)).filter fun i => decide (level ≤ i % 8)).length)
        if level < 8 then s.setReg ARR_STATUS.ramp_level i (level + 1) else s.setReg ARR_STATUS.ramp_dir i 0
      else if 1 < level then s.setReg ARR_STATUS.ramp_level i (level - 1)
      else (s.setReg ARR_STATUS.ramp_level i 0).setReg ARR_STATUS.ramp_dir i 0)

/-- Work arrives at the arrays (R162): idle arrays ramp up from step 1, a ramp-down turns. -/
def State.rampUp (s : State) (n : CoreId) : State :=
  let i := [n.val]
  let level := s.reg ARR_STATUS.ramp_level i
  if level = 0 ∨ s.reg ARR_STATUS.ramp_dir i = 2 then
    ((s.setReg ARR_STATUS.ramp_level i (max level 1)).setReg ARR_STATUS.ramp_dir i 1).setCore n fun k => { k with rampC := s.cycles n }
  else s

/-- What the start of an instruction of a class shows. -/
def State.started (s : State) (n : CoreId) (u : UnitClass) (i : Issued) : State :=
  let f := fieldsOf i.w
  match u with
  | .array =>
    let t := tileFields i.tile.toNat
    let matrix := decide (f.op = 0x82 ∨ f.op = 0x83 ∨ f.op = 0x84)
    let s := if matrix && !t.accIn then
        s.setReg ACC_STATUS.lost [n.val] (s.reg ACC_STATUS.lost [n.val] &&& (15 ^^^ 2 ^ i.slot.val)) else s
    let mv := decide (f.op = 0x83) || (decide (f.op = 0x82 ∧ f.fn = 0) && s.onMv n 0x82 false t)
    if mv then s.setReg ARR_STATUS.mv_busy [n.val] 1
    else if s.hasPasses n i then ((s.setReg ARR_STATUS.transpose [n.val] (if t.transpose then 1 else 0)).rampUp n).develop n i.since
    else s
  | .select => if f.op = 0x9A then s.mergeStart n i else s
  | .sort => s.setReg SRT_STATUS.busy [n.val] 1
  | _ => s

/-- A core's sorts and grid operations go one at a time in issue order (R128, R225): the head of the one class waits for what was issued before
it to the other. -/
def State.mayStart (s : State) (n : CoreId) (u : UnitClass) : Bool :=
  let other := if u = .grid then s.cores[n].sort else if u = .sort then s.cores[n].grid else []
  match s.cores[n].cls u with
  | i :: _ => other.all fun x => decide (i.seq < x.seq)
  | [] => true

/-- The completion of an instruction that has started, as it would be now. -/
def State.finishing (s : State) (n : CoreId) (u : UnitClass) (i : Issued) : State :=
  match u with
  | .array => s.doArrayClass n i
  | .grid => s.doGrid n i
  | .select => s.doSelect n i
  | .sort => s.doSort n i
  | .table => s

/-- COMPUTE_START (R343, R344): the instruction at the head of a class starts; of the table class, the next once the earlier ones have formed their
requests. -/
def execComputeStart (dt : Nat) (n : CoreId) (u : UnitClass) (s : State) : Ans :=
  let s := s.advance dt
  let s := if u = .array then s.promote n else s
  .next (if u = .table then s.tableStart n
  else if !s.mayStart n u then s
  else match s.cores[n].cls u with
    | [] => s
    | i :: _ =>
      if i.started then s
      else
        let i := { i with started := true, since := s.cycles n }
        ((s.setHead n u fun _ => i).started n u i).foresee n u fun s => s.finishing n u i)

end Sys2Proof.Machine
end

