-- ==== Sys2Proof/Machine/Prints.lean ====
section
/-! DEFINITION. Machine/Prints.lean: completion of exposures (R50, R51), Prints and their rings (R58 to R61, R367, R368), and the
protective-zone checker (R439, R440). -/
namespace Sys2Proof.Machine
open Reg

/-! ### Exposures and their completion -/

/-- The deadline of a closed exposure (R50). -/
def Exp.deadline (e : Exp) : Option Nat := e.closeNs.map (· + e.limitNs)

/-- The lag now (R51): what was last set, and at least the lateness of every incomplete exposure past its deadline. -/
def State.lagNow (s : State) : Nat :=
  (s.exps.filter fun e => !e.complete && !e.overrun).foldl (fun m e =>
    match e.deadline with
    | some d => max m (s.now - d)
    | none => m) s.lag

/-- Exposure `j` is complete (R50, R51, R40): lag and late_count follow, except for an overrun exposure. One that is still open has
its deadline ahead of it. -/
def State.completeExp (s : State) (j : Nat) : State :=
  match s.expRec j with
  | none => s
  | some e =>
    if e.complete then s
    else
      let s := s.setExp j fun e => { e with complete := true, doneT := s.clk.tclk }
      match e.overrun, e.deadline with
      | false, some d =>
        if d < s.now then ({ s with lag := s.now - d }).bump FE_EXP_STATUS.late_count [] else { s with lag := 0 }
      | false, none => { s with lag := 0 }
      | true, _ => s

/-- Exposure `j` is among the 256 closed most recently (R367 step 4). -/
def State.recorded (s : State) (j : Nat) : Option Exp :=
  let next := s.reg FE_EXP_NUMBER.open_number
  match s.expRec j with
  | some e => if e.closeNs.isSome && decide (next ≤ j + 256) then some e else none
  | none => none

/-! ### The header (Table 2-2) -/

/-- A time of Table 2-2: 6 bytes of seconds, 4 of nanoseconds. -/
def timeBytes (ns : Nat) : List Byte := bytesOf 6 (ns / 1000000000) ++ bytesOf 4 (ns % 1000000000)

/-- The flags of a Print (Table 2-3); `agreed` is the answer of its comparison, `hdr` marks the header of an overrun exposure. Only
state 0 is the safe state (Table 17-4). -/
def State.printFlags (s : State) (e : Exp) (type : Nat) (agreed hdr : Bool) : Nat :=
  let bad := decide (type = 2) && !agreed
  let b (x : Bool) (i : Nat) : Nat := if x then 2 ^ i else 0
  b (decide (s.reg SAFE_STATUS.state ≠ 0) && !hdr && !bad) 0 +
  b (match e.deadline with
    | some d => decide (d < s.now)
    | none => false) 1 +
  b (decide (0 < e.dropped) || e.overrun) 2 + b bad 3 + b (decide (histOf s.mon.disagreed e.num ≠ 0)) 4

/-- Prints committed of an exposure so far. -/
def State.seqOf (s : State) (j : Nat) : Nat := (alookup j s.seqs).getD 0

/-- The 64 bytes of a header. -/
def State.header (s : State) (p : PartId) (producer type j : Nat) (last agreed hdr : Bool) (payload : List Byte) : List Byte :=
  let e := s.recorded j
  let pick (f : Exp → Nat) : Nat := match e with
    | some e => f e
    | none => 0
  let h := bytesOf 2 type ++ bytesOf 1 1 ++ bytesOf 1 (pick fun e => if e.overrun then 0 else e.slices) ++
    bytesOf 2 (pick fun e => s.printFlags e type agreed hdr) ++ bytesOf 1 producer ++ bytesOf 1 p.val ++ bytesOf 8 j ++
    timeBytes (pick Exp.openNs) ++ timeBytes (pick fun e => e.closeNs.getD 0) ++ timeBytes s.now ++
    bytesOf 2 (s.seqOf j % 2 ^ 15 + if last then 2 ^ 15 else 0) ++ bytesOf 4 (pick fun e => if e.overrun then 0 else e.accepted) ++
    bytesOf 4 (pick Exp.dropped) ++ bytesOf 4 payload.length
  h ++ bytesOf 4 (crc32 (h ++ payload)).toNat

/-! ### Rings -/

/-- log2 of the slots of a ring (Table 14-6). -/
def State.printSlots (s : State) (p : PartId) : Nat :=
  let n := s.reg DMA_PRINT_RING.size_log2 [p.val]
  if 4 ≤ n ∧ n ≤ 16 then n else 4

/-- log2 of the bytes of a slot. -/
def State.slotSize (s : State) (p : PartId) : Nat :=
  let n := s.reg DMA_PRINT_RING.slot_log2 [p.val]
  if 7 ≤ n ∧ n ≤ 12 then n else 12

/-- The ring has a free slot (R367 step 3). -/
def State.ringFree (s : State) (p : PartId) : Bool :=
  decide ((s.reg DMA_PRINT_PTR.head [p.val] + 2 ^ 32 - s.reg DMA_PRINT_PTR.tail [p.val]) % 2 ^ 32 < 2 ^ s.printSlots p)

/-- The address of the slot that head names. -/
def State.slotAddr (s : State) (p : PartId) : Nat :=
  4096 * s.reg DMA_PRINT_RING.base [p.val] + s.reg DMA_PRINT_PTR.head [p.val] % 2 ^ s.printSlots p * 2 ^ s.slotSize p

/-- Write bytes line by line at a device address that is permitted. -/
def State.writeSpan (s : State) (p : PartId) (a : Nat) (bs : List Byte) : Nat → State
  | 0 => s
  | fuel + 1 =>
    if bs = [] then s
    else
      let k := 32 - a % 32
      (s.writeAt p a (bs.take k)).writeSpan p (a + k) (bs.drop k) fuel

/-- Steps 4 to 6 of R367: the header is filled, payload and header are written, head and the exposure's count of Prints advance,
print_so is signalled, and a last Print completes its exposure. -/
def State.commitPrint (s : State) (p : PartId) (producer type j : Nat) (last agreed hdr : Bool) (payload : List Byte) : State :=
  let a := s.slotAddr p
  let h := s.header p producer type j last agreed hdr payload
  let s := if (s.recorded j).isNone then s.bump DMA_PRINT_SO.stale [p.val] else s
  let s := { s with seqs := aset j (s.seqOf j + 1) 0 s.seqs }
  let s := s.writeSpan p (a + 64) payload (payload.length / 32 + 2)
  let s := s.writeSpan p a h 3
  let s := s.wrap DMA_PRINT_PTR.head [p.val]
  let s :=
    if s.bit DMA_PRINT_SO.so_en [p.val] then
      s.soCome (s.reg DMA_PRINT_SO.print_so [p.val]) .signal (s.reg DMA_PRINT_PTR.head [p.val])
    else s
  if last then s.completeExp j else s

/-- FRONT_END_HEADER_PRINT (R40, R368): the oldest header owed to a ring is committed, or waits for a slot. -/
def execFrontEndHeaderPrint (dt : Nat) (p : PartId) (s : State) : Ans :=
  let s := s.advance dt
  .next (match s.heads.find? fun e => decide (e.2.1 = p) with
    | none => s
    | some (j, _, waited) =>
      if s.ringFree p then
        let s := { s with heads := s.heads.filter fun e => !decide (e.1 = j ∧ e.2.1 = p) }
        s.commitPrint p 0x40 0 j true true true []
      else if waited then s
      else
        ({ s with heads := s.heads.map fun (e : Nat × PartId × Bool) => if e.1 = j ∧ e.2.1 = p then (j, p, true) else e }).bump DMA_PRINT_SO.full_wait [p.val])

/-! ### The checker (R439, R440) -/

/-- The zones in which an occupied mask disagrees with the counts of an exposure. -/
def Exp.zonesBad (e : Exp) (mask : Nat) : List Nat :=
  (List.range 16).filter fun z =>
    let c := e.zones[z]!
    decide (csrGet e.cfg SAFE_ZCHK.chk_en [z] = 1) &&
      ((decide (csrGet e.cfg SAFE_ZCHK.hi [z] ≤ c) && !bitOf mask z) || (decide (c ≤ csrGet e.cfg SAFE_ZCHK.lo [z]) && bitOf mask z))

/-- The checker is on for an exposure. -/
def Exp.checked (e : Exp) : Bool := decide (csrGet e.cfg SAFE_CHK.en [] = 1)

/-- The occupied mask of a protective record. -/
def maskOfRecord (payload : List Byte) : Nat := if payload.length < 8 then 0 else natOfBytes (payload.take 2)

/-- Keep the exposures of the record of R440. -/
def keepHist (j : Nat) (l : List Nat) : List Nat := l.filter fun e => decide (j ≤ e + 8)

/-- A comparison ends (R439, R440): the exposure is compared, and its first disagreement is recorded, with the fault of a second one
within 8 exposures. An overrun exposure never disagrees. -/
def State.compared (s : State) (e : Exp) (payload : List Byte) : Bool × State :=
  let j := e.num
  let bad := if e.overrun then [] else e.zonesBad (maskOfRecord payload)
  let s := s.setExp j fun e => { e with compared := true, disagreed := e.disagreed || decide (bad ≠ []) }
  let first := decide (bad ≠ []) && !e.disagreed
  let before := decide (histOf s.mon.disagreed j / 2 % 128 ≠ 0)
  let latest := max s.mon.latest j
  let s := { s with mon := { s.mon with
    latest := latest
    disagreed := keepHist latest (if first then insertNat j s.mon.disagreed else s.mon.disagreed) } }
  let s := s.setReg SAFE_STATUS.warn [] (if histOf s.mon.disagreed j = 0 then 0 else 1)
  let s := if first then s.bump SAFE_COUNT.disagree [] else s
  let s := if first && before then s.detect 0x30 (bad.headD 0) (some j) else s
  (decide (bad = []), s.frameUpdate)

end Sys2Proof.Machine
end

