-- ==== Sys2Proof/Machine/Dma.lean ====
section
/-! DEFINITION. Machine/Dma.lean: the DMA engines (R340, R360 to R377): channels, beats, compression, halts, Print-mode channels. -/
namespace Sys2Proof.Machine
open Reg

/-! ### Engines and channels -/

/-- An engine: a core's, or the fabric's (none). -/
abbrev Engine := Option CoreId

/-- A channel of an engine, if it is running. -/
def State.chan (s : State) (e : Engine) (k : Nat) : Option Chan :=
  match e with
  | some n => (s.cores[n].dma[k]?).join
  | none => (s.fabric[k]?).join

/-- Replace a channel. -/
def State.setChan (s : State) (e : Engine) (k : Nat) (d : Option Chan) : State :=
  match e with
  | some n => s.setCore n fun c => { c with dma := c.dma.setIfInBounds k d }
  | none => { s with fabric := s.fabric.setIfInBounds k d }

/-- A field of a channel's registers. -/
def State.dreg (s : State) (e : Engine) (k : Nat) (core fab : Fld) : Nat :=
  match e with
  | some n => s.reg core [n.val, k]
  | none => s.reg fab [k]

/-- Set a field of a channel's registers. -/
def State.setDreg (s : State) (e : Engine) (k : Nat) (core fab : Fld) (v : Nat) : State :=
  match e with
  | some n => s.setReg core [n.val, k] v
  | none => s.setReg fab [k] v

/-- Source, destination, count and mode of a channel. -/
def State.dSrc (s : State) (e : Engine) (k : Nat) : Nat := s.dreg e k CDMA_SRC.value DMA_SRC.value
/-- Destination, or exposure number of a Print. -/
def State.dDst (s : State) (e : Engine) (k : Nat) : Nat := s.dreg e k CDMA_DST.value DMA_DST.value
/-- Count. -/
def State.dCnt (s : State) (e : Engine) (k : Nat) : Nat := s.dreg e k CDMA_CNT.value DMA_CNT.value
/-- Mode. -/
def State.dMode (s : State) (e : Engine) (k : Nat) : Nat := s.dreg e k CDMA_CTRL.mode DMA_CTRL.mode

/-- Cycles of an engine's clock. -/
def State.dCycles (s : State) (e : Engine) : Nat :=
  match e with
  | some n => s.cycles n
  | none => s.fclk

/-- The source and partition an engine's channel acts as (R274, R361). -/
def State.dWho (s : State) (e : Engine) (k : Nat) (d : Chan) : Src × PartId :=
  match e with
  | some n => (.core n, s.partOf (.ctx d.ctx))
  | none => (.fabric, Fin.ofNat 4 (s.reg DMA_OWN.part [k]))

/-! ### Permission and data -/

/-- A line of the engine's own scratchpad. -/
def ownLine (s : State) (e : Engine) (a : Nat) : Bool :=
  match e, regionOf s a with
  | some n, .spm m o => decide (m = n ∧ o < 0x300000)
  | _, _ => false

/-- Why a beat is denied (R362): chunks of the own scratchpad, windows, maps. -/
def State.dDenial (s : State) (e : Engine) (k : Nat) (d : Chan) (wr : Bool) (a : Nat) : Option Denial :=
  if ownLine s e a then
    match e, regionOf s a with
    | some n, .spm _ o => if (chunksOf (o / 32) 1).all fun c => s.chunkOk n d.ctx false c then none else some .chunk
    | _, _ => none
  else
    let w := s.dWho e k d
    s.denialAt w.1 w.2 wr a

/-- Cause of a denial in a channel's status (R373). -/
def denialCause : Denial → Nat
  | .window _ _ => 3
  | .bell _ _ _ => 3
  | _ => 2

/-- The halt of a channel at a denied beat. -/
def denialStop (a : Nat) (r : Denial) : Failure := ⟨denialCause r, a, denialExc r a⟩

/-- A denial of a beat, recorded. -/
def State.dDenied (s : State) (e : Engine) (k : Nat) (d : Chan) (a : Nat) (r : Denial) : Failure × State :=
  let w := s.dWho e k d
  (denialStop a r, s.recordDenial w.1 w.2 r)

/-- An address of host memory. -/
def isHost (s : State) (a : Nat) : Bool :=
  match regionOf s a with
  | .host _ _ => true
  | _ => false

/-- Read bytes of one line: errors are met; `host` is what the reads of host memory return, from here on, and what is left of it is
answered with the bytes. -/
def State.dReadPart (s : State) (e : Engine) (k : Nat) (d : Chan) (a n : Nat) (host : List Byte) : (Failure ⊕ List Byte × List Byte) × State :=
  match s.dDenial e k d false a with
  | some r =>
    match s.dDenied e k d a r with
    | (f, s) => (.inl f, s)
  | none =>
    if isHost s a then (.inr ((List.range n).map fun j => host.getD j 0, host.drop n), s)
    else
      let s := s.settleRange a n
      if s.poisonedIn a n then (.inl ⟨1, a, (0x0B, k)⟩, s)
      else (.inr (bytesOf n (if ownLine s e a then s.readNat a n else s.readAt a n 0), host), s)

/-- Read bytes that may lie in several lines. -/
def State.dRead (s : State) (e : Engine) (k : Nat) (d : Chan) (a n : Nat) (host : List Byte) :
    Nat → (Failure ⊕ List Byte × List Byte) × State
  | 0 => (.inr ([], host), s)
  | fuel + 1 =>
    if n = 0 then (.inr ([], host), s)
    else
      let m := min n (32 - a % 32)
      match s.dReadPart e k d a m host with
      | (.inl f, s) => (.inl f, s)
      | (.inr (b, host), s) =>
        match s.dRead e k d (a + m) (n - m) host fuel with
        | (.inl f, s) => (.inl f, s)
        | (.inr (c, host), s) => (.inr (b ++ c, host), s)

/-- Write bytes within one line. -/
def State.dWrite (s : State) (e : Engine) (k : Nat) (d : Chan) (a : Nat) (bs : List Byte) : Option Failure × State :=
  if ownLine s e a then
    match s.dDenial e k d true a with
    | some r => (some (denialStop a r), s)
    | none => (none, (s.overwriteAt d.ctx a).writeBytes a bs)
  else
    match s.deposit (s.dWho e k d).1 (s.dWho e k d).2 a (bs.map some) with
    | (r, s) => (r.map (denialStop a), s)

/-! ### Transfers (R363 to R365) -/

/-- The byte of the source that becomes byte `j` of the destination. -/
def swapByte (swap j : Nat) : Nat :=
  match swap with
  | 1 => j ^^^ 1
  | 2 => j ^^^ 3
  | 3 => j ^^^ 7
  | 4 => j ^^^ 2
  | _ => j

/-- Bytes of a swap unit. -/
def swapUnit (swap : Nat) : Nat :=
  match swap with
  | 0 => 1
  | 1 => 2
  | 3 => 8
  | _ => 4

/-- Bytes of a row, rows, and the pitches of a linear or 2D transfer. -/
def rowsOf (mode cnt : Nat) : Nat × Nat × Nat × Nat :=
  if mode = 0 then (bitsOf cnt 31 0, 1, 0, 0)
  else (bitsOf cnt 15 0, bitsOf cnt 31 16 + 1, 32 * bitsOf cnt 47 32, 32 * bitsOf cnt 63 48)

/-- Lines that `n` bytes at address `a` touch. -/
def linesAt (a n : Nat) : Nat := if n = 0 then 0 else (a + n - 1) / 32 - a / 32 + 1

/-- Beats that a linear or 2D transfer has left to write. -/
def beatsLeft (mode dst cnt : Nat) (d : Chan) : Nat :=
  let r := rowsOf mode cnt
  if r.2.1 ≤ d.row then 0 else linesAt (dst + d.pos) (r.1 - d.pos) + (r.2.1 - 1 - d.row) * linesAt dst r.1

/-- The bytes `m` from byte `pos` of a row on, in swapped order (R365), and the bytes of `src` that the next beat needs again: `src` holds
the row from the start of the swap unit of `pos` on. -/
def swapped (swap pos m : Nat) (src : List Byte) : List Byte × List Byte :=
  let u := swapUnit swap
  let lo := pos / u * u
  ((List.range m).map fun j => src.getD (swapByte swap (pos + j) - lo) 0, src.drop ((pos + m) / u * u - lo))

/-- A beat goes into the staging buffer. -/
def Chan.stages (d : Chan) (b : Beat) : Chan := { d with stage := d.stage ++ [b] }

/-- One read of a linear or 2D channel: the bytes of the next destination line, a swap unit that it ends in whole. -/
def State.dFetch (s : State) (e : Engine) (k : Nat) (d : Chan) (host : List Byte) : Chan × List Byte × State :=
  let r := rowsOf (s.dMode e k) (s.dCnt e k)
  if r.2.1 ≤ d.rrow then (d, host, s)
  else
    let src := s.dSrc e k + d.rrow * r.2.2.1
    let a := s.dDst e k + d.rrow * r.2.2.2 + d.rpos
    let swap := s.dreg e k CDMA_CTRL.swap DMA_CTRL.swap
    let m := min (r.1 - d.rpos) (32 - a % 32)
    let u := swapUnit swap
    let lo := d.rpos / u * u + d.carry.length
    let hi := min r.1 ((d.rpos + m + u - 1) / u * u)
    match s.dRead e k d (src + lo) (hi - lo) host 4 with
    | (.inl f, s) => (d.stages (.stop f none), host, s)
    | (.inr (bs, host), s) =>
      let x := swapped swap d.rpos m (d.carry ++ bs)
      let ends := decide (d.rpos + m = r.1)
      let d := { d with carry := if ends then [] else x.2 }.stages (.data a x.1 (ends && decide (d.rrow + 1 = r.2.1)))
      (if ends then { d with rrow := d.rrow + 1, rpos := 0 } else { d with rpos := d.rpos + m }, host, s)

/-- One read of a Print's payload (R365; assumption 103, DEDUCED): each begins a whole number of units. -/
def State.dFetchPrint (s : State) (e : Engine) (k : Nat) (d : Chan) (host : List Byte) : Chan × List Byte × State :=
  let len := bitsOf (s.dCnt e k) 15 0
  if len ≤ d.rpos then (d, host, s)
  else
    let m := min 32 (len - d.rpos)
    match s.dRead e k d (s.dSrc e k + d.rpos) m host 4 with
    | (.inl f, s) => (d.stages (.stop f none), host, s)
    | (.inr (bs, host), s) =>
      let out := (swapped (s.dreg e k CDMA_CTRL.swap DMA_CTRL.swap) d.rpos m bs).1
      ({ d with rpos := d.rpos + m }.stages (.data 0 out (decide (d.rpos + m = len))), host, s)

/-! ### Compress mode (R366, R179) -/

/-- A value is +0 or -0. -/
def isZeroVal (elem v : Nat) : Bool :=
  decide (v = 0) || (decide (elem ≠ 0 ∧ elem ≠ 3) && decide (v = 2 ^ (elemBits elem - 1)))

/-- Values packed at `eb` bits each. -/
def packValues (eb : Nat) (l : List Nat) : List Byte := bytesOf (ceilDiv (l.length * eb) 8) (packLanes eb l)

/-- Zeros up to a multiple of 8 bytes. -/
def pad8 (b : List Byte) : List Byte := b ++ List.replicate (up8 b.length - b.length) 0

/-- The header of a tile (Table 7-2) with its body, padded. -/
def tileBytes (fmt elem n size : Nat) (body : List Byte) : List Byte :=
  pad8 (bytesOf 1 (fmt + 16 * elem) ++ [0] ++ bytesOf 2 n ++ bytesOf 2 (up8 size) ++ [0, 0] ++ body)

/-- The run fields of a column whose entries lie at ascending rows; `pos` is the next row (R177). -/
def runFields (pos : Nat) : List Nat → List Nat
  | [] => []
  | r :: l => List.replicate ((r - pos) / 15) 15 ++ ((r - pos) % 15 :: runFields (r + 1) l)

/-- A tile's values stored again (R179, R366): dense, or the smallest of the three formats with zeros as non-entries. -/
def encodeTile (elem : Nat) (dense : Bool) (val : Nat → Nat → Nat) : List Byte :=
  let eb := elemBits elem
  let col (c : Nat) : List Nat := (List.range 128).filter fun k => !isZeroVal elem (val k c)
  let cols := (List.range 8).map col
  let n := (cols.map List.length).sum
  let fields := cols.flatMap (runFields 0)
  let values := (List.range 8).flatMap fun c => (col c).map fun k => val k c
  let vb := ceilDiv (n * eb) 8
  let sDense := 8 + 128 * eb
  let sBm := 136 + vb
  let sRlz := 16 + ceilDiv fields.length 2 + vb
  if dense || decide (sDense ≤ sBm ∧ sDense ≤ sRlz) then
    tileBytes 0 elem 1024 sDense (packValues eb ((List.range 8).flatMap fun c => (List.range 128).map fun k => val k c))
  else if sBm ≤ sRlz then
    tileBytes 2 elem n sBm ((List.range 128).map (fun j => BitVec.ofNat 8 (packLanes 1 ((List.range 8).map fun b =>
      if isZeroVal elem (val (8 * (j % 16) + b) (j / 16)) then 0 else 1))) ++ packValues eb values)
  else
    tileBytes 1 elem n sRlz (cols.map (fun l => BitVec.ofNat 8 l.length) ++ packValues 4 fields ++ packValues eb values)

/-- The compressed bytes up to the next line of the destination go into the staging buffer. -/
def Chan.cut (d : Chan) (e : Enc) : Chan :=
  let m := 32 - e.dst % 32
  let rest := e.out.drop m
  let last := e.header && rest.isEmpty
  { d with enc := some { e with out := rest, dst := e.dst + m, fin := last } }.stages (.data e.dst (e.out.take m) last)

/-- A place at which a compress channel halts. -/
def Chan.stopsAt (d : Chan) (e : Enc) (f : Failure) (t : Option TileErr) : Chan :=
  { d with enc := some { e with fin := true } }.stages (.stop f t)

/-- The matrix that a stored header describes (Table 7-1). -/
def headerMat (h : List Byte) : Mat :=
  let at' (o w : Nat) : Nat := natOfBytes ((h.drop o).take w)
  ⟨0, 0, at' 0 2, at' 2 2, at' 4 1, at' 8 4⟩

/-- A compress channel begins: it reads the source's header (R363, R366). -/
def State.encStart (s : State) (e : Engine) (k : Nat) (d : Chan) (host : List Byte) : Chan × List Byte × State :=
  let src := s.dSrc e k
  let c : Enc := ⟨[], 0, none, [], [], 0, 0, false, false⟩
  match s.dRead e k d src 32 host 4 with
  | (.inl f, s) => (d.stopsAt c f none, host, s)
  | (.inr (h, host), s) =>
    let m := headerMat h
    if m.len ≠ bitsOf (s.dCnt e k) 31 0 then (d.stopsAt c ⟨4, src, (0x04, 0)⟩ none, host, s)
    else ({ d with enc := some { c with head := h, dst := s.dDst e k + 32 + up8 (4 * m.cols) } }, host, s)

/-- A compress channel reads the group entry of the next tile column. -/
def State.encColumn (s : State) (e : Engine) (k : Nat) (d : Chan) (c : Enc) (host : List Byte) : Chan × List Byte × State :=
  match s.dRead e k d (s.dSrc e k + 32 + 4 * c.col) 4 host 4 with
  | (.inl f, s) => (d.stopsAt c f none, host, s)
  | (.inr (b, host), s) =>
    let first := 32 + up8 (4 * (headerMat c.head).cols)
    ({ d with enc := some { c with at' := some (natOfBytes b, 0), table := c.table ++ [first + c.total] } }, host, s)

/-- A compress channel reads the tile at offset `o`, tile row `kt`, checks it (Table 7-5) and encodes it again. -/
def State.encTile (s : State) (e : Engine) (k : Nat) (d : Chan) (c : Enc) (o kt : Nat) (host : List Byte) : Chan × List Byte × State :=
  let src := s.dSrc e k
  let m := headerMat c.head
  let bad (x : Nat) (s : State) (host : List Byte) : Chan × List Byte × State :=
    (d.stopsAt c ⟨4, src + o, (0x04, 0)⟩ (some ⟨x, kt, c.col⟩), host, s)
  if m.len < o + 8 then bad 6 s host
  else
    match s.dRead e k d (src + o) 8 host 4 with
    | (.inl f, s) => (d.stopsAt c f none, host, s)
    | (.inr (hd, host), s) =>
      let len := max 8 (min (natOfBytes ((hd.drop 4).take 2)) (m.len - o))
      match s.dRead e k d (src + o + 8) (len - 8) host (len / 32 + 4) with
      | (.inl f, s) => (d.stopsAt c f none, host, s)
      | (.inr (body, host), s) =>
        match decodeTile m (hd ++ body) kt c.col with
        | .inl t => bad t.cause s host
        | .inr (t, len) =>
          let val (r q : Nat) : Nat := ((t.es.find? fun x => decide (x.1 = r ∧ x.2.1 = q)).map (·.2.2)).getD 0
          let l := encodeTile m.elem (decide (s.dreg e k CDMA_CTRL.cfmt DMA_CTRL.cfmt = 1)) val
          ({ d with enc := some { c with at' := some (o + len, kt + 1), out := c.out ++ l, total := c.total + l.length } }, host, s)

/-- One read of a compress channel: encoded bytes fill the staging buffer line by line, and where none fills a line it reads the next of
the source; the header and the group table, recomputed, are written last (R366). -/
def State.dFetchTile (s : State) (e : Engine) (k : Nat) (d : Chan) (host : List Byte) : Chan × List Byte × State :=
  match d.enc with
  | none => s.encStart e k d host
  | some c =>
    let m := headerMat c.head
    let first := 32 + up8 (4 * m.cols)
    if c.fin then (d, host, s)
    else if c.header || decide (32 - c.dst % 32 ≤ c.out.length) then (d.cut c, host, s)
    else if m.cols ≤ c.col then
      if c.out.isEmpty then
        let out := c.head.take 8 ++ bytesOf 4 (first + c.total) ++ List.replicate 20 0 ++ pad8 (c.table.flatMap fun o => bytesOf 4 o)
        ({ d with enc := some { c with out := out, dst := s.dDst e k, header := true } }, host, s)
      else (d.cut c, host, s)
    else
      match c.at' with
      | none => s.encColumn e k d c host
      | some (o, kt) =>
        if m.rows ≤ kt then ({ d with enc := some { c with col := c.col + 1, at' := none } }, host, s)
        else s.encTile e k d c o kt host

/-! ### Halts (R373, R374) -/

/-- The registers of a halted channel: what remains of a linear or 2D transfer. Where every beat is written and the doorbell is denied,
nothing remains of a linear transfer, and the last row is a 2D transfer's current one (assumption 113, DEDUCED). -/
def State.dRemain (s : State) (e : Engine) (k : Nat) (d : Chan) : State :=
  let mode := s.dMode e k
  let src := s.dSrc e k
  let dst := s.dDst e k
  let cnt := s.dCnt e k
  let r := rowsOf mode cnt
  let put (s : State) (a b c : Nat) : State :=
    ((s.setDreg e k CDMA_SRC.value DMA_SRC.value a).setDreg e k CDMA_DST.value DMA_DST.value b).setDreg e k CDMA_CNT.value
      DMA_CNT.value c
  if mode = 0 then
    let n := if d.row = 0 then d.pos else r.1
    put s (src + n) (dst + n) (cnt - n)
  else if mode = 1 then
    let n := min d.row (r.2.1 - 1)
    put s (src + n * r.2.2.1) (dst + n * r.2.2.2) (cnt - 2 ^ 16 * n)
  else s

/-- Step 3 of R367 for the Print that holds the buffer, its comparison answered: it stands ready where its ring has a free slot, and
otherwise waits, which counts once. -/
def State.printHold (s : State) (n : CoreId) (k : Nat) (d : Chan) (agreed : Bool) : State :=
  let p := s.partOf (.ctx d.ctx)
  if s.ringFree p then (s.setReg CDMA_STATUS.waiting [n.val, k] 0).setChan (some n) k (some { d with phase := .ready agreed })
  else
    ((s.bump DMA_PRINT_SO.full_wait [p.val]).setReg CDMA_STATUS.waiting [n.val, k] 1).setChan (some n) k (some { d with phase := .full agreed })

/-- The answer that a type 0x0002 Print of exposure `j` has without a comparison (R60, R439): the checker is off for its exposure, or the
exposure is recorded no more, so that no flag shows. None while the comparison is to come: it needs the exposure's counts, which step 6
of the front end delivers (R118). -/
def State.printAnswer (s : State) (j : Nat) : Option Bool :=
  match s.expRec j with
  | some e => if e.checked then (if e.closeNs.isSome && (s.recorded j).isNone then some true else none) else some true
  | none =>
    if s.bit SAFE_CHK.en [] && decide (s.reg FE_EXP_NUMBER.open_number ≤ j) then none else some true

/-- After the payload of a Print has been read: a protective Print waits for its comparison (R367 step 2), any other goes to step 3. -/
def State.printRead (s : State) (n : CoreId) (k : Nat) (d : Chan) : State :=
  if bitsOf (s.dCnt (some n) k) 31 16 ≠ 2 then s.printHold n k d true
  else
    match s.printAnswer (s.dDst (some n) k) with
    | some b => s.printHold n k d b
    | none => (s.setReg CDMA_STATUS.waiting [n.val, k] 1).setChan (some n) k (some { d with phase := .comparing })

/-- A Print takes the buffer: it reads its payload, and one without a payload has read it. -/
def State.printTakes (s : State) (n : CoreId) (k : Nat) (d : Chan) : State :=
  let s := s.setReg CDMA_STATUS.waiting [n.val, k] 0
  if bitsOf (s.dCnt (some n) k) 15 0 = 0 then s.printRead n k d else s

/-- A channel runs no more: the Print buffer passes on, its status is idle. -/
def State.dRelease (s : State) (e : Engine) (k : Nat) : State :=
  let s := s.setChan e k none
  let s := (s.setDreg e k CDMA_STATUS.busy DMA_STATUS.busy 0).setDreg e k CDMA_STATUS.waiting DMA_STATUS.waiting 0
  match e with
  | none => s
  | some n =>
    let held := s.cores[n].printQ.head?
    let s := s.setCore n fun c => { c with printQ := c.printQ.filter fun j => decide (j.val ≠ k) }
    match s.cores[n].printQ with
    | [] => s
    | j :: _ =>
      if held = some j then s
      else
        match s.cores[n].dma[j] with
        | some q => s.printTakes n j.val q
        | none => s

/-- A channel halts. -/
def State.dHalt (s : State) (e : Engine) (k : Nat) (d : Chan) (f : Failure) : State :=
  let s := s.dRemain e k d
  let s := s.dRelease e k
  let s := (s.setDreg e k CDMA_STATUS.halted DMA_STATUS.halted 1).setDreg e k CDMA_STATUS.cause DMA_STATUS.cause f.cause
  let s := s.setDreg e k CDMA_STATUS.fail_addr DMA_STATUS.fail_addr f.addr
  match e with
  | some n =>
    let s := s.setReg CDMA_STATUS.ctx [n.val, k] d.ctx.val
    (s.completion d.ctx f.exc.1 f.exc.2 d.pc).settle d.ctx
  | none => s.hwAdd (s.bit DMA_CTRL.so_on_halt [k]) (s.reg DMA_CTRL.done_so [k])

/-- A halt on a malformed tile: invalid operand of unit 7 with a free index; a core's Developer status records it (R178). -/
def State.dHaltTile (s : State) (e : Engine) (k : Nat) (d : Chan) (f : Failure) (t : Option TileErr) : State :=
  let s := match e, t with
    | some n, some t => s.tileFailed n t
    | _, _ => s
  if f.cause = 4 then
    match s.draw 8 with
    | (q, s) => s.dHalt e k d { f with exc := (0x04, opInfo 7 q.toNat) }
  else s.dHalt e k d f

/-! ### Starting a channel (R340, R361, R370, R372) -/

/-- An address that no channel takes: too wide, or in CSR space. -/
def badAddr (a : Nat) : Bool := decide (2 ^ 48 ≤ a ∨ (csrBase ≤ a ∧ a < csrBase + 0x4000000))

/-- What R372 refuses. -/
def State.dRefused (s : State) (fab : Bool) (p : PartId) (src dst cnt ctl : Nat) : Bool :=
  let mode := bitsOf ctl 55 53
  let swap := bitsOf ctl 58 56
  let row := if mode = 1 then bitsOf cnt 15 0 else bitsOf cnt 31 0
  decide (3 < mode) || decide (4 < swap) || badAddr src ||
    (if mode = 3 then
      let len := bitsOf cnt 15 0
      let type := bitsOf cnt 31 16
      fab || decide (len % swapUnit swap ≠ 0) || decide (4032 < len ∨ 2 ^ s.slotSize p < len + 64) || decide (type = 0 ∨ (2 < type ∧ type < 0x100)) ||
        !s.bit DMA_PRINT_RING.en [p.val]
    else
      badAddr dst || decide (row = 0) || decide (row % swapUnit swap ≠ 0) ||
        (decide (mode = 2) && (decide (src % 8 ≠ 0 ∨ dst % 8 ≠ 0 ∨ swap ≠ 0))))

/-- A channel starts: halted and cause clear, busy sets, its credit is full; a Print waits while another holds the buffer. -/
def State.dStart (s : State) (e : Engine) (k : Nat) (c : CtxId) (pc : BitVec 48) : State :=
  let d : Chan := ⟨s.stamp, c, pc, 0, 0, 8192, s.dCycles e, .reading, [], [], 0, 0, [], 0, none⟩
  let s := ({ s with stamp := s.stamp + 1 }).setChan e k (some d)
  let s := (s.setDreg e k CDMA_STATUS.halted DMA_STATUS.halted 0).setDreg e k CDMA_STATUS.cause DMA_STATUS.cause 0
  let s := s.setDreg e k CDMA_STATUS.busy DMA_STATUS.busy 1
  match e with
  | none => s
  | some n =>
    let s := s.setReg CDMA_STATUS.ctx [n.val, k] c.val
    if s.dMode e k = 3 then
      let waits := !s.cores[n].printQ.isEmpty
      let s := s.setCore n fun x => { x with printQ := x.printQ ++ [Fin.ofNat 8 k] }
      if waits then s.setReg CDMA_STATUS.waiting [n.val, k] 1 else s.printTakes n k d
    else s

/-- The fields of a core channel's control register, from a control image. -/
def State.setCdma (s : State) (n : CoreId) (k ctl : Nat) : State :=
  [CDMA_CTRL.bg, CDMA_CTRL.prio, CDMA_CTRL.swap, CDMA_CTRL.mode, CDMA_CTRL.cfmt, CDMA_CTRL.share, CDMA_CTRL.so_en, CDMA_CTRL.so,
    CDMA_CTRL.counter].foldl (fun s f => s.setReg f [n.val, k] (ctl / 2 ^ f.lo % 2 ^ f.width)) (s.setReg CDMA_CTRL.start [n.val, k] 1)

/-- DMA (R340): the channel's registers are written and it starts; a running channel, a counter that R331 refuses and what R372 refuses
raise invalid operand. -/
def execDma (n : CoreId) (w x : W64) (s : State) : Ans :=
  .next (s.issue n w x (opRow 0x4C) fun s c f =>
    let k := f.fn % 8
    let src := (s.getS c f.a).toNat
    let dst := (s.getS c f.b).toNat
    let cnt := (s.getS c f.c).toNat
    if (s.chan (some n) k).isSome || !s.ctrAllowed n c (Fin.ofNat 64 x.toNat) ||
        s.dRefused false (s.partOf (.ctx c)) src dst cnt x.toNat then s.badUnit c 7
    else
      let i := [n.val, k]
      let s := ((s.setReg CDMA_SRC.value i src).setReg CDMA_DST.value i dst).setReg CDMA_CNT.value i cnt
      let s := s.setCdma n k x.toNat
      let pc := s.ctxs[c].pc
      (s.dStart (some n) k c pc).nextPc c (wordBytes w))

/-- The control image of a fabric channel as its register holds it. -/
def State.fabCtl (s : State) (k : Nat) : Nat :=
  s.reg DMA_CTRL.swap [k] * 2 ^ 56 + s.reg DMA_CTRL.mode [k] * 2 ^ 53

/-- A write of DMA_CTRL (R361, R372): start acts with the upper half. -/
def onDmaCtrl (s : State) (w : Wr) (idx : List Nat) : State :=
  let k := idx.headD 0
  let s := plainWrite s w idx
  if w.sets DMA_CTRL.start then
    if (s.chan none k).isSome ||
        s.dRefused true (Fin.ofNat 4 (s.reg DMA_OWN.part [k])) (s.dSrc none k) (s.dDst none k) (s.dCnt none k) (s.fabCtl k) then
      s.setReg DMA_STATUS.cfg_err [k] 1
    else s.dStart none k 0 0
  else s

/-- FABRIC_DMA_START (R361). -/
def execFabricDmaStart (a : Agent) (k : Fin 32) (h : Half) (v : W64) (s : State) : Ans :=
  .next (s.writeNamed a .DMA_CTRL [k.val] h v.toNat onDmaCtrl)

/-- A write of DMA_OWN (Table 14-5): ignored while busy. -/
def onDmaOwn (s : State) (w : Wr) (idx : List Nat) : State :=
  if s.bit DMA_STATUS.busy idx then s else plainWrite s w idx

/-- DMA_OWN_WRITE. -/
def execDmaOwnWrite (a : Agent) (k : Fin 32) (v : BitVec 32) (s : State) : Ans :=
  .next (s.writeNamed a .DMA_OWN [k.val] .whole v.toNat onDmaOwn)

/-- A write of DMA_PRINT_RING (R377): while en is 1 it changes only en. -/
def onPrintRing (s : State) (w : Wr) (idx : List Nat) : State :=
  if s.bit DMA_PRINT_RING.en idx then
    plainBut [DMA_PRINT_RING.base, DMA_PRINT_RING.slot_log2, DMA_PRINT_RING.size_log2] s w idx
  else plainWrite s w idx

/-- PRINT_RING_WRITE. -/
def execPrintRingWrite (a : Agent) (p : PartId) (h : Half) (v : W64) (s : State) : Ans :=
  .next (s.writeNamed a .DMA_PRINT_RING [p.val] h v.toNat onPrintRing)

/-- A write of DMA_PRINT_PTR: the consumer releases slots. -/
def onPrintPtr (s : State) (w : Wr) (idx : List Nat) : State := plainWrite s w idx

/-- PRINT_RING_TAIL_WRITE (R367). -/
def execPrintRingTailWrite (a : Agent) (p : PartId) (h : Half) (v : W64) (s : State) : Ans :=
  .next (s.writeNamed a .DMA_PRINT_PTR [p.val] h v.toNat onPrintPtr)

/-! ### Reads ahead and bursts (R360, R369, R370) -/

/-- A channel's Print holds the engine's buffer and reads its payload. -/
def State.printReads (s : State) (e : Engine) (k : Nat) (d : Chan) : Bool :=
  match e with
  | some n => decide (s.cores[n].printQ.head? = some (Fin.ofNat 8 k) ∧ d.phase = .reading)
  | none => false

/-- A channel reads no more: its staging buffer is full, or its last place is one at which it halts. -/
def Chan.stalled (d : Chan) : Bool :=
  decide (32 ≤ d.stage.length) ||
    match d.stage.getLast? with
    | some (.stop _ _) => true
    | _ => false

/-- The bytes of the source that the next read of a channel takes: where it begins and how many. -/
def State.dReadNext (s : State) (e : Engine) (k : Nat) (d : Chan) : Nat × Nat :=
  match s.dMode e k with
  | 3 => (s.dSrc e k + d.rpos, min 32 (bitsOf (s.dCnt e k) 15 0 - d.rpos))
  | 2 =>
    match d.enc with
    | none => (s.dSrc e k, 32)
    | some c =>
      if c.header || decide (32 - c.dst % 32 ≤ c.out.length) then (s.dSrc e k, 0)
      else match c.at' with
      | none => (s.dSrc e k + 32 + 4 * c.col, if (headerMat c.head).cols ≤ c.col then 0 else 4)
      | some (o, kt) =>
        (s.dSrc e k + o, if (headerMat c.head).rows ≤ kt then 0 else max 8 (natOfBytes (bytesOf 2 (s.readAt (s.dSrc e k + o + 4) 2 0))))
  | mode =>
    let r := rowsOf mode (s.dCnt e k)
    let m := min (r.1 - d.rpos) (32 - (s.dDst e k + d.rrow * r.2.2.2 + d.rpos) % 32)
    let u := swapUnit (s.dreg e k CDMA_CTRL.swap DMA_CTRL.swap)
    let lo := d.rpos / u * u + d.carry.length
    (s.dSrc e k + d.rrow * r.2.2.1 + lo, min r.1 ((d.rpos + m + u - 1) / u * u) - lo)

/-- A line of the next read lies in a page under recovery or on a paused channel: the read is held (R389, R406). -/
def State.dReadHeld (s : State) (e : Engine) (k : Nat) (d : Chan) : Bool :=
  let r := s.dReadNext e k d
  (List.range (linesAt r.1 r.2)).any fun i => s.dramHeld (r.1 / 32 * 32 + 32 * i)

/-- The line that the oldest staged beat writes lies in a page under recovery or on a paused channel: the write is held (R389, R406). A
Print's beat goes into the engine's buffer. -/
def State.dWriteHeld (s : State) (e : Engine) (k : Nat) (d : Chan) : Bool :=
  match d.stage with
  | .data a _ _ :: _ => decide (s.dMode e k ≠ 3) && s.dramHeld a
  | _ => false

/-- One read of a channel into its staging buffer. -/
def State.dReadOne (s : State) (e : Engine) (k : Nat) (d : Chan) (host : List Byte) : Chan × List Byte × State :=
  if d.stalled || s.dReadHeld e k d then (d, host, s)
  else
    match s.dMode e k with
    | 3 => if s.printReads e k d then s.dFetchPrint e k d host else (d, host, s)
    | 2 => s.dFetchTile e k d host
    | _ => s.dFetch e k d host

/-- Reads of a channel land, one after another. -/
def State.dReads (s : State) (e : Engine) (k : Nat) (host : List Byte) : Nat → State
  | 0 => s
  | n + 1 =>
    match s.chan e k with
    | none => s
    | some d =>
      match s.dReadOne e k d host with
      | (d, host, s) => (s.setChan e k (some d)).dReads e k host n

/-- Beats that a channel has left to write, as R370 takes them for a burst. How many a compress channel has left is known once it has
staged its last; until then a burst counts 32 (assumption 113, DESIGN CHOICE). -/
def State.dLeft (s : State) (e : Engine) (k : Nat) (d : Chan) : Nat :=
  match s.dMode e k with
  | 3 => ceilDiv (bitsOf (s.dCnt e k) 15 0 - d.pos) 32
  | 2 =>
    match d.enc with
    | some c => if c.fin then d.stage.length else 32
    | none => 32
  | mode => beatsLeft mode (s.dDst e k) (s.dCnt e k) d

/-- The credit of a channel now (R370). -/
def State.dCredit (s : State) (e : Engine) (k : Nat) (d : Chan) : Nat :=
  min 8192 (d.credit + s.dreg e k CDMA_CTRL.share DMA_CTRL.share * (s.dCycles e - d.since))

/-- The channel has a beat staged that is not held, and its rate limiter permits it: within a burst begun, or with the credit of a next
one. -/
def State.dMay (s : State) (e : Engine) (k : Nat) : Bool :=
  match s.chan e k with
  | none => false
  | some d =>
    !d.stage.isEmpty && !s.dWriteHeld e k d && (decide (d.burst ≠ 0) || decide (s.dreg e k CDMA_CTRL.share DMA_CTRL.share = 0) ||
      decide (256 * min 32 (s.dLeft e k d) ≤ s.dCredit e k d))

/-- The channel granted last at a prio. -/
def State.dLast (s : State) (e : Engine) (prio : Fin 8) : Nat :=
  match e with
  | some n => s.cores[n].dmaLast[prio]
  | none => s.fabLast[prio]

/-- Record the channel granted at a prio. -/
def State.setLast (s : State) (e : Engine) (prio : Fin 8) (k : Nat) : State :=
  match e with
  | some n => s.setCore n fun c => { c with dmaLast := c.dmaLast.set prio k }
  | none => { s with fabLast := s.fabLast.set prio k }

/-- The prio of a channel. -/
def State.dPrio (s : State) (e : Engine) (k : Nat) : Fin 8 := Fin.ofNat 8 (s.dreg e k CDMA_CTRL.prio DMA_CTRL.prio)

/-- The channels that may be granted at the highest prio at which one may be. -/
def State.dTop (s : State) (e : Engine) : List Nat :=
  let l := (List.range (if e.isSome then 8 else 32)).filter fun k => s.dMay e k
  l.filter fun k => l.all fun j => decide (s.dPrio e j ≤ s.dPrio e k)

/-- The channel the engine grants a beat (R369): of the highest prio; among equals the one within its burst, and otherwise round-robin. -/
def State.dGrant (s : State) (e : Engine) : Option Nat :=
  let l := s.dTop e
  match l with
  | [] => none
  | k :: _ =>
    let last := s.dLast e (s.dPrio e k)
    let inBurst := match s.chan e last with
      | some d => decide (d.burst ≠ 0)
      | none => false
    if inBurst && l.contains last then some last else some ((l.find? fun j => decide (last < j)).getD k)

/-- A channel that is granted and is within no burst begins one, which takes its credit (R370). -/
def State.dBegin (s : State) (e : Engine) (k : Nat) (d : Chan) : Chan :=
  if d.burst ≠ 0 then d
  else
    let b := max 1 (min 32 (s.dLeft e k d))
    let d := { d with burst := b }
    if s.dreg e k CDMA_CTRL.share DMA_CTRL.share = 0 then d
    else { d with credit := s.dCredit e k d - 256 * b, since := s.dCycles e }

/-- A channel past a beat of `m` bytes that it has written. -/
def State.dPast (s : State) (e : Engine) (k : Nat) (d : Chan) (m : Nat) : Chan :=
  let r := rowsOf (s.dMode e k) (s.dCnt e k)
  let d := { d with stage := d.stage.tail, burst := d.burst - 1 }
  if s.dMode e k < 2 ∧ d.pos + m = r.1 then { d with row := d.row + 1, pos := 0 } else { d with pos := d.pos + m }

/-- The oldest staged beat of a channel is written, or the channel halts there (R373). A Print's goes into the engine's buffer. -/
def State.dMove (s : State) (e : Engine) (k : Nat) (d : Chan) : State :=
  match d.stage with
  | [] => s
  | .stop f t :: _ => s.dHaltTile e k d f t
  | .data a bs last :: _ =>
    let q := s.dPast e k d bs.length
    match s.dMode e k, e with
    | 3, some n =>
      let q := { q with payload := q.payload ++ bs }
      if last then s.printRead n k q else s.setChan e k (some q)
    | _, _ =>
      match s.dWrite e k d a bs with
      | (some f, s) => s.dHalt e k d f
      | (none, s) =>
        let s := if e.isSome && !ownLine s e a then s.lastMark last a else s
        s.setChan e k (some q)

/-- One cycle of the engine: it writes one beat for the channel it grants. -/
def State.dTurn (s : State) (e : Engine) : State :=
  match s.dGrant e with
  | none => s
  | some k =>
    match s.chan e k with
    | none => s
    | some d =>
      let q := s.dBegin e k d
      ((s.setLast e (s.dPrio e k) k).setChan e k (some q)).dMove e k q

/-- Cycles of the engine in which it writes. -/
def State.dTurns (s : State) (e : Engine) : Nat → State
  | 0 => s
  | n + 1 => (s.dTurn e).dTurns e n

/-- DMA_BURST (R360, R369, R370): reads of the engine's channels land in their staging buffers, and then the engine writes up to `run`
beats, each for the channel it grants; a granted channel with enough credit begins a burst of up to 32 beats. -/
def execDmaBurst (dt : Nat) (e : Option CoreId) (reads : List DmaRead) (run : Fin 33) (s : State) : Ans :=
  let s := s.advance dt
  let s := reads.foldl (fun s r => s.dReads e r.chan.val r.host r.reads.val) s
  .next (s.dTurns e run.val)

/-- CHECKER_COMPARE_END (R439): the comparison of the Print at step 2 of R367 ends. It is made with the counts of its exposure that step
6 of the front end delivered (R118): until the exposure's descriptor is written, the Print waits on. -/
def execCheckerCompareEnd (dt : Nat) (n : CoreId) (s : State) : Ans :=
  let s := s.advance dt
  .next (match s.cores[n].printQ with
    | [] => s
    | k :: _ =>
      match s.cores[n].dma[k] with
      | none => s
      | some d =>
        let j := s.dDst (some n) k.val
        if d.phase = .comparing then
          match s.printAnswer j, s.recorded j with
          | some b, _ => s.printHold n k.val d b
          | none, none => s
          | none, some e =>
            if e.described then
              match s.compared e d.payload with
              | (agreed, s) => s.printHold n k.val d agreed
            else s
        else s)

/-- The address of a slot that its partition may not write, if there is one. -/
def State.slotDenied (s : State) (n : CoreId) (p : PartId) (a bytes : Nat) : Option (Nat × Denial) :=
  s.firstDenied (.core n) p true ((List.range (ceilDiv bytes 32)).map fun j => a + 32 * j)

/-- The Print at the head of an engine's buffer is committed (R367 steps 4 to 7), or waits for a slot. -/
def State.printCommit (s : State) (n : CoreId) (k : Fin 8) (d : Chan) (agreed waited : Bool) : State :=
  let p := s.partOf (.ctx d.ctx)
  let cnt := s.dCnt (some n) k.val
  if !s.ringFree p then (if waited then s else s.printHold n k.val d agreed)
  else
    match s.slotDenied n p (s.slotAddr p) (64 + d.payload.length) with
    | some (a, r) => ((s.recordDenial (.core n) p r).dHalt (some n) k.val d ⟨denialCause r, a, denialExc r a⟩)
    | none =>
      let s := s.commitPrint p n.val (bitsOf cnt 31 16) (s.dDst (some n) k.val) (bitOf cnt 32) agreed false d.payload
      let i := [n.val, k.val]
      let s := s.dRelease (some n) k.val
      let s := s.advanceCtr n (Fin.ofNat 64 (s.reg CDMA_CTRL.counter i))
      (s.hwAdd (s.bit CDMA_CTRL.so_en i) (s.reg CDMA_CTRL.so i)).settle d.ctx

/-- PRINT_COMMIT (R367). -/
def execPrintCommit (dt : Nat) (n : CoreId) (s : State) : Ans :=
  let s := s.advance dt
  .next (match s.cores[n].printQ with
    | [] => s
    | k :: _ =>
      match s.cores[n].dma[k] with
      | none => s
      | some d =>
        match d.phase with
        | .ready agreed => s.printCommit n k d agreed false
        | .full agreed => s.printCommit n k d agreed true
        | _ => s)

/-! ### Completion (R371) -/

/-- The counter of the window that takes a core channel's last line, if it writes into another scratchpad; a compress channel ends in the
header's lines (assumption 104, DEDUCED). -/
def State.dArrival (s : State) (e : Engine) (k : Nat) : Option (CoreId × CtrId) :=
  let r := rowsOf (s.dMode e k) (s.dCnt e k)
  let a := if s.dMode e k = 2 then s.dDst e k else s.dDst e k + (r.2.1 - 1) * r.2.2.2 + (r.1 - 1)
  if ownLine s e a then none
  else
    match regionOf s a with
    | .spm n o => (s.winOf n (o / 32)).map fun w => (n, Fin.ofNat 64 (s.reg SPM_WIN.counter [n.val, w.val]))
    | _ => none

/-- The doorbell of a fabric channel that ends with one: the core of its destination. -/
def State.dBell (s : State) (k : Nat) : Option (CoreId × Fin 8) :=
  if s.bit DMA_CTRL.bell_en [k] then
    match regionOf s (s.dDst none k) with
    | .spm n _ => some (n, Fin.ofNat 8 (s.reg DMA_CTRL.bell_w [k]))
    | _ => none
  else none

/-- A channel that has moved all of its beats completes (R371): arrival of a window transfer, doorbell, counter, object. -/
def State.dComplete (s : State) (e : Engine) (k : Nat) (d : Chan) : State :=
  match e with
  | some n =>
    match s.dArrival e k with
    | some r => if s.ends.contains r then s else fin n s
    | none => fin n s
  | none =>
    match s.dBell k with
    | some (n, w) =>
      let p := (s.dWho e k d).2
      match s.bellDenial n w .fabric p with
      | some r => (s.recordDenial .fabric p r).dHalt none k d ⟨3, spmBase + n.val * 0x400000 + 0x300000 + 8 * w.val, (0, 0)⟩
      | none => out (s.advanceCtr n (Fin.ofNat 64 (s.reg SPM_WIN.counter [n.val, w.val])))
    | none => out s
where
  /-- The end of a core channel. -/
  fin (n : CoreId) (s : State) : State :=
    let i := [n.val, k]
    let s := s.dRelease (some n) k
    let s := s.advanceCtr n (Fin.ofNat 64 (s.reg CDMA_CTRL.counter i))
    (s.hwAdd (s.bit CDMA_CTRL.so_en i) (s.reg CDMA_CTRL.so i)).settle d.ctx
  /-- The end of a fabric channel. -/
  out (s : State) : State :=
    (s.dRelease none k).hwAdd (s.bit DMA_CTRL.so_en [k]) (s.reg DMA_CTRL.done_so [k])

/-- A channel has written every beat of its transfer; a Print ends by its commit. -/
def State.dWritten (s : State) (e : Engine) (k : Nat) (d : Chan) : Bool :=
  match s.dMode e k with
  | 3 => false
  | 2 =>
    match d.enc with
    | some c => c.fin && d.stage.isEmpty
    | none => false
  | mode => decide ((rowsOf mode (s.dCnt e k)).2.1 ≤ d.row)

/-- DMA_CHANNEL_COMPLETE (R371). -/
def execDmaChannelComplete (dt : Nat) (e : Option CoreId) (k : Fin 32) (s : State) : Ans :=
  let s := s.advance dt
  .next (match s.chan e k.val with
    | none => s
    | some d => if s.dWritten e k.val d then s.dComplete e k.val d else s)

end Sys2Proof.Machine
end

