-- ==== Sys2Proof/Machine/Sha3.lean ====
section
/-! DEFINITION. Machine/Sha3.lean: SHA3-512 as FIPS 202 defines it, which the security unit computes (R467, R470 to R475). -/
namespace Sys2Proof.Machine

/-- The rotation of each lane in step rho, by 5y + x. -/
def keccakRot : List Nat :=
  [0, 1, 62, 28, 27, 36, 44, 6, 55, 20, 3, 10, 43, 25, 39, 41, 45, 15, 21, 8, 18, 2, 61, 56, 14]

/-- The round constants of step iota. -/
def keccakRc : List W64 :=
  [0x0000000000000001, 0x0000000000008082, 0x800000000000808A, 0x8000000080008000, 0x000000000000808B, 0x0000000080000001] ++
  [0x8000000080008081, 0x8000000000008009, 0x000000000000008A, 0x0000000000000088, 0x0000000080008009, 0x000000008000000A] ++
  [0x000000008000808B, 0x800000000000008B, 0x8000000000008089, 0x8000000000008003, 0x8000000000008002, 0x8000000000000080] ++
  [0x000000000000800A, 0x800000008000000A, 0x8000000080008081, 0x8000000000008080, 0x0000000080000001, 0x8000000080008008]

/-- Lane (x, y) of a Keccak state, the indices modulo 5. -/
def lane (a : List W64) (x y : Nat) : W64 := a.getD (5 * (y % 5) + x % 5) 0

/-- The lanes of a function of (x, y). -/
def lanes (f : Nat → Nat → W64) : List W64 := (List.range 25).map fun i => f (i % 5) (i / 5)

/-- Step theta. -/
def keccakTheta (a : List W64) : List W64 :=
  let c := (List.range 5).map fun x => lane a x 0 ^^^ lane a x 1 ^^^ lane a x 2 ^^^ lane a x 3 ^^^ lane a x 4
  let d := (List.range 5).map fun x => c.getD ((x + 4) % 5) 0 ^^^ (c.getD ((x + 1) % 5) 0).rotateLeft 1
  lanes fun x y => lane a x y ^^^ d.getD x 0

/-- Steps rho and pi: lane (x, y) is lane (x + 3y, x) rotated. -/
def keccakRhoPi (a : List W64) : List W64 :=
  lanes fun x y => (lane a (x + 3 * y) x).rotateLeft (keccakRot.getD (5 * x + (x + 3 * y) % 5) 0)

/-- Step chi. -/
def keccakChi (a : List W64) : List W64 :=
  lanes fun x y => lane a x y ^^^ (~~~lane a (x + 1) y &&& lane a (x + 2) y)

/-- One round. -/
def keccakRound (a : List W64) (rc : W64) : List W64 :=
  match keccakChi (keccakRhoPi (keccakTheta a)) with
  | [] => []
  | b :: l => (b ^^^ rc) :: l

/-- Keccak-f[1600]. -/
def keccakF (a : List W64) : List W64 := keccakRc.foldl keccakRound a

/-- The lanes of a 72-byte block, least significant byte first. -/
def blockLanes (b : List Byte) : List W64 :=
  (List.range 9).map fun k => BitVec.ofNat 64 (natOfBytes ((b.drop (8 * k)).take 8))

/-- Absorb one block. -/
def absorb (a : List W64) (b : List Byte) : List W64 :=
  keccakF (List.zipWith (· ^^^ ·) a (blockLanes b ++ List.replicate 16 0))

/-- Absorb a padded message block by block (at most `n` blocks). -/
def absorbAll (a : List W64) (m : List Byte) : Nat → List W64
  | 0 => a
  | n + 1 => if m = [] then a else absorbAll (absorb a (m.take 72)) (m.drop 72) n

/-- The message with its domain bits and padding to a multiple of 72 bytes. -/
def sha3Pad (m : List Byte) : List Byte :=
  let n := 72 - m.length % 72
  m ++ (if n = 1 then [0x86] else [0x06] ++ List.replicate (n - 2) 0 ++ [0x80])

/-- SHA3-512 as 64 bytes. -/
def sha3 (m : List Byte) : List Byte :=
  let p := sha3Pad m
  ((absorbAll (List.replicate 25 0) p (p.length / 72)).take 8).flatMap fun x => bytesOf 8 x.toNat

/-- A digest as one value, its first byte lowest. -/
def digestOf (m : List Byte) : BitVec 512 := BitVec.ofNat 512 (natOfBytes (sha3 m))

end Sys2Proof.Machine
end

