-- ==== Sys2Proof/Machine/Mctp.lean ====
section
/-! DEFINITION. Machine/Mctp.lean: the management endpoint (R427 to R429): packets, messages, control commands and the Olwirin commands
that only read. Layouts that this manual leaves to DSP0236 follow it (assumption 51, PRESUMED). -/
namespace Sys2Proof.Machine
open Reg

/-! ### Messages -/

/-- The message type of an MCTP message. -/
def Msg.type (m : Msg) : Nat := (m.body.getD 0 0).toNat

/-- The command code of an MCTP control request. -/
def Msg.ctrl (m : Msg) : Option Nat :=
  match m.via with
  | .mailbox => none
  | .mctp _ _ => if m.type = 0 then some (m.body.getD 2 0).toNat else none

/-- The body of an Olwirin message (Table 16-7). -/
def Msg.olw (m : Msg) : Option (List Byte) :=
  match m.via with
  | .mailbox => some m.body
  | .mctp _ _ => if m.type = 0x7E then some (m.body.drop 3) else none

/-- The PCI vendor ID, big-endian. -/
def State.vendorBytes (s : State) : List Byte := (bytesOf 2 (s.reg HOST_PCI_ID.vendor_id)).reverse

/-- The packets of a response: transport headers over units of 64 bytes, sequence numbers from 0 (at most `n` packets). -/
def packetsOf (dst src tag : Nat) (body : List Byte) (k : Nat) : Nat → List (List Byte)
  | 0 => []
  | n + 1 =>
    let flags := (if k = 0 then 128 else 0) + (if body.length ≤ 64 then 64 else 0) + 16 * (k % 4) + tag % 8
    ([1, BitVec.ofNat 8 dst, BitVec.ofNat 8 src, BitVec.ofNat 8 flags] ++ body.take 64) ::
      (if body.length ≤ 64 then [] else packetsOf dst src tag (body.drop 64) (k + 1) n)

/-- A response goes back the way its request came: as packets, or in the mailbox, where done and vector 63 follow (R418, R429). -/
def State.respond (s : State) (m : Msg) (b : List Byte) : State :=
  match m.via with
  | .mctp src tag =>
    (packetsOf src (s.reg HOST_MCTP.eid) tag b 0 (b.length / 64 + 1)).foldl (fun s p => s.emit (.response p)) s
  | .mailbox =>
    let s : State := { s with mbox := { s.mbox with resp := b.take 2048, done := true } }
    s.sendMsix 0 63

/-- The response to a control request. -/
def ctrlReply (m : Msg) (cc : Nat) (data : List Byte) : List Byte :=
  [0, (m.body.getD 1 0) &&& 0x1F, m.body.getD 2 0, BitVec.ofNat 8 cc] ++ data

/-- The response to an Olwirin request. -/
def State.olwReply (s : State) (m : Msg) (cc : Nat) (data : List Byte) : List Byte :=
  let b := m.olw.getD []
  let r := [b.getD 0 0, (b.getD 1 0) &&& 0x7F, BitVec.ofNat 8 cc, 0] ++ bytesOf 2 data.length ++ data
  match m.via with
  | .mailbox => r
  | .mctp _ _ => [0x7E] ++ s.vendorBytes ++ r

/-- A complete message arrives: a request the endpoint supports waits for its answer; an unknown Olwirin command is answered
unsupported; anything else is dropped. -/
def State.msgIn (s : State) (m : Msg) : State :=
  match m.olw with
  | some b =>
    let mine := match m.via with
      | .mailbox => true
      | .mctp _ _ => decide ((m.body.drop 1).take 2 = s.vendorBytes)
    if !mine || decide (b.length < 6) || !(b.getD 1 0).getLsbD 7 then s
    else
      let c := (b.getD 0 0).toNat
      if 1 ≤ c ∧ c ≤ 5 then { s with msgs := s.msgs ++ [m] } else s.respond m (s.olwReply m 5 [])
  | none =>
    if m.ctrl.isSome && decide (3 ≤ m.body.length) && (m.body.getD 1 0).getLsbD 7 then { s with msgs := s.msgs ++ [m] } else s

/-! ### Packets (R427) -/

/-- The endpoint runs: not in device sleep (Table 18-1). -/
def State.bindingOn (s : State) (b : MctpBinding) : Bool :=
  s.awake && match b with
    | .vdm port => s.fnPresent (Fin.ofNat 8 (4 * port.val))
    | .smbus => s.bit HOST_MCTP.smb_en || s.minimal || decide (s.boot.phase = .push)

/-- Without the assembly of a source and tag. -/
def dropAssembly (src tag : Nat) (l : List Assembly) : List Assembly :=
  l.filter fun a => !decide (a.src = src ∧ a.tag = tag)

/-- The payload of packet `seq` of a message from `src` with `tag`. -/
def State.mctpPart (s : State) (src tag seq : Nat) (som eom : Bool) (pay : List Byte) : State :=
  let rest := dropAssembly src tag s.mctp
  let next (d : List Byte) : State :=
    if eom then ({ s with mctp := rest }).msgIn ⟨.mctp src tag, d⟩
    else if 8 ≤ rest.length then { s with mctp := rest }
    else { s with mctp := rest ++ [⟨src, tag, (seq + 1) % 4, d⟩] }
  if som then next pay
  else
    match s.mctp.find? fun a => decide (a.src = src ∧ a.tag = tag) with
    | none => s
    | some a => if a.next = seq ∧ (a.data ++ pay).length ≤ 8192 then next (a.data ++ pay) else { s with mctp := rest }

/-- MCTP_PACKET_RECEIVE (R427): a packet, from its transport header, on a binding. Responses and packets for another endpoint are
dropped. -/
def execMctpPacketReceive (b : MctpBinding) (bs : List Byte) (s : State) : Ans :=
  let at0 (k : Nat) : Nat := (bs.getD k 0).toNat
  let flags := at0 3
  let pay := bs.drop 4
  let mine := decide (at0 1 = s.reg HOST_MCTP.eid ∨ at0 1 = 0 ∨ at0 1 = 255)
  .next (if s.bindingOn b && decide (at0 0 % 16 = 1) && mine && bitOf flags 3 && decide (0 < pay.length ∧ pay.length ≤ 64) then
      s.mctpPart (at0 2) (flags % 8) (flags / 16 % 4) (bitOf flags 7) (bitOf flags 6) pay
    else s)

/-! ### Control commands (R428) -/

/-- The oldest message is answered where it is the row's control command: `act` gives the completion code and data. -/
def State.ctrlRow (s : State) (mine : Nat → Bool) (act : State → List Byte → (Nat × List Byte) × State) : State :=
  match s.msgs with
  | [] => s
  | m :: l =>
    match m.ctrl with
    | none => s
    | some c =>
      if mine c then
        match act { s with msgs := l } (m.body.drop 3) with
        | ((cc, d), s) => s.respond m (ctrlReply m cc d)
      else s

/-- A command that reads: `act` answers for data of the length it wants. -/
def wants (n : Nat) (act : State → List Byte → Nat × List Byte) (s : State) (d : List Byte) : (Nat × List Byte) × State :=
  if d.length = n then (act s d, s) else ((3, []), s)

/-- Set Endpoint ID: operations set and force assign an EID of 1 to 254 unless eid is fixed. -/
def State.setEid (s : State) (d : List Byte) : (Nat × List Byte) × State :=
  let e := (d.getD 1 0).toNat
  let op := (d.getD 0 0).toNat % 4
  if d.length ≠ 2 then ((3, []), s)
  else if 2 ≤ op ∨ e = 0 ∨ e = 255 then ((2, []), s)
  else if s.bit HOST_MCTP.eid_static then ((0, [0x10, BitVec.ofNat 8 (s.reg HOST_MCTP.eid), 0]), s)
  else ((0, [0, BitVec.ofNat 8 e, 0]), s.setReg HOST_MCTP.eid [] e)

/-- SET_ENDPOINT_ID (R428). -/
def execSetEndpointId (s : State) : Ans := .next (s.ctrlRow (fun c => decide (c = 1)) State.setEid)

/-- GET_ENDPOINT_ID (R428). -/
def execGetEndpointId (s : State) : Ans :=
  .next (s.ctrlRow (fun c => decide (c = 2)) (wants 0 fun s _ =>
    (0, [BitVec.ofNat 8 (s.reg HOST_MCTP.eid), if s.bit HOST_MCTP.eid_static then 2 else 0, 0])))

/-- The endpoint UUID (R428, R473). -/
def State.uuid (s : State) : List Byte :=
  (sha3 s.boot.pubkey).take 16 |>.mapIdx fun i b =>
    if i = 6 then (b &&& 0x0F) ||| 0x80 else if i = 8 then (b &&& 0x3F) ||| 0x80 else b

/-- GET_ENDPOINT_UUID (R428): not ready before the key pair has been derived. -/
def execGetEndpointUuid (s : State) : Ans :=
  .next (s.ctrlRow (fun c => decide (c = 3)) (wants 0 fun s _ => if s.boot.pubkey = [] then (4, []) else (0, s.uuid)))

/-- GET_MCTP_VERSION_SUPPORT (R428): the base protocol and the two message types of R428. -/
def execGetMctpVersionSupport (s : State) : Ans :=
  .next (s.ctrlRow (fun c => decide (c = 4)) (wants 1 fun _ d =>
    let t := (d.getD 0 0).toNat
    if t = 0xFF ∨ t = 0 ∨ t = 0x7E then
      let l := Config.mctpVersions t
      (0, bytesOf 1 l.length ++ l.flatMap fun v => (bytesOf 4 v.toNat).reverse)
    else (0x80, [])))

/-- GET_MESSAGE_TYPE_SUPPORT (R428). -/
def execGetMessageTypeSupport (s : State) : Ans :=
  .next (s.ctrlRow (fun c => decide (c = 5)) (wants 0 fun _ _ => (0, [2, 0x00, 0x7E])))

/-- GET_VENDOR_DEFINED_MSG_SUPPORT (R428): one set, of the PCI vendor. -/
def execGetVendorDefinedMsgSupport (s : State) : Ans :=
  .next (s.ctrlRow (fun c => decide (c = 6)) (wants 1 fun s d =>
    if d.getD 0 0 = 0 then (0, [0xFF, 0x00] ++ s.vendorBytes ++ (bytesOf 2 Config.mctpVendorVersion.toNat).reverse) else (2, [])))

/-- UNSUPPORTED_CONTROL_COMMAND (R428): ERROR_UNSUPPORTED_CMD is completion code 5 of DSP0236. -/
def execUnsupportedControlCommand (s : State) : Ans :=
  .next (s.ctrlRow (fun c => decide (c = 0 ∨ 6 < c)) fun s _ => ((5, []), s))

/-! ### Olwirin commands (Table 16-8) -/

/-- The oldest message is answered where it is the row's Olwirin command: `act` gives cc and payload; a payload of another length than
the message says completes with cc 3. -/
def State.olwRow (s : State) (cmd : Nat) (act : State → Msg → List Byte → (Nat × List Byte) × State) : State :=
  match s.msgs with
  | [] => s
  | m :: l =>
    match m.olw with
    | none => s
    | some b =>
      if (b.getD 0 0).toNat = cmd then
        let s : State := { s with msgs := l }
        let pay := b.drop 6
        if natOfBytes ((b.drop 4).take 2) ≠ pay.length then s.respond m (s.olwReply m 3 [])
        else match act s m pay with
          | ((cc, d), s) => s.respond m (s.olwReply m cc d)
      else s

/-- The bits of a register instance. -/
def State.regBits (s : State) (n : RegName) (idx : List Nat) : Nat :=
  match regRow n with
  | none => 0
  | some r => rowValue s.csr idx r.fields

/-- The payload of GET_STATUS. -/
def State.statusBytes (s : State) : List Byte :=
  bytesOf 4 (s.regBits .DEV_ID []) ++ bytesOf 2 (s.reg BOOT_STATUS.reason) ++ bytesOf 1 (s.reg SAFE_STATUS.state) ++ [0] ++
    bytesOf 8 (s.reg FE_EXP_NUMBER.open_number) ++ bytesOf 2 (s.reg PWR_STATUS.tj) ++ bytesOf 4 (s.reg PWR_STATUS.power_mw) ++
    bytesOf 2 (s.reg ECC_STATUS.uncorr_count)

/-- GET_STATUS (R429). -/
def execGetStatus (s : State) : Ans :=
  .next (s.olwRow 1 fun s _ d => (if d = [] then (0, s.statusBytes) else (3, []), s))

/-- GET_LOG (R429). -/
def execGetLog (s : State) : Ans :=
  .next (s.olwRow 3 fun s _ d =>
    let e := (d.getD 0 0).toNat
    (if d.length ≠ 1 then (3, []) else if 32 ≤ e then (2, []) else (0, bytesOf 32 (s.regBits .ECC_LOG [e])), s))

/-- The longest fragment a response can carry. -/
def Msg.room (m : Msg) (extra : Nat) : Nat :=
  match m.via with
  | .mailbox => 2042 - extra
  | .mctp _ _ => 8183 - extra

/-- A fragment of bytes from an offset. -/
def fragment (m : Msg) (extra : Nat) (l : List Byte) (off n : Nat) : List Byte := (l.drop off).take (min n (m.room extra))

/-- GET_IDENTITY (R429, R473): not ready before the key pair has been derived; an offset past the key is invalid data. -/
def execGetIdentity (s : State) : Ans :=
  .next (s.olwRow 4 fun s m d =>
    let off := natOfBytes (d.take 4)
    let k := s.boot.pubkey
    (if d.length ≠ 6 then (3, []) else if k = [] then (4, []) else if k.length ≤ off then (2, [])
      else (0, fragment m 0 k off (natOfBytes (d.drop 4))), s))

end Sys2Proof.Machine
end

