-- ==== Sys2Proof/Machine/Eth.lean ====
section
/-! DEFINITION. Machine/Eth.lean: Ethernet ports: link, receive and steering, transmit and receive queues (R62 to R66, R75, R79 to
R82). -/
namespace Sys2Proof.Machine
open Reg

/-- A big-endian 16-bit field at byte `i` of a frame. -/
def be16 (bs : List Byte) (i : Nat) : Nat := natOfBytesBe ((bs.drop i).take 2)

/-- A byte of a frame. -/
def byteOf (bs : List Byte) (i : Nat) : Nat := (bs.getD i 0).toNat

/-- A tag protocol identifier of R63. -/
def isTag (t : Nat) : Bool := decide (t = 0x8100 ∨ t = 0x88A8)

/-- The offset past the EtherType of a frame, and the EtherType, after a tag if there is one (R63, R64). -/
def etherType (bs : List Byte) : Nat × Nat :=
  if isTag (be16 bs 12) then (18, be16 bs 16) else (14, be16 bs 12)

/-- The frame is discarded for its length or a second tag (R63). -/
def badLength (bs : List Byte) : Bool :=
  decide (bs.length < 64 ∨ 9600 < bs.length) || (isTag (be16 bs 12) && isTag (be16 bs 16))

/-- The FCS, the last four bytes, is the CRC-32 of the frame, least significant byte first. -/
def goodFcs (bs : List Byte) : Bool :=
  decide (bs.drop (bs.length - 4) = bytesOf 4 (crc32 (bs.take (bs.length - 4))).toNat)

/-- The frame is PAUSE or PFC: MAC control with opcode 0x0001 or 0x0101 (IEEE 802.3; assumption 10, PRESUMED). -/
def isPause (bs : List Byte) : Bool :=
  match etherType bs with
  | (o, t) => decide (t = 0x8808 ∧ (be16 bs o = 1 ∨ be16 bs o = 0x0101))

/-- Where the UDP header of a frame begins, if the frame is UDP in the sense of R64; one whose UDP header does not end before the FCS is
not (DESIGN CHOICE, assumption 109). -/
def udpAt (bs : List Byte) : Option Nat :=
  match etherType bs with
  | (o, t) =>
    let u :=
      if t = 0x0800 ∧ byteOf bs (o + 9) = 17 ∧ be16 bs (o + 6) % 2 ^ 14 = 0 then some (o + 4 * (byteOf bs o % 16))
      else if t = 0x86DD ∧ byteOf bs (o + 6) = 17 then some (o + 40)
      else none
    match u with
    | none => none
    | some u => if u + 8 + 4 ≤ bs.length then some u else none

/-- Where R64 steers a frame: its port's receive queue with a class, the front end under a program, or nowhere. -/
inductive Steer where
  | queue (cls : Nat)
  | frontEnd (prog : Fin 8) (payload : List Byte)
  | unmatched
  deriving DecidableEq, Repr

/-- The lowest enabled ETH_STEER entry of a port that names a UDP port (R64 rule 2). -/
def State.steerEntry (s : State) (p : Fin 8) (udp : Nat) : Option (Fin 8) :=
  (List.finRange 8).find? fun i =>
    s.bit ETH_STEER.en [p.val, i.val] && decide (s.reg ETH_STEER.udp_port [p.val, i.val] = udp)

/-- Rule 3 of R64. -/
def State.steerRest (s : State) (p : Fin 8) : Steer :=
  if s.bit ETH_CTRL.mgmt_en [p.val] then .queue 2 else .unmatched

/-- The steering of a frame (R64). Event messages on 0x88F7 are messageType 0 to 3 (IEEE 1588; assumption 10, PRESUMED). -/
def State.steer (s : State) (p : Fin 8) (bs : List Byte) : Steer :=
  match etherType bs with
  | (o, t) =>
    if t = 0x88F7 then .queue (if byteOf bs o % 16 < 4 then 0 else 1)
    else
      match udpAt bs with
      | none => s.steerRest p
      | some u =>
        let d := be16 bs (u + 2)
        if d = 319 then .queue 0
        else if d = 320 then .queue 1
        else
          match s.steerEntry p d with
          | none => s.steerRest p
          | some i =>
            .frontEnd (Fin.ofNat 8 (s.reg ETH_STEER.program [p.val, i.val]))
              (((bs.take (bs.length - 4)).take (u + be16 bs (u + 4))).drop (u + 8))

/-! ### Queues -/

/-- One direction of a port's queues: transmit or receive. -/
structure Ring where
  base : Fld
  log  : Fld
  en   : Fld
  so   : Fld
  head : Fld
  tail : Fld
  deriving DecidableEq, Repr

/-- The transmit queue's registers. -/
def txRing : Ring :=
  ⟨ETH_TXQ_BASE.base, ETH_TXQ_BASE.size_log2, ETH_TXQ_PTR.so_en, ETH_TXQ_PTR.done_so, ETH_TXQ_PTR.head, ETH_TXQ_PTR.tail⟩

/-- The receive queue's registers. -/
def rxRing : Ring :=
  ⟨ETH_RXQ_BASE.base, ETH_RXQ_BASE.size_log2, ETH_RXQ_PTR.so_en, ETH_RXQ_PTR.done_so, ETH_RXQ_PTR.head, ETH_RXQ_PTR.tail⟩

/-- Number of descriptors of a ring (R79). -/
def State.ringSize (s : State) (r : Ring) (p : Fin 8) : Nat := 2 ^ ringLog 4 10 (s.reg r.log [p.val])

/-- The ring is empty (R79): head and tail count modulo its size (DESIGN CHOICE, assumption 109). -/
def State.ringEmpty (s : State) (r : Ring) (p : Fin 8) : Bool :=
  decide (s.reg r.head [p.val] % s.ringSize r p = s.reg r.tail [p.val] % s.ringSize r p)

/-- The address of the descriptor at the head. -/
def State.headAddr (s : State) (r : Ring) (p : Fin 8) : Nat :=
  32 * s.reg r.base [p.val] + 32 * (s.reg r.head [p.val] % s.ringSize r p)

/-- A descriptor's fields as software wrote them (Table 3-4). -/
structure QDesc where
  addr   : Nat
  len    : Nat
  flags  : Nat
  launch : Nat
  deriving DecidableEq, Repr

/-- The descriptor at an address, whose word has been decoded; the launch time in ns. -/
def State.qdesc (s : State) (a : Nat) : QDesc :=
  let b := s.hwRead a 32
  { addr := natOfBytes (b.take 6), len := natOfBytes ((b.drop 6).take 2), flags := natOfBytes ((b.drop 8).take 1)
    launch := natOfBytes ((b.drop 16).take 6) * 1000000000 + natOfBytes ((b.drop 22).take 4) % 2 ^ 30 }

/-- hw_own. -/
def QDesc.owned (q : QDesc) : Bool := bitOf q.flags 7
/-- launch_en. -/
def QDesc.timed (q : QDesc) : Bool := bitOf q.flags 1
/-- ts_req. -/
def QDesc.wantsStamp (q : QDesc) : Bool := bitOf q.flags 0

/-- The write-back of the descriptor at the head: one 256-bit write (R82); the head moves on and done_so advances where enabled. -/
def State.writeBackDesc (s : State) (r : Ring) (p : Fin 8) (q : QDesc) (len status : Nat) (rec : List Byte) : State :=
  let a := s.headAddr r p
  let s := s.hwWrite a
    (bytesOf 6 q.addr ++ bytesOf 2 len ++ bytesOf 1 (q.flags % 128) ++ bytesOf 1 status ++ bytesOf 6 0 ++ rec)
  let s := s.setReg r.head [p.val] ((s.reg r.head [p.val] + 1) % s.ringSize r p)
  s.hwAdd (s.bit r.en [p.val]) (s.reg r.so [p.val])

/-- The port is enabled and has link (R62, R66). -/
def State.linkUp (s : State) (p : Fin 8) : Bool :=
  s.bit ETH_STATUS.link_up [p.val] && decide (csrGet s.ethIn ETH_CTRL.mode [p.val] ≠ 0)

/-- A frame for the receive queue (R80 to R82): it takes the descriptor at the head, or is discarded and counted. The frame is
delivered from the destination address through the FCS (R63; assumption 11, DEDUCED). -/
def State.receiveQueue (s : State) (p : Fin 8) (cls : Nat) (bs : List Byte) (t : Stamp) : State :=
  let s := s.hwSettle (s.headAddr rxRing p) 32
  let q := s.qdesc (s.headAddr rxRing p)
  if s.ringEmpty rxRing p || !q.owned then s.bump ETH_STATUS.rx_nobuf [p.val]
  else
    let s := s.hwWrite q.addr (bs.take q.len)
    s.writeBackDesc rxRing p q bs.length ((if q.len < bs.length then 128 else 0) + 16 * cls) (t.record p.val)

/-- A frame reaches a port with link (R63, R64, R75). -/
def State.receive (s : State) (p : Fin 8) (sub : Nat) (bs : List Byte) : State :=
  let i := [p.val]
  if badLength bs then s.bump ETH_STATUS.rx_len_err i
  else if !goodFcs bs then s.bump ETH_STATUS.rx_fcs_err i
  else if isPause bs then s.bump ETH_STATUS.rx_pause i
  else
    let t := s.stampOf ((s.now16 : Int) - sub - s.reg ETH_TS_LAT.rx_lat i)
    match s.steer p bs with
    | .queue cls => s.receiveQueue p cls bs t
    | .frontEnd prog payload => { s with inbox := s.inbox ++ [⟨p, prog, payload, t⟩] }
    | .unmatched => s.bump ETH_STATUS.rx_unmatched i

/-- FRAME_RECEIVE (R64): a frame, from the destination address through the FCS, whose first bit after the SFD passes the PCS
`sub` (2^-16 ns) before the TCLK edge that is `dt` edges away. -/
def execFrameReceive (dt : Nat) (port : Fin 8) (sub : Fin 262144) (bs : List Byte) (s : State) : Ans :=
  let s := s.advance dt
  .next (if s.fullOn && s.linkUp port then s.receive port sub.val bs else s)

/-- The descriptor that follows reaches the head of a transmit queue now (R81). -/
def State.reachHead (s : State) (p : Fin 8) : State :=
  { s with txAt := s.txAt.set p s.now16 }

/-- Complete the descriptor at the head of a transmit queue. -/
def State.txDone (s : State) (p : Fin 8) (q : QDesc) (status : Nat) (rec : List Byte) : State :=
  (s.writeBackDesc txRing p q q.len status rec).reachHead p

/-- No timestamp is written back. -/
def noRecord : List Byte := List.replicate 16 0

/-- The frame is sent (R63, R75, R81): the N32 appends the FCS. -/
def State.txSend (s : State) (p : Fin 8) (q : QDesc) (sub status : Nat) : State :=
  let bs := s.hwRead q.addr q.len
  let t := s.stampOf ((s.now16 : Int) - sub + s.reg ETH_TS_LAT.tx_lat [p.val])
  let s := s.emit (.frame p (bs ++ bytesOf 4 (crc32 bs).toNat))
  s.txDone p q status (if q.wantsStamp then t.record (8 + p.val) else noRecord)

/-- The frame of a descriptor is read, its words decoded: with an uncorrectable error or poison in its buffer the descriptor completes with
status 4, else the frame is sent (R80, R81, R397). -/
def State.txRead (s : State) (p : Fin 8) (q : QDesc) (sub status : Nat) : State :=
  let s := s.hwSettle q.addr q.len
  if s.poisonedIn q.addr q.len then s.txDone p q 4 noRecord else s.txSend p q sub status

/-- The descriptor at the head of a transmit queue is dealt with (R66, R81): without link it completes with status 3; more than 1 s
ahead with 2; before its launch time it waits; else its frame is read and sent, with status 1 where it is late. The queue waits at a
descriptor between head and tail whose hw_own is 0 (DESIGN CHOICE, assumption 109). -/
def State.txHead (s : State) (p : Fin 8) (sub : Nat) : State :=
  let s := s.hwSettle (s.headAddr txRing p) 32
  let q := s.qdesc (s.headAddr txRing p)
  let at' := s.txAt[p]
  let launch : Int := (q.launch : Int) * 65536 - s.reg ETH_TS_LAT.tx_lat [p.val]
  if s.ringEmpty txRing p || !q.owned then s
  else if !s.linkUp p then s.txDone p q 3 noRecord
  else if q.timed && decide (at' + 1000000000 * 65536 < q.launch * 65536) then s.txDone p q 2 noRecord
  else if q.timed && decide ((s.now16 : Int) < launch) then s
  else s.txRead p q sub (if q.timed && decide (launch < (at' : Int)) then 1 else 0)

/-- TX_FRAME_SEND (R81): the SFD passes the PCS `sub` (2^-16 ns) before the TCLK edge that is `dt` edges away. -/
def execTxFrameSend (dt : Nat) (port : Fin 8) (sub : Fin 262144) (s : State) : Ans :=
  let s := s.advance dt
  .next (if s.fullOn then s.txHead port sub.val else s)

/-- Without link the queue completes its descriptors with status 3 (R66). -/
def State.drainTx (s : State) (p : Fin 8) : Nat → State
  | 0 => s
  | n + 1 => if s.ringEmpty txRing p then s else (s.txHead p 0).drainTx p n

/-- A port whose mode is 0 now is disabled: it has no link, and its transmit queue completes its descriptors (R62, R66); auto-negotiation
stands only in mode 1 with an_en 1. -/
def State.portMode (s : State) (p : Fin 8) : State :=
  let i := [p.val]
  let m := csrGet s.ethIn ETH_CTRL.mode i
  let s := if m = 1 ∧ csrGet s.ethIn ETH_CTRL.an_en i = 1 then s else s.setReg ETH_STATUS.an_done i 0
  if m ≠ 0 then s
  else if s.bit ETH_STATUS.link_up i then (s.setReg ETH_STATUS.link_up i 0).drainTx p 1024
  else s

/-- The port settings committed take effect (R66, step 2 of R38). -/
def State.latchPorts (s : State) : State :=
  (List.finRange 8).foldl (fun s p => s.portMode p) { s with ethIn := s.csr }

/-- ETH_LINK_CHANGE (R66): a port with a mode of Table 3-1 gains link, with its auto-negotiation done or not, or loses it. -/
def execEthLinkChange (dt : Nat) (port : Fin 8) (up anDone : Bool) (s : State) : Ans :=
  let s := s.advance dt
  let i := [port.val]
  let on := up && s.fullOn && decide (csrGet s.ethIn ETH_CTRL.mode i ≠ 0)
  let an := on && anDone && decide (csrGet s.ethIn ETH_CTRL.mode i = 1 ∧ csrGet s.ethIn ETH_CTRL.an_en i = 1)
  let s := (s.setReg ETH_STATUS.link_up i (if on then 1 else 0)).setReg ETH_STATUS.an_done i (if an then 1 else 0)
  .next (if on then s else s.drainTx port 1024)

/-- A write of a queue's pointer register: where an empty transmit queue gets a descriptor, that one is at the head now. -/
def onQueuePtr (tx : Bool) (s : State) (w : Wr) (idx : List Nat) : State :=
  let p := Fin.ofNat 8 (idx.headD 0)
  let was := s.ringEmpty txRing p
  let s := plainWrite s w idx
  if tx && was then s.reachHead p else s

/-- QUEUE_TAIL_WRITE (R79). -/
def execQueueTailWrite (a : Agent) (port : Fin 8) (tx : Bool) (h : Half) (v : W64) (s : State) : Ans :=
  .next (s.writeNamed a (if tx then .ETH_TXQ_PTR else .ETH_RXQ_PTR) [port.val] h v.toNat (onQueuePtr tx))

end Sys2Proof.Machine
end

