-- ==== Sys2Proof/Machine/Trig.lean ====
section
/-! DEFINITION. Machine/Trig.lean: sine, cosine and the angle of a point in fixed point, to far more digits than a binary64 holds, and
the functions of the front end that rest on them (R98, R105, R116). -/
namespace Sys2Proof.Machine

/-! ### Fixed point: integers in units of 2^-1400 -/

/-- Fraction bits: enough for an argument of binary64 up to 2^1024 reduced by a multiple of pi, and for a result near 2^-1074. -/
def trigBits : Nat := 1400

/-- One. -/
def trigOne : Nat := 2 ^ trigBits

/-- The alternating series p / (2j + 1) - p / (q² (2j + 3)) + …, in `k` terms. -/
def atanTail (q p j : Nat) : Nat → Int
  | 0 => 0
  | k + 1 => ((p / (2 * j + 1) : Nat) : Int) - atanTail q (p / (q * q)) (j + 1) k

/-- The angle whose tangent is 1/q. -/
def atanInv (q : Nat) : Int := atanTail q (trigOne / q) 0 400

/-- pi, by Machin's formula. -/
def piFix : Int := 16 * atanInv 5 - 4 * atanInv 239

/-- The terms t, -t r² / ((m + 1) (m + 2)), … of the series of sine and cosine, added up. -/
def trigTail (r t : Int) (m : Nat) : Nat → Int
  | 0 => 0
  | k + 1 => t + trigTail r (-(t * r / trigOne * r / trigOne / (((m + 1) * (m + 2) : Nat) : Int))) (m + 2) k

/-- Sine of an angle between -pi and pi. -/
def sinFix (r : Int) : Int := trigTail r r 1 170

/-- Cosine of an angle between -pi and pi. -/
def cosFix (r : Int) : Int := trigTail r trigOne 0 170

/-- The number neg n/d as an angle between -pi and pi. -/
def angleFix (neg : Bool) (n d : Nat) : Int :=
  let x := signedNum neg (n * trigOne / d)
  let r := x % (2 * piFix)
  if piFix < r then r - 2 * piFix else r

/-- The angle whose tangent is z/1, for z between 0 and 1: the angle is halved `k` times, then the series is taken. -/
def atanFix (z : Nat) : Nat → Int
  | 0 => trigTailAtan z z 0 220
  | k + 1 => 2 * atanFix (z * trigOne / (trigOne + Nat.sqrt (trigOne * trigOne + z * z))) k
where
  /-- The series z - z³/3 + z⁵/5 - …. -/
  trigTailAtan (z p j : Nat) : Nat → Int
    | 0 => 0
    | k + 1 => ((p / (2 * j + 1) : Nat) : Int) - trigTailAtan z (p * z / trigOne * z / trigOne) (j + 1) k

/-- The angle of the point (x, y) from the x axis, for x and y not below 0 and not both 0. -/
def angleOf (y x : Nat) : Int :=
  if y ≤ x then atanFix (y * trigOne / x) 3 else piFix / 2 - atanFix (x * trigOne / y) 3

/-- A fixed-point number as a value. -/
def fixVal (i : Int) : Val := .num (decide (i < 0)) i.natAbs trigOne

/-! ### Functions of the front end -/

/-- Sine in binary64, rounded to nearest (R105; assumption 112, DEDUCED). -/
def dSin (v : Val) : Val :=
  match v with
  | .num neg n d => if n = 0 then v else (fixVal (sinFix (angleFix neg n d))).round fp64
  | _ => .nan

/-- Cosine in binary64, rounded to nearest (R105; assumption 112, DEDUCED). -/
def dCos (v : Val) : Val :=
  match v with
  | .num neg n d => (fixVal (cosFix (angleFix neg n d))).round fp64
  | _ => .nan

/-- The angle of the point (x, y), neither below 0, in binary64, rounded to nearest (R105; assumption 112, DEDUCED). -/
def dAngle (y x : Val) : Val :=
  match y, x with
  | .num _ n d, .num _ m e => if n = 0 ∧ m = 0 then .num false 0 1 else (fixVal (angleOf (n * e) (m * d))).round fp64
  | _, _ => .nan

/-- A binary32 result that lies within 2^-22 of the number `i`: the one offered where it does, else the nearest (R98). -/
def within22 (offer : BitVec 32) (i : Int) : Val :=
  match fp32.read offer.toNat with
  | .num neg n d =>
    if (signedNum neg n * trigOne - i * d).natAbs ≤ 2 ^ (trigBits - 22) * d then .num neg n d else (fixVal i).round fp32
  | _ => (fixVal i).round fp32

/-- Sine in binary32 with an absolute error of at most 2^-22 (R98): which value within that error is free. -/
def fSin (v : Val) : Val :=
  match v with
  | .num neg n d => within22 (Config.sin32 (BitVec.ofNat 32 (fp32.write v))) (sinFix (angleFix neg n d))
  | _ => .nan

/-- Cosine in binary32 with an absolute error of at most 2^-22 (R98): which value within that error is free. -/
def fCos (v : Val) : Val :=
  match v with
  | .num neg n d => within22 (Config.cos32 (BitVec.ofNat 32 (fp32.write v))) (cosFix (angleFix neg n d))
  | _ => .nan

/-- The angle 2 arccos(min(1, n/d)) exceeds 0.5° (R116), exactly: n/d is below cos 0.25°. -/
def aboveHalfDegree (n d : Nat) : Bool := decide ((n : Int) * trigOne < cosFix (piFix / 720) * d)

end Sys2Proof.Machine
end

