-- ==== Sys2Proof/Machine/Pose.lean ====
section
/-! DEFINITION. Machine/Pose.lean: binary64 poses, the pose ring, and the transform of the front end (R103 to R107). -/
namespace Sys2Proof.Machine
open Reg

/-! ### binary64 -/

/-- A sum in binary64. -/
def dAdd (a b : Val) : Val := (a.add b).round fp64
/-- A difference in binary64. -/
def dSub (a b : Val) : Val := (a.sub b).round fp64
/-- A product in binary64. -/
def dMul (a b : Val) : Val := (a.mul b).round fp64
/-- A quotient in binary64. -/
def dDiv (a b : Val) : Val := (a.div b).round fp64
/-- A square root in binary64. -/
def dSqrt (a : Val) : Val := (a.sqrt 600).round fp64
/-- An integer in binary64. -/
def dInt (i : Int) : Val := (Val.ofInt i).round fp64
/-- A quotient of integers in binary64. -/
def dRat (n : Int) (d : Nat) : Val := ((Val.ofInt n).div (.num false d 1)).round fp64
/-- Zero. -/
def dZero : Val := .num false 0 1
/-- One. -/
def dOne : Val := .num false 1 1
/-- A value that no rule states. -/
def dFree (k : Nat) : Val := fp64.read (Config.noRule k).toNat

/-- A vector. -/
structure Vec where
  x : Val
  y : Val
  z : Val
  deriving DecidableEq, Repr

/-- A quaternion. -/
structure Quat where
  w : Val
  x : Val
  y : Val
  z : Val
  deriving DecidableEq, Repr

/-- A rotation matrix, by rows. -/
structure Rot where
  a : Vec
  b : Vec
  c : Vec
  deriving DecidableEq, Repr

/-- A pose: rotation and position (m). -/
structure Pose where
  q : Quat
  p : Vec
  deriving DecidableEq, Repr

/-- A component-wise operation. -/
def Vec.map2 (f : Val → Val → Val) (a b : Vec) : Vec := ⟨f a.x b.x, f a.y b.y, f a.z b.z⟩
/-- A function of every component. -/
def Vec.map (f : Val → Val) (a : Vec) : Vec := ⟨f a.x, f a.y, f a.z⟩
/-- The inner product, from the first component on. -/
def Vec.dot (a b : Vec) : Val := dAdd (dAdd (dMul a.x b.x) (dMul a.y b.y)) (dMul a.z b.z)
/-- The null vector. -/
def Vec.zero : Vec := ⟨dZero, dZero, dZero⟩

/-- The transpose. -/
def Rot.tr (r : Rot) : Rot := ⟨⟨r.a.x, r.b.x, r.c.x⟩, ⟨r.a.y, r.b.y, r.c.y⟩, ⟨r.a.z, r.b.z, r.c.z⟩⟩
/-- A matrix times a vector. -/
def Rot.app (r : Rot) (v : Vec) : Vec := ⟨r.a.dot v, r.b.dot v, r.c.dot v⟩
/-- The product of matrices. -/
def Rot.mul (r t : Rot) : Rot :=
  let u := t.tr
  ⟨⟨r.a.dot u.a, r.a.dot u.b, r.a.dot u.c⟩, ⟨r.b.dot u.a, r.b.dot u.b, r.b.dot u.c⟩, ⟨r.c.dot u.a, r.c.dot u.b, r.c.dot u.c⟩⟩

/-- The inner product of quaternions. -/
def Quat.dot (a b : Quat) : Val :=
  dAdd (dAdd (dAdd (dMul a.w b.w) (dMul a.x b.x)) (dMul a.y b.y)) (dMul a.z b.z)
/-- A function of every component. -/
def Quat.map (f : Val → Val) (a : Quat) : Quat := ⟨f a.w, f a.x, f a.y, f a.z⟩
/-- normalise. -/
def Quat.unit (a : Quat) : Quat :=
  let n := dSqrt (a.dot a)
  a.map fun c => dDiv c n
/-- The identity. -/
def Quat.one : Quat := ⟨dOne, dZero, dZero, dZero⟩
/-- The conjugate. -/
def Quat.conj (a : Quat) : Quat := ⟨a.w, a.x.neg, a.y.neg, a.z.neg⟩
/-- The product of quaternions. -/
def Quat.mul (a b : Quat) : Quat :=
  ⟨dSub (dSub (dSub (dMul a.w b.w) (dMul a.x b.x)) (dMul a.y b.y)) (dMul a.z b.z),
   dSub (dAdd (dAdd (dMul a.w b.x) (dMul a.x b.w)) (dMul a.y b.z)) (dMul a.z b.y),
   dAdd (dAdd (dSub (dMul a.w b.y) (dMul a.x b.z)) (dMul a.y b.w)) (dMul a.z b.x),
   dAdd (dSub (dAdd (dMul a.w b.z) (dMul a.x b.y)) (dMul a.y b.x)) (dMul a.z b.w)⟩

/-- The rotation of a quaternion, normalised first (assumption 46, DEDUCED). -/
def Quat.rot (a : Quat) : Rot :=
  let q := a.unit
  let two := Val.num false 2 1
  let d (u v : Val) := dSub dOne (dMul two (dAdd (dMul u u) (dMul v v)))
  let p (u v t : Val) := dMul two (dAdd (dMul u v) (dMul q.w t))
  let m (u v t : Val) := dMul two (dSub (dMul u v) (dMul q.w t))
  ⟨⟨d q.y q.z, m q.x q.y q.z, p q.x q.z q.y⟩, ⟨p q.x q.y q.z, d q.x q.z, m q.y q.z q.x⟩, ⟨m q.x q.z q.y, p q.y q.z q.x, d q.x q.y⟩⟩

/-- The identity pose. -/
def Pose.one : Pose := ⟨Quat.one, Vec.zero⟩
/-- A pose as seven binary64 patterns. -/
def Pose.bits (o : Pose) : List Nat := [o.p.x, o.p.y, o.p.z, o.q.w, o.q.x, o.q.y, o.q.z].map fp64.write
/-- Such a list as a pose. -/
def Pose.ofBits (l : List Nat) : Pose :=
  let v (i : Nat) := fp64.read (l.getD i 0)
  ⟨⟨v 3, v 4, v 5, v 6⟩, ⟨v 0, v 1, v 2⟩⟩

/-- A Q2.30 field. -/
def q30 (v : Nat) : Val := dRat (signedOf 32 v) (2 ^ 30)
/-- A field in 1/4 mm, in metres. -/
def quarter (v : Nat) : Val := dRat (signedOf 32 v) 4000

/-! ### The pose ring (R103) -/

/-- An entry of the ring: its number, time in ns, pose. -/
structure PoseEntry where
  num  : Nat
  time : Nat
  pose : Pose
  deriving DecidableEq, Repr

/-- Fields of four bytes of an entry. -/
def word4 (b : List Byte) (o : Nat) : Nat := natOfBytes ((b.drop o).take 4)

/-- |q|² − 1 is at most 2^-10 in absolute value, exactly. -/
def quatOk (b : List Byte) : Bool :=
  let n := ([24, 28, 32, 36].map fun o => (signedOf 32 (word4 b o)).natAbs ^ 2).foldl (· + ·) 0
  decide (n ≤ 2 ^ 60 + 2 ^ 50 ∧ 2 ^ 60 ≤ n + 2 ^ 50)

/-- The time of an entry. -/
def poseTime (b : List Byte) : Nat := natOfBytes (b.take 6) * 1000000000 + word4 b 6 % 2 ^ 30

/-- An entry of Table 4-3. -/
def poseEntry (h : Nat) (b : List Byte) : PoseEntry :=
  ⟨h, poseTime b, ⟨⟨q30 (word4 b 24), q30 (word4 b 28), q30 (word4 b 32), q30 (word4 b 36)⟩,
    ⟨quarter (word4 b 12), quarter (word4 b 16), quarter (word4 b 20)⟩⟩⟩

/-- The valid entries, newest first, and the numbers of those skipped (R103); "the entry before it" is the latest valid one. -/
def sieve : List (Nat × List Byte) → List PoseEntry × List Nat → List PoseEntry × List Nat
  | [], r => r
  | (h, b) :: l, (ok, bad) =>
    let late := match ok with
      | [] => true
      | e :: _ => decide (e.time < poseTime b)
    sieve l (if late && quatOk b then (poseEntry h b :: ok, bad) else (ok, h :: bad))

/-- A write of FE_POSE_HEAD (R103, Table 4-11): entries are written modulo 2^32, so the difference from the head before counts them. -/
def onPoseHead (s : State) (w : Wr) (idx : List Nat) : State :=
  let t := plainWrite s w idx
  { t with fe := { t.fe with
      posed := t.fe.posed + (t.reg FE_POSE_HEAD.head + 2 ^ 32 - s.reg FE_POSE_HEAD.head) % 2 ^ 32 } }

/-- The entries that the front end reads: head − 1,023 to head − 1, of those written (R103). -/
def State.poseNums (s : State) : List Nat :=
  (List.range (min s.fe.posed 1023)).map fun k => s.fe.posed - min s.fe.posed 1023 + k

/-- The address of entry `h` of the ring. -/
def poseAddr (c : Csr) (h : Nat) : Nat := csrGet c FE_POSE_CTRL.base [] * 4096 + 64 * (h % 1024)

/-- The words of the entries read are decoded (R383). -/
def State.settlePoses (s : State) (c : Csr) : State := s.poseNums.foldl (fun s h => s.hwSettle (poseAddr c h) 64) s

/-- The ring as the front end reads it under settings `c`; an entry with poison has no bytes to read, and is skipped (R103, R397). -/
def State.poseRing (s : State) (c : Csr) : List (Nat × List Byte) :=
  s.poseNums.map fun h => (h, if s.poisonedIn (poseAddr c h) 64 then [] else s.hwRead (poseAddr c h) 64)

/-! ### Slice poses (R104 to R106) -/

/-- The pose between entries a and b, f of the way (R104). -/
def between (a b : PoseEntry) (f : Val) : Pose :=
  let p := a.pose.p.map2 (fun u v => dAdd u (dMul f (dSub v u))) b.pose.p
  let neg := (a.pose.q.dot b.pose.q).lt dZero
  let g := dSub dOne f
  let h := if neg then f.neg else f
  let k (u v : Val) := dAdd (dMul g u) (dMul h v)
  ⟨(Quat.mk (k a.pose.q.w b.pose.q.w) (k a.pose.q.x b.pose.q.x) (k a.pose.q.y b.pose.q.y) (k a.pose.q.z b.pose.q.z)).unit, p⟩

/-- exp(½ ω Δτ) for a rate in rad/s and a time in s. -/
def expHalf (w : Vec) (t : Val) : Quat :=
  let n := dSqrt (w.dot w)
  if n.eq dZero then Quat.one
  else
    let h := dMul (dMul (.num false 1 2) n) t
    let k := dDiv (dSin h) n
    ⟨dCos h, dMul w.x k, dMul w.y k, dMul w.z k⟩

/-- The constant rate between two rotations over a time in s (R105), in rad/s. -/
def rateBetween (a b : Quat) (t : Val) : Vec :=
  let d := a.unit.conj.mul b.unit
  let d := if d.w.lt dZero then d.map Val.neg else d
  let v : Vec := ⟨d.x, d.y, d.z⟩
  let n := dSqrt (v.dot v)
  if n.eq dZero then Vec.zero
  else
    let angle := dMul (.num false 2 1) (dAngle n d.w)
    v.map fun c => dDiv (dMul (dDiv c n) angle) t

/-- A raw 16-bit value of an IMU record. -/
def imuRaw (big : Bool) (raw : List Byte) (o : Nat) : Int :=
  let b := [raw.getD o 0, raw.getD (o + 1) 0]
  signedOf 16 (if big then natOfBytesBe b else natOfBytes b)

/-- The body rate of an IMU record (R106). -/
def State.imuRate (s : State) (raw : List Byte) : Vec :=
  let big := s.bit FE_IMU_GYRO.big_endian
  let scale := fp32.read (s.reg FE_IMU_GYRO.scale)
  let src (k : Nat) : Val :=
    if k = 3 then dFree 3
    else
      dMul (dInt (imuRaw big raw (s.reg (if k = 0 then FE_IMU_GYRO.off_x else if k = 1 then FE_IMU_GYRO.off_y else FE_IMU_GYRO.off_z)))) scale
  let ax (sel neg : Fld) : Val := if s.bit neg then (src (s.reg sel)).neg else src (s.reg sel)
  ⟨ax FE_IMU_GYRO.src_x FE_IMU_GYRO.neg_x, ax FE_IMU_GYRO.src_y FE_IMU_GYRO.neg_y, ax FE_IMU_GYRO.src_z FE_IMU_GYRO.neg_z⟩

/-- The records of the IMU ring, oldest first. -/
def State.imuRecs (s : State) : List (Nat × List Byte) :=
  (s.imu.recs.take (2 ^ ringLog 6 12 (s.reg FE_IMU_RING.size_log2))).reverse

/-- The rotation from half-ns `t0` to `t1` under piecewise-constant rates; the rate before the first record is one that no rule states. -/
def State.turn (s : State) (q : Quat) (t1 t : Nat) (rate : Vec) : List (Nat × List Byte) → Quat
  | [] => q.mul (expHalf rate (dRat ((t1 : Int) - t) 2000000000))
  | (tr, raw) :: l =>
    if 2 * tr ≤ t then s.turn q t1 t (s.imuRate raw) l
    else if t1 < 2 * tr then q.mul (expHalf rate (dRat ((t1 : Int) - t) 2000000000))
    else s.turn (q.mul (expHalf rate (dRat ((2 * tr : Nat) - (t : Int)) 2000000000))) t1 (2 * tr) (s.imuRate raw) l

/-- The pose extrapolated from entry n, with m the valid entry before it, to half-ns `t1` (R105). -/
def State.beyond (s : State) (c : Csr) (m n : PoseEntry) (t1 : Nat) : Pose :=
  let d := dRat ((t1 : Int) - 2 * n.time) 2000000000
  let gap := dRat ((n.time : Int) - m.time) 1000000000
  let p := n.pose.p.map2 (fun u v => dAdd u (dMul (dDiv (dSub u v) gap) d)) m.pose.p
  let recs := s.imuRecs
  let q :=
    if csrGet c FE_POSE_CTRL.use_imu [] = 1 ∧ recs.any (fun r => decide (2 * r.1 ≤ t1)) then
      s.turn n.pose.q t1 (2 * n.time) ⟨dFree 0, dFree 1, dFree 2⟩ recs
    else n.pose.q.mul (expHalf (rateBetween m.pose.q n.pose.q gap) d)
  ⟨q, p⟩

/-- The first pair of neighbours a, b (newest first) with t_a ≤ t_mid < t_b. -/
def bracket (t : Nat) : List PoseEntry → Option (PoseEntry × PoseEntry)
  | b :: a :: l => if 2 * a.time ≤ t ∧ t < 2 * b.time then some (a, b) else bracket t (a :: l)
  | _ => none

/-- The body pose at half-ns `t` from the valid entries, newest first, and whether it is extrapolated and stale (R104, R105). -/
def State.poseAt (s : State) (c : Csr) (l : List PoseEntry) (t : Nat) : Pose × Bool × Bool :=
  match l with
  | [] => (Pose.one, true, true)
  | n :: rest =>
    if 2 * n.time < t then
      let lim := 2000 * csrGet c FE_POSE_CTRL.max_extrap_us []
      let over' := decide (2 * n.time + lim < t)
      match rest with
      | [] => (n.pose, true, true)
      | m :: _ => (s.beyond c m n (min t (2 * n.time + lim)), true, over')
    else if 2 * n.time = t then (n.pose, false, rest.isEmpty)
    else
      match bracket t l with
      | some (a, b) => (between a b (dRat ((t : Int) - 2 * a.time) (2 * (b.time - a.time))), false, false)
      | none => ((l.getLastD n).pose, false, true)

/-! ### The transform (R107) -/

/-- A number as an integer of `w` bits, ties away from zero. -/
def rndFit (w : Nat) (v : Val) : Int :=
  let i := match v.rndInt with
    | some i => i
    | none => Config.noNumber (fp64.write v)
  if -(2 ^ (w - 1) : Int) ≤ i ∧ i < 2 ^ (w - 1) then i else Config.noFit w i

/-- The integers of the transform of one sensor and slice: m in Q2.30 and u in 2^-10 mm. -/
structure Xform where
  m : List (List Int)
  u : List Int
  deriving DecidableEq, Repr

/-- Compose slice pose, extrinsic and reference. -/
def compose (slice ext ref : Pose) : Xform :=
  let rt := ref.q.rot.tr
  let rs := slice.q.rot
  let rm := (rt.mul rs).mul ext.q.rot
  let um := rt.app (((rs.app ext.p).map2 dAdd slice.p).map2 dSub ref.p)
  let row (v : Vec) : List Int := [v.x, v.y, v.z].map fun c => rndFit 32 (c.mul (.num false (2 ^ 30) 1))
  ⟨[row rm.a, row rm.b, row rm.c], [um.x, um.y, um.z].map fun c => rndFit 64 (c.mul (.num false 1024000 1))⟩

/-- Nearest integer to i / d, ties away from zero. -/
def rndDiv (i : Int) (d : Nat) : Int := signedNum (decide (i < 0)) (rnd i.natAbs d)

/-- One axis of a point: the sum of products. -/
def sumProd : List Int → List Int → Int
  | a :: l, b :: k => a * b + sumProd l k
  | _, _ => 0

/-- A staged point in 1/4 mm of the output frame, and whether a coordinate was limited. -/
def Xform.place (f : Xform) (p : FePoint) : List Int × Bool :=
  let q := [p.x, p.y, p.z].map fun b => rndFit 32 ((fp32.read b).mul (.num false 1024000 1))
  let lim : Int := 2 ^ 31
  let raw := (f.m.zip f.u).map fun (r : List Int × Int) => rndDiv (rndDiv (sumProd r.1 q) (2 ^ 30) + r.2) 256
  (raw.map fun i => clampInt (-lim) (lim - 1) i, raw.any fun i => decide (i < -lim ∨ lim ≤ i))

/-- The extrinsic of a sensor. -/
def extrinsic (c : Csr) (k : Nat) : Pose :=
  let g (f : Fld) := csrGet c f [k]
  ⟨⟨q30 (g FE_SENS_EXT.qw), q30 (g FE_SENS_EXT.qx), q30 (g FE_SENS_EXT.qy), q30 (g FE_SENS_EXT.qz)⟩,
    ⟨quarter (g FE_SENS_EXT.tx), quarter (g FE_SENS_EXT.ty), quarter (g FE_SENS_EXT.tz)⟩⟩

end Sys2Proof.Machine
end

