-- ==== Sys2Proof/Machine/FrontEnd.lean ====
section
/-! DEFINITION. Machine/FrontEnd.lean: decoding of sensor frames, staging, seals with deskew, point buffers and descriptors, and
the protective-zone counts (R91 to R119, R241). -/
namespace Sys2Proof.Machine
open Reg

/-! ### Decode programs (R91 to R96) -/

/-- One step of a program (Table 4-19). -/
structure DecStep where
  bias   : Nat
  scale  : Nat
  dest   : Nat
  scope  : Nat
  op     : Nat
  width  : Nat
  sign   : Bool
  big    : Bool
  shift  : Nat
  bits   : Nat
  offset : Nat
  deriving DecidableEq, Repr

/-- Step `k` of program `g` of port `p`. -/
def decStep (c : Csr) (p g k : Nat) : DecStep :=
  let r (f : Fld) := csrGet c f [p, g, k]
  ⟨r FE_DEC_STEP.bias, r FE_DEC_STEP.scale, r FE_DEC_STEP.dest, r FE_DEC_STEP.scope, r FE_DEC_STEP.op, r FE_DEC_STEP.width + 1,
    decide (r FE_DEC_STEP.sign = 1), decide (r FE_DEC_STEP.big_endian = 1), r FE_DEC_STEP.shift, r FE_DEC_STEP.bits,
    r FE_DEC_STEP.offset⟩

/-- The steps of a program. -/
def decSteps (c : Csr) (p g : Nat) : List DecStep :=
  (List.range (csrGet c FE_DEC_PROG.step_count [p, g] + 1)).map fun k => decStep c p g k

/-- The address a step reads for block b and point j (Table 4-1); scope 3 never passes a commit and reads as scope 2. -/
def stepAddr (c : Csr) (p g : Nat) (st : DecStep) (b j : Nat) : Nat :=
  let r (f : Fld) := csrGet c f [p, g]
  match st.scope with
  | 0 => st.offset
  | 1 => r FE_DEC_PROG.hdr_skip + b * r FE_DEC_PROG.block_stride + st.offset
  | _ =>
    r FE_DEC_PROG.hdr_skip + b * r FE_DEC_PROG.block_stride + r FE_DEC_PROG.pt_offset + j * r FE_DEC_PROG.pt_stride + st.offset

/-- Bits that remain of a step's value. -/
def DecStep.eff (st : DecStep) : Nat := if st.bits ≠ 0 then st.bits else 8 * st.width - st.shift

/-- The bits of a step's value (R93, 1 to 3). -/
def DecStep.cut (st : DecStep) (bs : List Byte) : Nat :=
  (if st.big then natOfBytesBe bs else natOfBytes bs) / 2 ^ st.shift % 2 ^ st.eff

/-- raw (R93, 4). -/
def DecStep.raw (st : DecStep) (u : Nat) : Int := if st.sign && decide (0 < st.eff) then signedOf st.eff u else u

/-- The dests of a point (Table 4-2): eight numbers and the second-return value in binary32, an elevation that may be missing, the embedded fields, and whether the
point is rejected. -/
structure Dests where
  range  : Val
  az     : Val
  elev   : Option Val
  x      : Val
  y      : Val
  z      : Val
  inten  : Val
  ring   : Val
  toff   : Val
  sec    : Int
  sub    : Int
  second : Val
  reject : Bool
  deriving DecidableEq, Repr

/-- Before each point every dest holds 0, except elevation (R93). -/
def Dests.start : Dests := ⟨dZero, dZero, none, dZero, dZero, dZero, dZero, dZero, dZero, 0, 0, dZero, false⟩

/-- Store into a dest, or add to it. -/
def Dests.store (d : Dests) (add : Bool) (dest : Nat) (raw : Int) (v : Val) : Dests :=
  let f (old : Val) : Val := if add then (old.add v).round fp32 else v
  let n (old : Int) : Int := if add then old + raw else raw
  match dest with
  | 0 => { d with range := f d.range }
  | 1 => { d with az := f d.az }
  | 2 => { d with elev := some (f (d.elev.getD (dFree 4))) }
  | 3 => { d with x := f d.x }
  | 4 => { d with y := f d.y }
  | 5 => { d with z := f d.z }
  | 6 => { d with inten := f d.inten }
  | 7 => { d with ring := f d.ring }
  | 8 => { d with toff := f d.toff }
  | 9 => { d with sec := n d.sec }
  | 10 => { d with sub := n d.sub }
  | 11 => { d with second := f d.second }
  | _ => d

/-- One step of a point (R93): each operation is rounded to binary32. -/
def Dests.step (d : Dests) (st : DecStep) (bs : List Byte) : Dests :=
  let u := st.cut bs
  let raw := st.raw u
  match st.op with
  | 2 => if raw = 0 then { d with reject := true } else d
  | 3 => if 0 < st.eff ∧ u + 1 = 2 ^ st.eff then { d with reject := true } else d
  | op =>
    let v := ((((Val.ofInt raw).round fp32).mul (fp32.read st.scale)).round fp32).add (fp32.read st.bias)
    d.store (decide (op = 1)) st.dest raw (v.round fp32)

/-- A number rounded to nearest and saturated to 0 to 255 (Table 4-2). -/
def roundByte (v : Val) : Nat :=
  match v with
  | .inf true => 0
  | .inf false => 255
  | .nan => (clampInt 0 255 (Config.noNumber fp32.nan)).toNat
  | .num neg n d => (clampInt 0 255 (signedNum neg (rne n d))).toNat

/-- The sensor-frame point, and whether the range gates reject it (R98). A comparison with a value that is no number does not hold. -/
def locate3 (c : Csr) (p g : Nat) (d : Dests) : Vec × Bool :=
  let sensor := csrGet c FE_DEC_PROG.sensor [p, g]
  let lo := Val.num false (csrGet c FE_SENS_RANGE.min_range [sensor]) 4000
  let hi := Val.num false (csrGet c FE_SENS_RANGE.max_range [sensor]) 4000
  if csrGet c FE_DEC_PROG.cartesian [p, g] = 1 then
    let n := ((d.x.mul d.x).add (d.y.mul d.y)).add (d.z.mul d.z)
    (⟨d.x, d.y, d.z⟩, n.lt (lo.mul lo) || (hi.mul hi).lt n)
  else
    let i := [sensor, roundByte d.ring]
    let phi := d.elev.getD (fp32.read (csrGet c FE_RING.elev i))
    let th := (d.az.add (fp32.read (csrGet c FE_RING.az_corr i))).round fp32
    let rc := (d.range.mul (fCos phi)).round fp32
    (⟨(rc.mul (fCos th)).round fp32, (rc.mul (fSin th)).round fp32,
      (d.range.mul (fSin phi)).round fp32⟩, d.range.lt lo || hi.lt d.range)

/-- The effective bits of the program's dest 0x9 step, if it has one (R100). -/
def secBits (l : List DecStep) : Option Nat :=
  ((l.filter fun st => decide (st.dest = 9)).getLast?).map DecStep.eff

/-- The embedded time in ns (R100); equal distances take the earlier second. -/
def embedded (c : Csr) (p g : Nat) (w : Option Nat) (trx : Int) (d : Dests) : Int :=
  let sub := d.sub * (if csrGet c FE_DEC_PROG.emb_unit [p, g] = 1 then 1000 else 1)
  let rs := trx / 1000000000
  match w with
  | some w =>
    let m : Int := 2 ^ w
    let up := rs + (d.sec - rs) % m
    let down := up - m
    (if rs - down ≤ up - rs then down else up) * 1000000000 + sub
  | none =>
    let dist (k : Int) : Nat := (k * 1000000000 + sub - trx).natAbs
    let a := if dist rs < dist (rs - 1) then rs else rs - 1
    let b := if dist (rs + 1) < dist a then rs + 1 else a
    b * 1000000000 + sub

/-- A point that has left the decoder: the point with its time, or a rejected one. -/
abbrev Decoded1 := Option (FePoint × Int)

/-- One point of a frame. -/
def decodePoint (c : Csr) (p g : Nat) (l : List DecStep) (payload : List Byte) (trx : Int) (b j : Nat) : Decoded1 :=
  let sensor := csrGet c FE_DEC_PROG.sensor [p, g]
  let d := l.foldl (fun (d : Dests) st => d.step st ((payload.drop (stepAddr c p g st b j)).take st.width)) Dests.start
  match locate3 c p g d with
  | (v, out) =>
    if d.reject || out || decide (csrGet c FE_SENS_CFG.en [sensor] = 0) then none
    else
      let ref :=
        if csrGet c FE_SENS_CFG.time_mode [sensor] = 1 then embedded c p g (secBits l) trx d
        else trx - signedOf 32 (csrGet c FE_SENS_CFG.lat_ns [sensor])
      let off := match d.toff.toInt with
        | some i => i
        | none => Config.noNumber (fp32.write d.toff)
      some (⟨sensor, fp32.write v.x, fp32.write v.y, fp32.write v.z, 0, 0, 0, roundByte d.inten, !d.second.eq dZero⟩, ref + off)

/-- The program reads beyond the payload (R95). -/
def beyondPayload (c : Csr) (p g : Nat) (l : List DecStep) (n : Nat) : Bool :=
  let b := csrGet c FE_DEC_PROG.blocks [p, g]
  let j := csrGet c FE_DEC_PROG.pts [p, g]
  l.any fun st => decide (n < stepAddr c p g st b j + st.width)

/-- The points of a frame in ascending block and point order (R92). -/
def decodeFrame (c : Csr) (p g : Nat) (payload : List Byte) (trx : Int) : List Decoded1 :=
  let l := decSteps c p g
  (List.range (csrGet c FE_DEC_PROG.blocks [p, g] + 1)).flatMap fun b =>
    (List.range (csrGet c FE_DEC_PROG.pts [p, g] + 1)).map fun j => decodePoint c p g l payload trx b j

/-! ### Staging and drops (R102, R112 to R115) -/

/-- Points per exposure of a sensor (R112). -/
def quotaOf (c : Csr) (k : Nat) : Nat :=
  ceilDiv (csrGet c FE_SENS_CFG.max_kpps [k] * 64 * csrGet c FE_EXP_PERIOD.slice_ns []) 1000000

/-- A drop of cause `k` (Table 4-6), charged to the exposure that contains the point's time if its descriptor is not yet written, else to the open one
(R114, R115). -/
def State.dropPoint (s : State) (k : Nat) (j : Option Nat) : State :=
  let s := s.bump FE_DROP_CNT.count [k]
  let own := match j.bind fun j => s.expRec j with
    | some e => if e.described then none else some e.num
    | none => none
  match own, s.openExp with
  | some j, _ => s.setExp j fun e => { e with dropped := e.dropped + 1 }
  | none, some e => s.setExp e.num fun e => { e with dropped := e.dropped + 1 }
  | none, none => s

/-- The clock reading at the end of the open slice, in ns. -/
def State.sliceEnd (s : State) (e : Exp) : Nat :=
  (s.clk.units + (s.slice + 1) * (csrGet e.acq FE_EXP_PERIOD.slice_ns [] * 2 ^ 32) - s.sliceT) / 2 ^ 32

/-- Where a point's time falls (R34, R102): a cause of drop with the exposure that contains it, or an exposure and slice. -/
inductive Place where
  | drop (cause : Nat) (j : Option Nat)
  | slice (j i : Nat)
  deriving DecidableEq, Repr

/-- The newest exposure that opened at or before a time. -/
def State.expAt (s : State) (t : Int) : Option Exp :=
  (s.exps.filter fun e => decide ((e.openNs : Int) ≤ t)).foldl (fun (b : Option Exp) e =>
    match b with
    | some x => if x.num < e.num then some e else some x
    | none => some e) none

/-- The place of a point's time. A point of an open overrun exposure counts as overrun whatever its slice (DESIGN CHOICE, assumption
111). -/
def State.placeOf (s : State) (t : Int) : Place :=
  match s.expAt t with
  | none =>
    if s.exps.any fun e => match e.closeNs with
      | some c => decide (t < c)
      | none => false
    then .drop 1 none else .drop 2 none
  | some e =>
    let i := (e.starts.filter fun (x : Nat) => decide ((x : Int) ≤ t)).length - 1
    match e.closeNs with
    | some c =>
      if (c : Int) ≤ t then .drop 2 none
      else if e.overrun then .drop 4 (some e.num)
      else if i < e.seals then .drop 1 (some e.num)
      else .slice e.num i
    | none =>
      if e.overrun then .drop 4 (some e.num)
      else if (s.sliceEnd e : Int) ≤ t then .drop 2 (some e.num)
      else if i < e.seals then .drop 1 (some e.num)
      else .slice e.num i

/-- A point leaves the decoder. -/
def State.stagePoint (s : State) (p : FePoint) (t : Int) : State :=
  match s.placeOf t with
  | .drop k j => s.dropPoint k j
  | .slice j i =>
    match s.expRec j with
    | none => s
    | some e =>
      let n := (alookup p.sensor e.sensors).getD 0
      if quotaOf e.acq p.sensor ≤ n then s.dropPoint 0 (some j)
      else if 131072 ≤ s.fe.staged.length then s.dropPoint 3 (some j)
      else
        let s := s.setExp j fun e => { e with sensors := aset p.sensor (n + 1) 0 e.sensors }
        { s with fe := { s.fe with staged := s.fe.staged ++ [{ p with t := t.toNat, exp := j, slice := i }] } }

/-- A frame is decoded with the settings latched at step 5 (R95, R96, R101). One that reads beyond its payload counts there and nowhere
else; of one whose stamp is two or more steps behind every point is a time drop, whatever R96 would make of it (DESIGN CHOICE, assumption
111). -/
def State.decodeFrame (s : State) (f : InFrame) : State :=
  let p := f.port.val
  let g := f.prog.val
  let c := s.acq
  let behind := (s.reg PTP_STEP_CTRL.step_gen + 256 - f.stamp.gen) % 256
  let trx : Int := (f.stamp.sec * 1000000000 + f.stamp.ns : Nat)
  let trx := if behind = 1 then trx + s.clk.lastStep else trx
  if beyondPayload c p g (decSteps c p g) f.payload.length then s.bump FE_DROP_CNT.count [5]
  else
    (Sys2Proof.Machine.decodeFrame c p g f.payload trx).foldl (fun s d =>
      if 1 < behind then s.dropPoint 2 none
      else match d with
        | none => s.bump FE_DROP_CNT.count [6]
        | some (q, t) => s.stagePoint q t) s

/-- FRAME_DECODE (R92): the decoder of a port takes the oldest frame that waits for it. -/
def execFrameDecode (dt : Nat) (port : Fin 8) (s : State) : Ans :=
  let s := s.advance dt
  .next (match s.inbox.find? fun f => decide (f.port = port) with
    | none => s
    | some f => if s.fullOn then ({ s with inbox := s.inbox.erase f }).decodeFrame f else s)

/-! ### Zones (R117) -/

/-- An edge of a polygon is crossed by the ray from (x, y) towards +x, exactly. -/
def crosses (x y x1 y1 x2 y2 : Int) : Bool :=
  (decide (y < y1) != decide (y < y2)) &&
    (if y1 < y2 then decide ((x - x1) * (y2 - y1) < (y - y1) * (x2 - x1))
     else decide ((y - y1) * (x2 - x1) < (x - x1) * (y2 - y1)))

/-- The vertices of a zone. -/
def zoneVertices (c : Csr) (z : Nat) : List (Int × Int) :=
  (List.range (csrGet c FE_ZONE_CFG.nvtx_m1 [z] + 1)).map fun k =>
    (signedOf 32 (csrGet c FE_ZONE_VTX.x [z, k]), signedOf 32 (csrGet c FE_ZONE_VTX.y [z, k]))

/-- How many edges of a polygon are crossed. -/
def crossings (x y : Int) : List ((Int × Int) × (Int × Int)) → Nat
  | [] => 0
  | (a, b) :: l => (if crosses x y a.1 a.2 b.1 b.2 then 1 else 0) + crossings x y l

/-- A point of the exposure frame lies in an enabled zone that counts its sensor. -/
def inZone (c : Csr) (z sensor : Nat) (x y h : Int) : Bool :=
  let v := zoneVertices c z
  decide (csrGet c FE_ZONE_CFG.en [z] = 1) && bitOf (csrGet c FE_ZONE_CFG.sensor_mask [z]) sensor &&
  decide (signedOf 32 (csrGet c FE_ZONE_CFG.z_min [z]) ≤ h ∧ h ≤ signedOf 32 (csrGet c FE_ZONE_CFG.z_max [z])) &&
  decide (crossings x y (v.zip (v.drop 1 ++ v.take 1)) % 2 = 1)

/-! ### Seals (R102 to R111) -/

/-- Slices of an exposure that have ended. -/
def State.slicesEnded (s : State) (e : Exp) : Nat := if e.closeNs.isSome then e.slices else s.slice

/-- seal_us has passed since the end of the exposure's next slice to be sealed. -/
def State.sealDue (s : State) (e : Exp) : Bool :=
  let len := csrGet e.acq FE_EXP_PERIOD.slice_ns []
  let wait := csrGet e.acq FE_ACQ_CTRL.seal_us [] * 1000
  let since := if e.closeNs.isSome then 4 * (s.clk.tclk - e.closeT) + (e.slices - (e.seals + 1)) * len
    else s.sliceT / 2 ^ 32 - (e.seals + 1) * len
  decide (e.seals < s.slicesEnded e ∧ wait ≤ since)

/-- The exposure whose slice is to be sealed next: the lowest that has an unsealed slice. -/
def State.sealNext (s : State) : Option Exp :=
  (s.exps.filter fun e => !e.overrun && decide (e.seals < s.slicesEnded e)).foldl (fun (b : Option Exp) e =>
    match b with
    | some x => if e.num < x.num then some e else some x
    | none => some e) none

/-- The slice's pose, its flags, and the entries of the ring that are skipped for the first time (R103, R104). -/
def State.slicePose (s : State) (e : Exp) (i : Nat) : (Pose × Bool × Bool) × State :=
  if csrGet e.acq FE_POSE_CTRL.en [] = 0 then ((Pose.one, false, false), s)
  else
    let s := s.settlePoses e.acq
    match sieve (s.poseRing e.acq) ([], []) with
    | (ok, bad) =>
      let fresh := (bad.filter fun h => decide (s.fe.judged ≤ h)).length
      let r := s.poseAt e.acq ok (2 * e.openNs + (2 * i + 1) * csrGet e.acq FE_EXP_PERIOD.slice_ns [])
      (r, ({ s with fe := { s.fe with judged := s.fe.posed } }).bump FE_ACQ_STATUS.pose_bad [] fresh)

/-- A point record (Table 4-4). -/
def pointRecord (xyz : List Int) (toff inten sensor flags : Nat) : List Byte :=
  xyz.flatMap (fun i => bytesOf 4 (wrapOf 32 i)) ++ bytesOf 2 toff ++ bytesOf 1 inten ++ bytesOf 1 (16 * sensor + flags)

/-- What a sealed point gives: its record, its coordinates in the output frame and in the exposure frame, its sensor. -/
structure Sealed where
  bytes  : List Byte
  out    : List Int
  zone   : List Int
  sensor : Nat
  deriving DecidableEq, Repr

/-- Transform a staged point. -/
def sealPoint (e : Exp) (fx fz : Xform) (flags : Nat) (p : FePoint) : Sealed :=
  match fx.place p with
  | (o, cl) =>
    let toff := (p.t - e.openNs) / 4000 % 65536
    ⟨pointRecord o toff p.inten p.sensor (flags + (if cl then 4 else 0) + (if p.second then 8 else 0)), o, (fz.place p).1, p.sensor⟩

/-- The transforms of every sensor: into the output frame and into the exposure frame. -/
def xforms (e : Exp) (slice ref : Pose) : List (Xform × Xform) :=
  (List.range 16).map fun k =>
    let z := compose slice (extrinsic e.acq k) ref
    if csrGet e.acq FE_ACQ_CTRL.frame_sel [] = 1 then (z, z) else (compose slice (extrinsic e.acq k) Pose.one, z)

/-- The keys of a slice (R241): each at most once among any 256 consecutive ones, newest first. -/
def State.sliceKeys (s : State) : List Sealed → List Nat → List Nat
  | [], acc => acc
  | q :: l, acc =>
    let i := [0, 1, 2].map fun a => s.index0 a (q.out.getD a 0)
    if i.all inGrid then
      let k := cellKey 0 (i.getD 0 0).toNat (i.getD 1 0).toNat (i.getD 2 0).toNat
      if (acc.take 255).contains k then s.sliceKeys l acc else s.sliceKeys l (k :: acc)
    else s.sliceKeys l acc

/-- The key list of a slice is written (R241). -/
def State.writeKeys (s : State) (e : Exp) (i : Nat) (b : Fin 4) (l : List Sealed) : State :=
  if s.bit TBL_PF_BASE.en then
    let keys := (s.sliceKeys l []).reverse
    let a := s.reg TBL_PF_BASE.base * 2 ^ 25 + (64 * b.val + i) * 131072
    let kept := keys.take 16383
    let s := s.hwWrite a (bytesOf 4 kept.length ++ bytesOf 4 (e.num % 2 ^ 32) ++ kept.flatMap (bytesOf 8))
    s.bump TBL_PERF.count [7] (keys.length - kept.length)
  else s

/-- Slice `i` of exposure `e` is sealed: pose, transform, zones, records, directory, key list. -/
def State.sealSlice (s : State) (e : Exp) (i : Nat) : State :=
  match s.slicePose e i with
  | ((pose, ext, stale), s) =>
    let ref := if i = 0 then pose else Pose.ofBits e.refPose
    let flags := (if ext then 1 else 0) + (if stale then 2 else 0)
    let s := if ext then s.bump FE_ACQ_STATUS.extrap_slices [] else s
    let s := if stale then s.bump FE_ACQ_STATUS.stale_slices [] else s
    let fs := xforms e pose ref
    let one : Xform := ⟨[], []⟩
    let mine := s.fe.staged.filter fun p => decide (p.exp = e.num ∧ p.slice = i)
    let pts := mine.map fun p => sealPoint e (fs.getD p.sensor (one, one)).1 (fs.getD p.sensor (one, one)).2 flags p
    let s := { s with fe := { s.fe with staged := s.fe.staged.filter fun p => !decide (p.exp = e.num ∧ p.slice = i) } }
    let b := e.buf.getD 0
    let s := s.hwWrite (csrGet e.acq FE_PBUF_BASE.base [b.val] * 2 ^ 21 + 4096 + 16 * e.accepted) (pts.flatMap Sealed.bytes)
    let count (z : Nat) : Nat := (pts.filter fun q => inZone e.acq z q.sensor (q.zone.getD 0 0) (q.zone.getD 1 0) (q.zone.getD 2 0)).length
    let s := s.setExp e.num fun x =>
      { x with
        accepted := x.accepted + pts.length
        zones := Vector.ofFn fun (z : Fin 16) => (x.zones[z] + count z.val) % 2 ^ 32
        extrap := x.extrap || ext, stale := x.stale || stale, seals := i + 1
        dir := x.dir ++ [(x.accepted, pts.length, flags)], refPose := if i = 0 then pose.bits else x.refPose }
    s.writeKeys e i b pts

/-- SLICE_SEAL (R102, R111): seal_us after the end of the earliest unsealed slice. -/
def execSliceSeal (dt : Nat) (s : State) : Ans :=
  let s := s.advance dt
  .next (match s.sealNext with
    | none => s
    | some e => if s.fullOn && s.sealDue e then s.sealSlice e e.seals else s)

/-! ### Point buffers (R40, R110) -/

/-- A buffer is held by an exposure until that one and every earlier one are complete. -/
def State.bufHeld (s : State) (b : Fin 4) : Bool :=
  s.exps.any fun e => decide (e.buf = some b) && s.exps.any fun x => decide (x.num ≤ e.num) && !x.complete

/-- FE_PBUF_STATUS.held. -/
def State.heldBits4 (s : State) : Nat :=
  ((List.finRange 4).map fun b => if s.bufHeld b then 2 ^ b.val else 0).foldl (· + ·) 0

/-- The next free buffer in ring order after the one taken last, if one is free. -/
def State.nextBuf (s : State) : Option (Fin 4) :=
  let n := s.reg FE_EXP_CTRL.pbuf_count + 1
  let from' := match s.fe.lastBuf with
    | none => 0
    | some b => b.val + 1
  ((List.range n).map fun k => (Fin.ofNat 4 ((from' + k) % n) : Fin 4)).find? fun b => !s.bufHeld b

/-! ### The descriptor (R110, R111, R118) -/

/-- A clock reading of Table 4-5. -/
def stampBytes (ns : Nat) : List Byte := timeBytes ns

/-- A reference pose in the descriptor: position in 1/4 mm, quaternion in Q2.30, rounded as R107 rounds (assumption 47, DEDUCED). -/
def refBytes (l : List Nat) : List Byte :=
  let v (i k : Nat) : List Byte := bytesOf 4 (wrapOf 32 (rndFit 32 ((fp64.read (l.getD i 0)).mul (.num false k 1))))
  v 0 4000 ++ v 1 4000 ++ v 2 4000 ++ v 3 (2 ^ 30) ++ v 4 (2 ^ 30) ++ v 5 (2 ^ 30) ++ v 6 (2 ^ 30)

/-- The flags of a descriptor (Table 4-5). -/
def Exp.descFlags (e : Exp) : Nat :=
  let b (x : Bool) (i : Nat) : Nat := if x then 2 ^ i else 0
  b e.overrun 0 + b (decide (0 < e.dropped) || e.overrun) 1 + b e.extrap 2 + b e.stale 3 +
    b (decide (csrGet e.acq FE_ACQ_CTRL.frame_sel [] = 1)) 4 + b e.stepped 5

/-- The 4,096 bytes of a descriptor. -/
def Exp.descriptor (e : Exp) : List Byte :=
  let dir := (e.dir.take 64).flatMap fun (d : Nat × Nat × Nat) => bytesOf 4 d.1 ++ bytesOf 4 d.2.1 ++ bytesOf 8 d.2.2
  bytesOf 8 e.num ++ stampBytes e.openNs ++ stampBytes (e.closeNs.getD 0) ++ bytesOf 1 (if e.overrun then 0 else e.slices) ++
    bytesOf 1 e.descFlags ++ bytesOf 2 0 ++ bytesOf 4 e.accepted ++ bytesOf 4 e.dropped ++ refBytes e.refPose ++ bytesOf 60 0 ++
    dir ++ List.replicate (1024 - dir.length) 0 ++ e.zones.toList.flatMap (bytesOf 4) ++
    ((List.range 16).flatMap fun k => bytesOf 4 ((alookup k e.sensors).getD 0)) ++ List.replicate 2816 0

/-- The lowest closed exposure whose step 6 has not come. -/
def State.describeNext (s : State) : Option Exp :=
  (s.exps.filter fun e => e.closeNs.isSome && !e.described).foldl (fun (b : Option Exp) e =>
    match b with
    | some x => if e.num < x.num then some e else some x
    | none => some e) none

/-- Where a descriptor goes: its exposure's buffer. An overrun exposure holds none (R40, R110): its descriptor goes to the next buffer of
the ring that is free, and to no address where every buffer is held (DESIGN CHOICE, assumption 48). -/
def State.descHome (s : State) (e : Exp) : Option (Fin 4) := if e.overrun then s.nextBuf else e.buf

/-- The descriptor is written and FE_PBUF_STATUS names it (R40, R111). -/
def State.putDescriptor (s : State) (e : Exp) : Option (Fin 4) → State
  | none => ({ s with fe := { s.fe with homeless := e.descriptor } }).setReg FE_PBUF_STATUS.closed_number [] e.num
  | some b =>
    ((s.hwWrite (csrGet e.acq FE_PBUF_BASE.base [b.val] * 2 ^ 21) e.descriptor).setReg FE_PBUF_STATUS.closed_number [] e.num).setReg
      FE_PBUF_STATUS.closed_buf [] b.val

/-- The descriptor is written, FE_PBUF_STATUS and the zone counts follow (R111, R118). -/
def State.describe (s : State) (e : Exp) : State :=
  (List.finRange 16).foldl (fun s z => s.setReg FE_ZONE_COUNT.count [z.val] e.zones[z]) (s.putDescriptor e (s.descHome e))

/-- EXPOSURE_DESCRIPTOR_WRITE (R111): step 6 of R38 for the lowest closed exposure, once its last slice has been sealed and written. -/
def execExposureDescriptorWrite (dt : Nat) (s : State) : Ans :=
  let s := s.advance dt
  .next (match s.describeNext with
    | none => s
    | some e =>
      if s.fullOn && (e.overrun || decide (e.slices ≤ e.seals)) then
        let s := (s.describe e).setExp e.num fun e => { e with described := true }
        s.soCome (s.reg FE_EXP_CTRL.close_so) .signal (e.num + 1)
      else s)

end Sys2Proof.Machine
end

