-- ==== Sys2Proof/Machine/Txn.lean ====
section
/-! DEFINITION. Machine/Txn.lean: configuration transactions (R13, R419 to R426): staging, commit, validation, application. -/
namespace Sys2Proof.Machine
open Reg

/-! ### Applying staged entries (R420) -/

/-- Bits [lo, hi) of a field's register bits replaced by those of an access of `n` bytes at byte `b` with value `v`. -/
def mergeBits (f : Fld) (old b n v : Nat) : Nat :=
  let lo := max f.lo (8 * b)
  let hi := min (f.lo + f.width) (8 * (b + n))
  if lo < hi then
    let x := v / 2 ^ (lo - 8 * b) % 2 ^ (hi - lo)
    let s := lo - f.lo
    old / 2 ^ (hi - f.lo) * 2 ^ (hi - f.lo) + x * 2 ^ s + old % 2 ^ s
  else old

/-- The field has bits in an access. -/
def Fld.touched (f : Fld) (b n : Nat) : Bool := decide (max f.lo (8 * b) < min (f.lo + f.width) (8 * (b + n)))

/-- The field spans both halves of a 64-bit register (R15). -/
def Fld.spans (r : RegRow) (f : Fld) : Bool := decide (r.bytes = 8 ∧ f.lo < 32 ∧ 32 < f.lo + f.width)

/-- A field under an access of `n` bytes at byte `b` with value `v` (R15, R420): one that spans both halves takes its new value with its
upper half, from the lower half held if there is one. -/
def entryField (r : RegRow) (idx : List Nat) (held : Option Nat) (b n v : Nat) (c : Csr) (f : Fld) : Csr :=
  let old := csrGet c f idx
  if f.spans r && decide (n = 4) then
    if b = 0 then c
    else csrSet c f idx (mergeBits f ((held.map fun lo => mergeBits f old 0 4 lo).getD old) b n v)
  else csrSet c f idx (mergeBits f old b n v)

/-- One staged entry applied to a register store, with the lower halves that earlier entries hold, by register (R15, R420). -/
def applyEntry (x : Csr × List (Nat × Nat)) (e : Staged) : Csr × List (Nat × Nat) :=
  match locateReg regRows e.off with
  | none => x
  | some (r, idx, b) =>
    let a := r.addr idx
    ((r.fields.filter fun f => decide (f.acc = .rwt) && f.touched b e.bytes).foldl
      (entryField r idx (alookup a x.2) b e.bytes e.val) x.1,
      if b = 0 ∧ e.bytes = 4 then (a, e.val) :: adel a x.2 else adel a x.2)

/-- The entries of a transaction in order. -/
def applyEntries (c : Csr) (l : List Staged) : Csr := (l.foldl applyEntry (c, [])).1

/-- The offset of the register instance that an entry stages. -/
def Staged.regOff (e : Staged) : Nat :=
  match locateReg regRows e.off with
  | none => e.off
  | some (r, idx, _) => r.addr idx

/-! ### Staging (R420) -/

/-- Change a partition's transaction. -/
def State.setTxn (s : State) (p : PartId) (f : Txn → Txn) : State := { s with txns := s.txns.set p (f s.txns[p]) }

/-- The RWT part of a write: staged, marking the transaction where no write has marked it yet, or discarded (R13, R420). -/
def State.stageWrite (s : State) (p : PartId) (allowed : Bool) (off n v : Nat) : State :=
  let t := s.txns[p]
  if !t.opened then s.bump CFG_STATUS.rwt_discard []
  else if !allowed then s.setTxn p fun t => { t with mark := t.mark.orElse fun _ => some (8, off) }
  else
    let rest := t.entries.filter fun e => !decide (e.off = off ∧ e.bytes = n)
    if 256 ≤ rest.length then s.setTxn p fun t => { t with mark := t.mark.orElse fun _ => some (7, off) }
    else
      let l := rest ++ [⟨off, n, v % 2 ^ (8 * n)⟩]
      (s.setTxn p fun t => { t with entries := l }).setReg CFG_TXN.staged [p.val] l.length

/-! ### CFG_TXN (R419, R421, R424) -/

/-- Report a status, with its cause and failing offset. -/
def State.report (s : State) (p : PartId) (status cause off : Nat) : State :=
  ((s.setReg CFG_TXN_STATUS.status [p.val] status).setReg CFG_TXN_STATUS.cause [p.val] cause).setReg
    CFG_TXN_STATUS.fail_off [p.val] off

/-- begin. -/
def State.txnBegin (s : State) (p : PartId) : State :=
  if s.txns[p].opened then s.setReg CFG_TXN_STATUS.status [p.val] 6
  else
    let s := s.setTxn p fun _ => { Txn.fresh with opened := true }
    (s.setReg CFG_TXN.staged [p.val] 0).report p 2 0 0

/-- commit. -/
def State.txnCommit (s : State) (p : PartId) (boundary : Bool) : State :=
  if s.txns[p].opened then
    (s.setTxn p fun t => { t with opened := false, validating := true, boundary := boundary, idle := s.idle }).report p 1 0 0
  else s.report p 5 0 0

/-- rollback. -/
def State.txnRollback (s : State) (p : PartId) : State :=
  if s.txns[p].opened then ((s.setTxn p fun _ => Txn.fresh).setReg CFG_TXN.staged [p.val] 0).report p 4 0 0
  else s.report p 5 0 0

/-- A write of CFG_TXN: with more than one action it is ignored as a whole; while the partition's commit is validated actions are
ignored (R419, R424). -/
def onCfgTxn (s : State) (w : Wr) (idx : List Nat) : State :=
  let p := Fin.ofNat 4 (idx.headD 0)
  let b := w.sets CFG_TXN.begin
  let c := w.sets CFG_TXN.commit
  let r := w.sets CFG_TXN.rollback
  if (b && c) || (b && r) || (c && r) then s
  else
    let s := plainWrite s w idx
    if s.txns[p].validating then s
    else if b then s.txnBegin p
    else if c then s.txnCommit p (decide (w.get CFG_TXN.when = 1))
    else if r then s.txnRollback p
    else s

/-- A write of CFG_TXN by an agent reaches its partition's copy (R419). -/
def State.writeTxn (s : State) (a : Agent) (v : BitVec 32) : State :=
  s.writeNamed a .CFG_TXN [(s.partOf a).val] .whole v.toNat onCfgTxn

/-- CFG_BEGIN (R419): a write of CFG_TXN with begin 1. -/
def execCfgBegin (a : Agent) (v : BitVec 32) (s : State) : Ans := .next (s.writeTxn a (v ||| 0x80000000))

/-- CFG_COMMIT (R421): a write of CFG_TXN with commit 1. -/
def execCfgCommit (a : Agent) (v : BitVec 32) (s : State) : Ans := .next (s.writeTxn a (v ||| 0x40000000))

/-- CFG_ROLLBACK (R424): a write of CFG_TXN with rollback 1. -/
def execCfgRollback (a : Agent) (v : BitVec 32) (s : State) : Ans := .next (s.writeTxn a (v ||| 0x20000000))

/-! ### Validation (R421 to R425) -/

/-- The offset of a register instance. -/
def offOf (n : RegName) (idx : List Nat) : Nat :=
  match regRow n with
  | none => 0
  | some r => r.addr idx

/-- A refusal: cause of Table 16-5 and offset. -/
abbrev Refused := Option (Nat × Nat)

/-- Refuse where a rule is broken. -/
def refuseIf (b : Bool) (cause : Nat) (n : RegName) (idx : List Nat) : Refused :=
  if b then some (cause, offOf n idx) else none

/-- The first refusal. -/
def firstOf : List Refused → Refused
  | [] => none
  | some r :: _ => some r
  | none :: l => firstOf l

/-- What a validation looks at: the state, the configuration formed, the configuration before this transaction, and whether it is applied at
once without exposures being idle. -/
structure View where
  s   : State
  c   : Csr
  was : Csr
  now : Bool

/-- The program (port, number) in whose FE_DEC_PROG or FE_DEC_STEP registers a field with bit address `k` lies. -/
def progOf (k : Nat) : Option (Nat × Nat) :=
  let b := k / 8
  if 0x704000 ≤ b ∧ b < 0x704800 then some ((b - 0x704000) / 0x100, (b - 0x704000) % 0x100 / 0x10)
  else if 0x708000 ≤ b ∧ b < 0x718000 then some ((b - 0x708000) / 0x2000, (b - 0x708000) % 0x2000 / 0x400)
  else none

/-- The programs judged: every one that holds a value other than its reset values, or that an enabled ETH_STEER entry of its port names. A
program that is as reset left it and that no frame reaches is not one in the sense of R91, R94 and R112 (assumption 49, DEDUCED). -/
def programs (c : Csr) : List (Nat × Nat) :=
  (c.filterMap (fun e => progOf e.1) ++ (List.range 8).flatMap fun p => (List.range 8).filterMap fun i =>
    if csrGet c ETH_STEER.en [p, i] = 1 then some (p, csrGet c ETH_STEER.program [p, i]) else none).eraseDups

/-- A sensor is enabled. -/
def sensorOn (c : Csr) (k : Nat) : Bool := decide (csrGet c FE_SENS_CFG.en [k] = 1)

/-- Every step register, as port, program and step. -/
def allSteps : List (Nat × Nat × Nat) :=
  (List.range 8).flatMap fun p => (List.range 8).flatMap fun g => (List.range 64).map fun k => (p, g, k)

/-- Ranges and reserved codes of the register tables (cause 1). -/
def checkRanges (v : View) : Refused :=
  let c := v.c
  firstOf ([refuseIf (csrGet c FE_EXP_CTRL.mnt_max_defer [] == 0 || csrGet c FE_EXP_CTRL.pbuf_count [] == 0) 1 .FE_EXP_CTRL [],
    refuseIf (csrGet c FE_EXP_DEADLINE.deadline_us [] == 0) 1 .FE_EXP_DEADLINE []] ++
    ((List.range 8).map fun p => refuseIf (decide (5 ≤ csrGet c ETH_CTRL.mode [p])) 1 .ETH_CTRL [p]) ++
    ((List.range 16).map fun k =>
      let hi := csrGet c FE_SENS_RANGE.max_range [k]
      refuseIf (sensorOn c k && decide (hi ≤ csrGet c FE_SENS_RANGE.min_range [k] ∨ 8000000 < hi)) 1 .FE_SENS_RANGE [k]) ++
    (allSteps.map fun (x : Nat × Nat × Nat) =>
      refuseIf (csrGet c FE_DEC_STEP.scope [x.1, x.2.1, x.2.2] == 3) 1 .FE_DEC_STEP [x.1, x.2.1, x.2.2]))

/-- Sum over the enabled sensors that satisfy a test. -/
def sensorSum (c : Csr) (on : Nat → Bool) (f : Nat → Nat) : Nat :=
  (((List.range 16).filter fun k => sensorOn c k && on k).map f).foldl (· + ·) 0

/-- The port of a mode in Mb/s (Table 3-1). -/
def portRate (mode : Nat) : Nat :=
  match mode with
  | 1 => 1000
  | 2 => 2500
  | 3 => 5000
  | 4 => 10000
  | _ => 0

/-- A program of port `p` names sensor `k`. -/
def onPort (c : Csr) (p k : Nat) : Bool :=
  (programs c).any fun g => decide (g.1 = p ∧ csrGet c FE_DEC_PROG.sensor [g.1, g.2] = k)

/-- R112 (cause 2). -/
def checkRates (v : View) : Refused :=
  let c := v.c
  let all (_ : Nat) : Bool := true
  firstOf ([refuseIf (decide (4194304 < sensorSum c all (quotaOf c) ∨
      16800 < sensorSum c all fun k => csrGet c FE_SENS_CFG.max_kpps [k])) 2 .FE_SENS_CFG [0]] ++
    (List.range 8).map fun p =>
      let mode := csrGet c ETH_CTRL.mode [p]
      let on := (List.range 16).any fun k => sensorOn c k && onPort c p k
      refuseIf (on && decide (mode = 0 ∨ portRate mode < sensorSum c (onPort c p) fun k => csrGet c FE_SENS_CFG.max_mbps [k]))
        2 .ETH_CTRL [p])

/-- The dests that a program stores to or adds to. -/
def destsOf (c : Csr) (g : Nat × Nat) : List Nat :=
  ((decSteps c g.1 g.2).filter fun st => decide (st.op ≤ 1)).map DecStep.dest

/-- R91 and R94 (cause 3). -/
def checkPrograms (v : View) : Refused :=
  let c := v.c
  let l := programs c
  let sensor (g : Nat × Nat) : Nat := csrGet c FE_DEC_PROG.sensor [g.1, g.2]
  firstOf ((allSteps.map fun (x : Nat × Nat × Nat) =>
      let i := [x.1, x.2.1, x.2.2]
      let d := csrGet c FE_DEC_STEP.dest i
      refuseIf (decide (12 ≤ d ∨ ((d = 9 ∨ d = 10) ∧ (csrGet c FE_DEC_STEP.scope i ≠ 0 ∨ csrGet c FE_DEC_STEP.op i ≠ 0))))
        3 .FE_DEC_STEP i) ++
    l.map fun g =>
      let d := destsOf c g
      let need := if csrGet c FE_DEC_PROG.cartesian [g.1, g.2] = 1 then [3, 4, 5] else [0, 1]
      let k := sensor g
      refuseIf (!need.all (fun x => d.contains x) ||
        (sensorOn c k && (l.any (fun h => decide (sensor h = k ∧ h.1 ≠ g.1)) ||
          (decide (csrGet c FE_SENS_CFG.time_mode [k] = 1) && !d.contains 10)))) 3 .FE_DEC_PROG [g.1, g.2])

/-- R33, R50, R102 (cause 4). -/
def checkTiming (v : View) : Refused :=
  let c := v.c
  let len := csrGet c FE_EXP_PERIOD.slice_ns []
  firstOf [refuseIf (decide (len < 390625 ∨ 3125000 < len)) 4 .FE_EXP_PERIOD [],
    refuseIf (decide (64 * len ≤ csrGet c FE_EXP_PHASE.phase_ns [])) 4 .FE_EXP_PHASE [],
    refuseIf (decide (64 * len < csrGet c FE_EXP_DEADLINE.deadline_us [] * 1000)) 4 .FE_EXP_DEADLINE [],
    refuseIf (decide (len < csrGet c FE_ACQ_CTRL.seal_us [] * 2000)) 4 .FE_ACQ_CTRL []]

/-- R42 (cause 5). -/
def checkMask (v : View) : Refused :=
  refuseIf (decide (popCount 32 (csrGet v.c FE_EXP_CORE_MASK.core_en []) < 4)) 5 .FE_EXP_CORE_MASK []

/-- The bits of an extrinsic. -/
def extBits (c : Csr) (k : Nat) : List Nat :=
  [FE_SENS_EXT.qw, FE_SENS_EXT.qx, FE_SENS_EXT.qy, FE_SENS_EXT.qz, FE_SENS_EXT.tx, FE_SENS_EXT.ty, FE_SENS_EXT.tz].map fun f =>
    csrGet c f [k]

/-- |q_old · q_new| of a sensor's extrinsics, in units of 2^-60. -/
def extDot (old new : Csr) (k : Nat) : Nat :=
  ([FE_SENS_EXT.qw, FE_SENS_EXT.qx, FE_SENS_EXT.qy, FE_SENS_EXT.qz].map fun f =>
    signedOf 32 (csrGet old f [k]) * signedOf 32 (csrGet new f [k])).sum.natAbs

/-- The step between two extrinsics is larger than 0.5° or 10 mm (R116), both judged exactly. -/
def bigStep (old new : Csr) (k : Nat) : Bool :=
  let d (f : Fld) : Nat := (signedOf 32 (csrGet old f [k]) - signedOf 32 (csrGet new f [k])).natAbs ^ 2
  aboveHalfDegree (extDot old new k) (2 ^ 60) || decide (1600 < d FE_SENS_EXT.tx + d FE_SENS_EXT.ty + d FE_SENS_EXT.tz)

/-- R116 refuses the change of sensor `k`'s extrinsic: changed already for this boundary, or too large a step. -/
def calRefused (v : View) (k : Nat) : Bool :=
  decide (extBits v.c k ≠ extBits v.was k) &&
    (decide (extBits v.was k ≠ extBits v.s.acq k) || (!v.s.idle && sensorOn v.c k && bigStep v.was v.c k))

/-- The lowest sensor that R116 refuses. -/
def calSensor (v : View) : Option Nat := (List.range 16).find? fun k => calRefused v k

/-- R116 (cause 6). -/
def checkExtrinsics (v : View) : Refused := (calSensor v).map fun k => (6, offOf .FE_SENS_EXT [k])

/-- R120 (cause 7): sh rises strictly over the enabled levels; e_l is bounded at every level. -/
def checkGrid (v : View) : Refused :=
  let c := v.c
  let e := csrGet c VOX_GEOM.edge0 []
  let sh (l : Nat) := csrGet c VOX_LEVEL.sh [l]
  let on (l : Nat) := decide (csrGet c VOX_LEVEL.en [l] = 1)
  firstOf ([refuseIf (decide (e < 8 ∨ 16384 < e)) 7 .VOX_GEOM [],
    refuseIf (!on 0 || decide (sh 0 ≠ 0)) 7 .VOX_LEVEL [0]] ++
    [1, 2, 3].map fun l =>
      refuseIf (decide (65536 < e * 2 ^ sh l) || (on l && (List.range l).any fun m => on m && decide (sh l ≤ sh m))) 7 .VOX_LEVEL [l])

/-- The registers of bank `k` of table `t` are unlike in two configurations. -/
def bankChanged (a b : Csr) (t k : Nat) : Bool :=
  ([TBL_TAB_CFG.en, TBL_TAB_CFG.frozen, TBL_TAB_CFG.replicate, TBL_TAB_CFG.prefetch, TBL_TAB_CFG.mode, TBL_TAB_CFG.opt,
    TBL_TAB_CFG.state_fmt, TBL_TAB_CFG.index, TBL_TAB_CFG.res_shift, TBL_TAB_CFG.rows_log2, TBL_TAB_HASH.tab_seed,
    TBL_TAB_BASE.state_base, TBL_TAB_BASE.dir_base].any fun f => decide (csrGet a f [t, k] ≠ csrGet b f [t, k])) ||
  (List.range 3).any fun p =>
    [TBL_TAB_POOL.free_init, TBL_TAB_POOL.slots, TBL_TAB_POOL.base].any fun f => decide (csrGet a f [t, k, p] ≠ csrGet b f [t, k, p])

/-- Bank `k` of table `t` is active, draining, or the target of an unfinished rebuild (R254). -/
def State.bankHeld (s : State) (t k : Nat) : Bool :=
  decide (s.bankOf t = k) || s.bit TBL_TAB_STATUS.draining [t] || s.tbl.rebs.any fun r => decide (r.tab = t)

/-- One bank's configuration (R254, R260). -/
def checkBank (v : View) (t k : Nat) : Refused :=
  let g (f : Fld) := csrGet v.c f [t, k]
  let rows := g TBL_TAB_CFG.rows_log2
  let mode := g TBL_TAB_CFG.mode
  firstOf ([refuseIf (decide (rows < 10 ∨ 24 < rows ∨ 19 < g TBL_TAB_CFG.res_shift ∨ 2 ≤ mode ∨ g TBL_TAB_CFG.opt = 3 ∨
      (mode = 1 ∧ g TBL_TAB_CFG.index = 1))) 8 .TBL_TAB_CFG [t, k]] ++
    ((List.range 3).map fun p =>
      refuseIf (decide (csrGet v.c TBL_TAB_POOL.slots [t, k, p] < csrGet v.c TBL_TAB_POOL.free_init [t, k, p])) 8 .TBL_TAB_POOL [t, k, p]) ++
    [refuseIf (v.s.bankHeld t k && bankChanged v.was v.c t k) 8 .TBL_TAB_CFG [t, k]])

/-- TBL_VAULT (R260): a region of size 0 is none. -/
def checkVault (v : View) : Refused :=
  let g (f : Fld) := csrGet v.c f []
  let upd := g TBL_VAULT.upd_log2
  let rep := g TBL_VAULT.rep_log2
  let size := g TBL_VAULT.size * 65536
  let least := 192 * 2 ^ upd + 576 * 2 ^ rep + 2 ^ 20
  let changed := [TBL_VAULT.upd_log2, TBL_VAULT.rep_log2, TBL_VAULT.size, TBL_VAULT.base].any fun f =>
    decide (csrGet v.was f [] ≠ csrGet v.c f [])
  let active := (List.range 16).any fun t => decide (csrGet v.was TBL_TAB_CFG.en [t, v.s.bankOf t] = 1)
  refuseIf (decide (upd < 10 ∨ 18 < upd ∨ (rep ≠ 0 ∧ (rep < 8 ∨ 16 < rep)) ∨
    (size ≠ 0 ∧ (0x4000000 < g TBL_VAULT.base * 65536 + size ∨ size < least))) || (changed && active)) 8 .TBL_VAULT []

/-- R254 and R260 (cause 8). -/
def checkTables (v : View) : Refused :=
  firstOf ([checkVault v] ++ (List.range 16).flatMap fun t =>
    [checkBank v t 0, checkBank v t 1,
      refuseIf (v.now && decide (csrGet v.c TBL_TAB_CTL.sel [t] ≠ csrGet v.was TBL_TAB_CTL.sel [t])) 8 .TBL_TAB_CTL [t]])

/-- Table 4-21 (cause 9). -/
def checkZones (v : View) : Refused :=
  firstOf ((List.range 16).map fun z =>
    refuseIf (decide (csrGet v.c FE_ZONE_CFG.en [z] = 1 ∧ csrGet v.c FE_ZONE_CFG.nvtx_m1 [z] < 2)) 9 .FE_ZONE_CFG [z])

/-- R453 (cause 10). -/
def checkSafety (v : View) : Refused :=
  let c := v.c
  let en (k : Nat) := decide (csrGet c SAFE_WDG.en [k] = 1)
  let lo := csrGet c SAFE_PF_CFG.out_base [] * 65536
  let hi := lo + 32 + 4 * (csrGet c SAFE_PF_CFG.n_out_m1 [] + 1)
  let at' := csrGet c TBL_VAULT.base [] * 65536
  let size := csrGet c TBL_VAULT.size [] * 65536
  let chk (z : Nat) := decide (csrGet c SAFE_ZCHK.chk_en [z] = 1)
  firstOf (((List.range 16).map fun k =>
      refuseIf ((en k && decide (csrGet c SAFE_WDG.max_us [k] ≤ csrGet c SAFE_WDG.min_us [k])) ||
        (decide (k ≠ 0 ∧ csrGet c SAFE_WDG.ref [k] = 1) && !en (k - 1)) ||
        decide (k = 1 ∧ 2000 < csrGet c SAFE_WDG.max_us [k])) 10 .SAFE_WDG [k]) ++
    [refuseIf ((decide (csrGet c SAFE_PF_CFG.en [] = 1) && !en 1) || decide (csrGet c SAFE_PF_CFG.cmp_max_us [] < 20) ||
      decide (0x4000000 < hi) || decide (size ≠ 0 ∧ lo < at' + size ∧ at' < hi)) 10 .SAFE_PF_CFG []] ++
    ((List.range 16).map fun z =>
      refuseIf (chk z && decide (csrGet c SAFE_ZCHK.hi [z] ≤ csrGet c SAFE_ZCHK.lo [z] ∨ csrGet c FE_ZONE_CFG.en [z] = 0)) 10 .SAFE_ZCHK [z]) ++
    [refuseIf (decide (csrGet c SAFE_CHK.en [] = 1) && !(List.range 16).any chk) 10 .SAFE_CHK []])

/-- Every rule refused at commit, in the order of the causes (R421, R425). -/
def checkAll (v : View) : Refused :=
  firstOf [checkRanges v, checkRates v, checkPrograms v, checkTiming v, checkMask v, checkExtrinsics v, checkGrid v, checkTables v,
    checkZones v, checkSafety v]

/-! ### Application (R422, R426) -/

/-- The fields of the grid geometry (R120). -/
def geometry (c : Csr) : List Nat :=
  csrGet c VOX_GEOM.edge0 [] :: csrGet c VOX_SEED.hash_seed [] ::
    ([VOX_ORIGIN.org_x, VOX_ORIGIN.org_y, VOX_ORIGIN.org_z].map fun f => csrGet c f []) ++
    (List.range 4).flatMap fun l => [csrGet c VOX_LEVEL.en [l], csrGet c VOX_LEVEL.sh [l]]

/-- The processing settings are latched (R38 step 3, R120). -/
def State.latchProc (s : State) : State :=
  let s := if geometry s.csr = geometry s.proc then s else s.wrap VOX_GEOM.geom_gen []
  { s with proc := s.csr }

/-- While exposures are idle every value takes effect at application (R426). -/
def State.latchIdle (s : State) : State :=
  let s := s.latchProc.switchBanks.latchPorts
  { s with acq := s.csr }

/-- The entries of one transaction become committed values (R422). A table region that moves leaves its old bytes undefined
(assumption 50, DEDUCED). -/
def State.applyTxn (s : State) (seq : Nat) (l : List Staged) : State :=
  let c := applyEntries s.csr l
  let moved := [TBL_VAULT.base, TBL_VAULT.size].any fun f => decide (csrGet c f [] ≠ s.reg f)
  let s := if moved then s.blur (vaultBase + s.reg TBL_VAULT.base * 65536) (s.reg TBL_VAULT.size * 65536) else s
  ({ s with csr := c }).setReg CFG_STATUS.applied_seq [] seq

/-- Pending transactions are applied in commit order (R38 step 2, R422). -/
def State.applyPending (s : State) : State :=
  let l := s.pendTx
  let s := ({ s with pendTx := [] }).setReg CFG_STATUS.pending [] 0
  l.foldl (fun s t =>
    let s := s.applyTxn t.seq t.entries
    let i := [t.part.val]
    if s.reg CFG_TXN_STATUS.status i = 3 ∧ s.reg CFG_TXN_STATUS.seq i = t.seq then s.report t.part 0 0 0 else s) s

/-- The first staged register that a passed commit of another partition staged too, for the exposure number of this commit (R423). -/
def State.conflict (s : State) (p : PartId) (l : List Staged) : Option Nat :=
  let n := s.reg FE_EXP_NUMBER.open_number
  (l.map Staged.regOff).find? fun o => s.passed.any fun q => decide (q.part ≠ p ∧ q.exp = n) && q.offs.contains o

/-- What R116 records when a commit fails that changes an extrinsic as it forbids, whichever rule fails first. -/
def State.noteCal (s : State) (v : View) : State :=
  match calSensor v with
  | none => s
  | some k =>
    ((s.setReg FE_ACQ_STATUS.cal_refused [] 1).setReg FE_ACQ_STATUS.cal_refused_sensor [] k).bump FE_ACQ_STATUS.cal_refused_count []

/-- A commit passes (R421, R422). -/
def State.passTxn (s : State) (p : PartId) (t : Txn) : State :=
  let seq := s.seq % 65535 + 1
  let n := s.reg FE_EXP_NUMBER.open_number
  let mine : Passed := ⟨p, n, (t.entries.map Staged.regOff).eraseDups⟩
  let s : State := { s with seq := seq, passed := (s.passed.filter fun q => decide (q.exp = n)) ++ [mine] }
  let s := s.setReg CFG_TXN_STATUS.seq [p.val] seq
  if !t.boundary || t.idle || s.idle then
    let s := (s.applyTxn seq t.entries).report p 0 0 0
    if s.idle then s.latchIdle else s
  else
    let s : State := { s with pendTx := s.pendTx ++ [⟨p, seq, t.entries⟩] }
    (s.setReg CFG_STATUS.pending [] s.pendTx.length).report p 3 0 0

/-- Validation of a commit ends (R421). -/
def State.validate (s : State) (p : PartId) : State :=
  let t := s.txns[p]
  let s := (s.setTxn p fun _ => Txn.fresh).setReg CFG_TXN.staged [p.val] 0
  match t.mark with
  | some (st, off) => s.report p st 0 off
  | none =>
    match s.conflict p t.entries with
    | some off => (s.bump CFG_STATUS.conflict_count []).report p 10 0 off
    | none =>
      if t.boundary && !t.idle && decide (8 ≤ s.pendTx.length) then s.report p 11 0 0
      else
        let was := s.pendTx.foldl (fun c q => applyEntries c q.entries) s.csr
        let v : View := ⟨s, applyEntries was t.entries, was, !t.boundary && !s.idle⟩
        match checkAll v with
        | some (cause, off) => (s.noteCal v).report p 9 cause off
        | none => s.passTxn p t

/-- CFG_VALIDATE_END (R421). -/
def execCfgValidateEnd (dt : Nat) (p : PartId) (s : State) : Ans :=
  let s := s.advance dt
  .next (if s.txns[p].validating then s.validate p else s)

end Sys2Proof.Machine
end

