-- ==== Sys2Proof/Machine/Hosts.lean ====
section
/-! DEFINITION. Machine/Hosts.lean: PCIe functions, partitions, their maps and resets, message-signalled interrupts (R409 to R418). -/
namespace Sys2Proof.Machine
open Reg

/-! ### Links and bindings (R410) -/

/-- link_up of each partition follows its bound function's port (Table 16-19). -/
def State.showLinks (s : State) : State :=
  (List.finRange 4).foldl (fun s p =>
    let up := match s.boundFn p with
      | none => false
      | some f => s.fnLink f
    s.setReg HOST_PART_STATUS.link_up [p.val] (if up then 1 else 0)) s

/-- The present functions bound to a partition. -/
def State.boundTo (s : State) (p : PartId) : List (Fin 8) :=
  (List.finRange 8).filter fun f => s.fnPresent f && decide (s.reg HOST_FN_BIND.part [f.val] = p.val)

/-- A write of HOST_PCIE_CFG or HOST_FN_BIND: ignored where it would bind a second present function to a partition. -/
def onBinding (s : State) (w : Wr) (idx : List Nat) : State :=
  let t := plainWrite s w idx
  let bad := (List.finRange 4).filter fun p => decide (1 < (t.boundTo p).length)
  if bad = [] then t.showLinks else bad.foldl (fun s p => s.setReg HOST_PART_STATUS.bind_err [p.val] 1) s

/-- FN_BIND_WRITE (R410). -/
def execFnBindWrite (a : Agent) (f : Fin 8) (v : BitVec 32) (s : State) : Ans :=
  .next (s.writeNamed a .HOST_FN_BIND [f.val] .whole v.toNat onBinding)

/-- PCIE_LINK_UP (R413): port `port` completes link training. -/
def execPcieLinkUp (dt : Nat) (port : Fin 2) (s : State) : Ans :=
  let s := s.advance dt
  .next (if s.awake && !(decide (port = 1) && (s.bit HOST_PCIE_CFG.x8 || s.minimal)) then
      let s : State := { s with links := s.links.set port true }
      s.showLinks
    else s)

/-! ### Partition maps (R412, R413) -/

/-- A map entry of partition `p` may name the 2 MiB page (R413). -/
def State.pageAllowed (s : State) (p : PartId) (page : Nat) : Bool :=
  let a := page * 2 ^ 21
  decide (a + 2 ^ 21 ≤ s.dataBytes ∨ (vaultBase ≤ a ∧ a < vaultBase + 0x4000000) ∨ (spmBase ≤ a ∧ a < spmBase + 0x8000000) ∨
    (hostBase + p.val * 2 ^ 40 ≤ a ∧ a < hostBase + (p.val + 1) * 2 ^ 40))

/-- A write of a map entry. -/
def onMap (s : State) (w : Wr) (idx : List Nat) : State :=
  let p : PartId := Fin.ofNat 4 (idx.headD 0)
  if w.has HOST_MAP.page && !s.pageAllowed p (w.get HOST_MAP.page) then s.setReg HOST_PART_STATUS.map_err [p.val] 1
  else plainWrite s w idx

/-- HOST_MAP_WRITE (R413). -/
def execHostMapWrite (a : Agent) (p : PartId) (k : BitVec 12) (h : Half) (v : W64) (s : State) : Ans :=
  .next (s.writeNamed a .HOST_MAP [p.val, k.toNat] h v.toNat onMap)

/-! ### Partition reset (R416) -/

/-- The objects whose arm is set. -/
def State.armedObjects (s : State) : List Nat :=
  s.csr.filterMap fun e =>
    let k := SO_ATTR.arm.key [0]
    if k ≤ e.1 ∧ (e.1 - k) % 32 = 0 ∧ (e.1 - k) / 32 < 16384 then some ((e.1 - k) / 32) else none

/-- arm clears in every object that the partition owns. -/
def State.disarm (s : State) (p : PartId) : State :=
  (s.armedObjects.filter fun o => s.bit SO_ATTR.own_valid [o] && decide (s.reg SO_ATTR.owner [o] = p.val)).foldl
    (fun s o => s.setReg SO_ATTR.arm [o] 0) s

/-- The partition's open transaction is discarded. -/
def State.discardTxn (s : State) (p : PartId) : State :=
  if s.txns[p].opened then ((s.setTxn p fun _ => Txn.fresh).setReg CFG_TXN.staged [p.val] 0).report p 12 0 0 else s

/-- The partition's contexts. -/
def State.ctxsOf (s : State) (p : PartId) : List CtxId :=
  (List.finRange 256).filter fun c => decide (s.reg SO_CTX_CFG.part [c.val] = p.val ∧ s.ctxState c ≠ 0)

/-- Every context of the partition is killed, and the windows of its contexts close. -/
def State.killPart (s : State) (p : PartId) : State :=
  let s := (s.ctxsOf p).foldl (fun s c => s.kill c) s
  (List.finRange 32).foldl (fun s n =>
    let own := s.cores[n].winOwner
    let s' := s
    s.closeWindows n fun w => decide (s'.partOf (.ctx own[w]) = p)) s

/-- The address of the next beat of a channel's source. -/
def State.dNext (s : State) (e : Engine) (k : Nat) (d : Chan) : Nat :=
  s.dSrc e k + d.row * (rowsOf (s.dMode e k) (s.dCnt e k)).2.2.1 + d.pos

/-- The partition's fabric channels halt at their next beat with cause 2. -/
def State.haltPart (s : State) (p : PartId) : State :=
  (List.range 32).foldl (fun s k =>
    match s.chan none k with
    | none => s
    | some d => if s.reg DMA_OWN.part [k] = p.val then s.dHalt none k d ⟨2, s.dNext none k d, (0, 0)⟩ else s) s

/-- A partition reset of P1 to P3 begins: what it changes is changed at once, and stopped reads 1 until it ends. -/
def State.startReset (s : State) (p : PartId) : State :=
  if p = 0 then s
  else
    let s := (s.setReg HOST_PART_CTRL.stopped [p.val] 1).bump HOST_PART_STATUS.resets [p.val]
    let s := ((((s.discardTxn p).killPart p).haltPart p).disarm p)
    { s with presets := (p, s.clk.tclk) :: s.presets.filter fun e => decide (e.1 ≠ p) }

/-- Sum of the non-zero time shares. -/
def State.shareSum (s : State) : Nat := ((List.range 4).map fun p => s.reg HOST_PART_CTRL.share [p]).foldl (· + ·) 0

/-- A write of HOST_PART_CTRL (R415, R416): ignored where the shares would sum to more than 64. -/
def onPartCtrl (s : State) (w : Wr) (idx : List Nat) : State :=
  let t := plainWrite s w idx
  if w.has HOST_PART_CTRL.share && decide (64 < t.shareSum) then s.setReg HOST_PART_STATUS.share_err idx 1
  else if w.sets HOST_PART_CTRL.reset then t.startReset (Fin.ofNat 4 (idx.headD 0))
  else t

/-- PARTITION_RESET_WRITE (R416): a write of HOST_PART_CTRL with reset 1. -/
def execPartitionResetWrite (a : Agent) (p : PartId) (v : BitVec 32) (s : State) : Ans :=
  .next (s.writeNamed a .HOST_PART_CTRL [p.val] .whole (v ||| 0x80000000).toNat onPartCtrl)

/-- PART_SHARE_WRITE (R415). -/
def execPartShareWrite (a : Agent) (p : PartId) (v : BitVec 32) (s : State) : Ans :=
  .next (s.writeNamed a .HOST_PART_CTRL [p.val] .whole v.toNat onPartCtrl)

/-- A function's reset: its MSI-X table is as reset leaves it, and the partition it is bound to is reset (R416). -/
def State.fnReset (s : State) (f : Fin 8) : State :=
  let s : State := { s with msix := s.msix.set f Msix.fresh }
  if s.fnPresent f then s.startReset (Fin.ofNat 4 (s.reg HOST_FN_BIND.part [f.val])) else s

/-- The functions of a port. -/
def portFns (port : Fin 2) : List (Fin 8) := (List.finRange 8).filter fun f => decide (f.val / 4 = port.val)

/-- A port's link goes down: the functions on it are reset (R416). -/
def State.portDown (s : State) (port : Fin 2) : State :=
  let s := (portFns port).foldl (fun s f => s.fnReset f) s
  let s : State := { s with links := s.links.set port false }
  s.showLinks

/-- PCIE_RESET_EVENT (R416). -/
def execPcieResetEvent (dt : Nat) (e : PcieReset) (s : State) : Ans :=
  let s := s.advance dt
  .next (if s.awake then
      match e with
      | .flr f => s.fnReset f
      | .hot port => s.portDown port
      | .linkDown port => s.portDown port
    else s)

/-- PARTITION_RESET_END (R416). -/
def execPartitionResetEnd (dt : Nat) (p : PartId) (s : State) : Ans :=
  let s := s.advance dt
  .next (if s.presets.any fun e => decide (e.1 = p) then
      let s : State := { s with presets := s.presets.filter fun e => decide (e.1 ≠ p) }
      s.setReg HOST_PART_CTRL.stopped [p.val] 0
    else s)

/-- SHARE_PERIOD (R415): each 250,000 TCLK the shares of every core renew. -/
def execSharePeriod (dt : Nat) (s : State) : Ans :=
  let s := s.advance dt
  .next (if s.shareT + 250000 ≤ s.clk.tclk then
      { s with shareT := s.shareT + 250000, cores := s.cores.map fun k => { k with used := Vector.replicate 4 0 } }
    else s)

/-! ### MSI-X (R418) -/

/-- A pending vector that nothing masks is sent. -/
def State.msixSend (s : State) (f : Fin 8) (v : Fin 64) : State :=
  let m := s.msix[f]
  if m.enabled && !m.masked && !m.mask.getLsbD v.val && m.pba.getLsbD v.val && s.fnLink f then
    let s : State := { s with msix := s.msix.set f { m with pba := m.pba &&& ~~~(1#64 <<< v.val) } }
    s.emit (.msix f v.val)
  else s

/-- Every pending vector of a function that nothing masks is sent. -/
def State.msixFlush (s : State) (f : Fin 8) : State := (List.finRange 64).foldl (fun s v => s.msixSend f v) s

/-- The mask bit of a vector. -/
def State.msixMask (s : State) (f : Fin 8) (v : Fin 64) (on : Bool) : State :=
  let m := s.msix[f]
  let b := 1#64 <<< v.val
  let s : State := { s with msix := s.msix.set f { m with mask := if on then m.mask ||| b else m.mask &&& ~~~b } }
  s.msixFlush f

/-- MSIX_UNMASK (R418). -/
def execMsixUnmask (f : Fin 8) (v : Fin 64) (s : State) : Ans :=
  .next (if s.agentLive (.fn f) then s.msixMask f v false else s)

/-- A write of MSI-X Message Control: enable in bit 15, the function's mask in bit 14 (assumption 5, PRESUMED). -/
def State.msixControl (s : State) (f : Fin 8) (v : BitVec 16) : State :=
  let m := s.msix[f]
  let s : State := { s with msix := s.msix.set f { m with enabled := v.getLsbD 15, masked := v.getLsbD 14 } }
  s.msixFlush f

/-! ### Inbound requests -/

/-- One dword written in BAR4: the MSI-X table, the mailbox's request and its doorbell (Table 16-2, R429). -/
def State.bar4Write (s : State) (f : Fin 8) (o v : Nat) : State :=
  if o < 0x400 then
    if o % 16 = 12 then s.msixMask f (Fin.ofNat 64 (o / 16)) (decide (v % 2 = 1))
    else { s with msix := s.msix.set f { s.msix[f] with table := aset o v 0 s.msix[f].table } }
  else if f.val ≠ 0 then s
  else if 0x1000 ≤ o ∧ o < 0x1800 then
    { s with mbox := { s.mbox with req :=
        ((List.range 4).map fun k => (o - 0x1000 + k, v / 256 ^ k % 256)).foldl (fun l e => aset e.1 e.2 0 l) s.mbox.req } }
  else if o = 0x2000 then
    let body := (List.range (min v 2048)).map fun k => BitVec.ofNat 8 ((alookup k s.mbox.req).getD 0)
    let s : State := { s with mbox := { s.mbox with done := false } }
    s.msgIn ⟨.mailbox, body⟩
  else s

/-- One dword read in BAR4. -/
def State.bar4Read (s : State) (f : Fin 8) (o : Nat) : Nat :=
  let m := s.msix[f]
  if o < 0x400 then
    if o % 16 = 12 then (if m.mask.getLsbD (o / 16) then 1 else 0) else (alookup o m.table).getD 0
  else if o = 0x800 then m.pba.toNat % 2 ^ 32
  else if o = 0x804 then m.pba.toNat / 2 ^ 32
  else if f.val ≠ 0 then 0
  else if 0x1000 ≤ o ∧ o < 0x1800 then
    natOfBytes ((List.range 4).map fun k => BitVec.ofNat 8 ((alookup (o - 0x1000 + k) s.mbox.req).getD 0))
  else if 0x1800 ≤ o ∧ o < 0x2000 then natOfBytes ((s.mbox.resp.drop (o - 0x1800)).take 4)
  else if o = 0x2008 then (if s.mbox.done then 1 else 0)
  else 0

/-- A BAR4 access by dwords. -/
def State.bar4 (s : State) (f : Fin 8) (o n : Nat) (bs : List Byte) : State :=
  let o := o / 4 * 4
  if bs = [] then
    let l := (List.range (ceilDiv n 4)).map fun k => s.bar4Read f (o + 4 * k)
    s.emit (.data (.fn f) (l.foldr (fun x v => x + 2 ^ 32 * v) 0))
  else
    (List.range (ceilDiv bs.length 4)).foldl (fun s k => s.bar4Write f (o + 4 * k) (natOfBytes ((bs.drop (4 * k)).take 4))) s

/-- A permitted access of a function to bytes within one line at a device address: of DRAM, the vault, a scratchpad, or the partition's
own host window, where `host` is what host memory holds. -/
def State.inboundAt (s : State) (f : Fin 8) (d n : Nat) (bs : List Byte) (host : Nat) : State :=
  let a := Agent.fn f
  match regionOf s d with
  | .dram _ => if bs = [] then s.dramRead a d n 0 false else s.dramWrite a d bs 0
  | .vault _ => s.vaultAccess a d n bs 0
  | .spm c o => s.remoteAccess a c o n bs
  | .host _ _ =>
    match s.denial (s.srcOf a) (s.partOf a) (bs ≠ []) d with
    | some r => s.refuseAccess a (bs ≠ []) r
    | none => if bs = [] then s.emit (.data a (s.readAt d n host)) else s.writeAt (s.partOf a) d bs
  | _ => s

/-- A permitted access of a function at a device address, line by line (at most `fuel` lines). -/
def State.inboundLines (s : State) (f : Fin 8) (d n : Nat) (bs : List Byte) (host : Nat) : Nat → State
  | 0 => s
  | fuel + 1 =>
    if n = 0 then s
    else
      let k := min n (32 - d % 32)
      (s.inboundAt f d k (bs.take k) host).inboundLines f (d + k) (n - k) (bs.drop k) (host / 256 ^ k) fuel

/-- The part of a BAR2 request that one map entry serves: translated by it, or refused as a whole (R412). -/
def State.bar2Entry (s : State) (f : Fin 8) (o n : Nat) (bs : List Byte) (host : Nat) : State :=
  let p := s.partOf (.fn f)
  let i := [p.val, o / 2 ^ 21]
  let wr := decide (bs ≠ [])
  if s.bit HOST_MAP.valid i && s.bit (if wr then HOST_MAP.wr else HOST_MAP.rd) i then
    s.inboundLines f (s.reg HOST_MAP.page i * 2 ^ 21 + o % 2 ^ 21) n bs host (n / 32 + 2)
  else s.refuseAccess (.fn f) wr .map

/-- A BAR2 request, map entry by map entry (at most `fuel` of them). -/
def State.bar2 (s : State) (f : Fin 8) (o n : Nat) (bs : List Byte) (host : Nat) : Nat → State
  | 0 => s
  | fuel + 1 =>
    if n = 0 ∨ 2 ^ 33 ≤ o then s
    else
      let k := min n (2 ^ 21 - o % 2 ^ 21)
      (s.bar2Entry f o k (bs.take k) host).bar2 f (o + k) (n - k) (bs.drop k) (host / 256 ^ k) fuel

/-- PCIE_INBOUND_REQUEST (R412): a function's request of `n` bytes, a write of `bs` where there are any; a request to BAR0 is
REGISTER_READ or REGISTER_WRITE. -/
def execPcieInboundRequest (f : Fin 8) (t : PcieTarget) (n : Nat) (bs : List Byte) (host : BitVec 256) (s : State) : Ans :=
  .next (if !s.agentLive (.fn f) then s
    else match t with
      | .bar2 o =>
        let n := if bs = [] then n else bs.length
        s.bar2 f o.toNat n bs host.toNat (n / 2 ^ 21 + 2)
      | .bar4 o => s.bar4 f o.toNat n bs
      | .control v => s.msixControl f v)

end Sys2Proof.Machine
end

