-- ==== Sys2Proof/Machine/Monitor.lean ====
section
/-! DEFINITION. Machine/Monitor.lean: the commands and events of the safety monitor (R433 to R451). -/
namespace Sys2Proof.Machine
open Reg

/-! ### Stage marks and windows (R433, R434) -/

/-- A mark that the monitor ignores. -/
def State.stray (s : State) : State := s.bump SAFE_COUNT.stray_marks []

/-- A stage mark is judged: for a judged, closed exposure whose number ends in its bits. -/
def State.judgeMark (s : State) (n : CoreId) (st : Nat) (bits : BitVec 32) : State :=
  match s.mon.judged.find? fun g => decide (g.exp % 2 ^ 32 = bits.toNat) with
  | none => s.stray
  | some g =>
    let active := csrGet g.cfg FE_EXP_ACTIVE.active []
    if g.closeT.isNone || g.overrun || !decide (g.wdg st SAFE_WDG.en = 1) || !bitOf active n.val || (g.done[st]!).isSome then s.stray
    else
      let m := g.marks[st]! ||| (1#32 <<< n.val)
      let s := s.setJudge g.exp fun g => { g with marks := g.marks.set! st m }
      let all := decide (g.wdg st SAFE_WDG.per_core = 0 ∨ active &&& m.toNat = active)
      if all then (s.stageComplete g.exp st).judgeTidy else s

/-- STAGE_MARK_ARRIVE (R433): mark `j` of those on their way arrives; marks of one core keep their order. -/
def execStageMarkArrive (dt : Nat) (j : Nat) (s : State) : Ans :=
  let s := s.advance dt
  .next (match s.mon.marksSent[j]? with
    | none => s
    | some (n, _, st, bits) =>
      if (s.mon.marksSent.take j).any fun m => decide (m.1 = n) then s
      else
        let s := { s with mon := { s.mon with marksSent := s.mon.marksSent.eraseIdx j } }
        s.judgeMark n st bits)

/-- STAGE_LATE (R434): a stage of a judged exposure has not completed within max_us. -/
def execStageLate (dt : Nat) (j : Nat) (st : Fin 16) (s : State) : Ans :=
  let s := s.advance dt
  .next (match s.judge j with
    | none => s
    | some g =>
      match g.stageRef st.val with
      | none => s
      | some t0 =>
        if g.stageOn st.val && (g.done[st]).isNone && !g.late[st] &&
            decide (g.wdg st.val SAFE_WDG.max_us ≤ elapsedUs t0 s.clk.tclk) then
          ((s.setJudge j fun g => { g with late := g.late.set st true }).detect 0x11 st.val (some j)).judgeTidy
        else s)

/-! ### The proof comparison (R437) -/

/-- Bytes the monitor reads of the vault; poisoned ones are undefined. -/
def State.readLoose (s : State) (a n : Nat) : List Byte × State :=
  let s := s.settleRange a n
  if s.poisonedIn a n then
    match s.draw (8 * n) with
    | (v, s) => (bytesOf n v.toNat, s)
  else (s.readBytes a n, s)

/-- An entry of SAFE_PF_TAB; one that nothing has written is undefined (R393). -/
def State.tolerance (s : State) (o : Nat) : Nat × State :=
  if s.mon.tabSeen.contains o then (s.reg SAFE_PF_TAB.entry [o], s)
  else
    match s.draw 64 with
    | (v, s) => (v.toNat, s)

/-- An output passes (R437): |y - ref| ≤ abs_tol + rel_tol 2^-16 |ref|, exactly; infinities pass where they are equal. -/
def proofPasses (entry y : Nat) : Bool :=
  let ref := fp32.read (bitsOf entry 31 0)
  let v := fp32.read y
  if bitOf entry 63 then true
  else
    match ref, v with
    | .nan, _ => false
    | _, .nan => false
    | .num a n d, .num b m e =>
      let r : Val := .num a n d
      let diff := (Val.sub (.num b m e) r).abs
      let tol := (bf16.read (bitsOf entry 47 32)).add ((Val.num false (bitsOf entry 62 48) 65536).mul r.abs)
      diff.lt tol || diff.eq tol
    | a, b => a.eq b

/-- The outputs that fail, lowest first. -/
def State.proofFails (s : State) (base : Nat) : Nat → Nat → List Nat × State
  | _, 0 => ([], s)
  | o, k + 1 =>
    match s.readLoose (base + 32 + 4 * o) 4 with
    | (b, s) =>
      match s.tolerance o with
      | (t, s) =>
        match s.proofFails base (o + 1) k with
        | (l, s) => (if proofPasses t (natOfBytes b) then l else o :: l, s)

/-- The proof core of exposure `j` (R44): core j mod 32, or the next active core in ascending number. -/
def proofCore (active j : Nat) : Nat :=
  (((List.range 32).map fun i => (j + i) % 32).find? fun n => bitOf active n).getD (j % 32)

/-- The monitor leaves the safe state (R449). -/
def State.run (s : State) : State :=
  let s := s.setReg SAFE_STATUS.state [] 2
  { s with mon := { s.mon with safeaLow := false, restartT := none, restartR := none, safebT := s.clk.tclk } }

/-- The first comparison in progress, with the edge at which it began. -/
def State.proofHead (s : State) : Option (Nat × Nat × Bool) :=
  s.mon.comparing.findSome? fun c => c.2.1.map fun t => (c.1, t, c.2.2)

/-- The first comparison in progress that has not been found late. -/
def State.proofSlow (s : State) : Option (Nat × Nat) :=
  s.mon.comparing.findSome? fun c => if c.2.2 then none else c.2.1.map fun t => (c.1, t)

/-- The end of the proof comparison of exposure `j`. -/
def State.proofEnd (s : State) (j : Nat) : State :=
  let cfg := s.proofCfg j
  let base := vaultBase + 65536 * csrGet cfg SAFE_PF_CFG.out_base []
  let s := { s with mon := { s.mon with comparing := s.mon.comparing.filter fun c => decide (c.1 ≠ j) } }
  match s.readLoose base 9 with
  | (b, s) =>
    let wrong := decide (natOfBytes (b.take 8) ≠ j ∨ natOfBytes (b.drop 8) ≠ proofCore (csrGet cfg FE_EXP_ACTIVE.active []) j)
    match (if wrong then ([], s) else s.proofFails base 0 (csrGet cfg SAFE_PF_CFG.n_out_m1 [] + 1)) with
    | (l, s) =>
      let pass := !wrong && l.isEmpty
      let s := s.setReg SAFE_PF_RESULT.exposure [] j
      let s := s.setReg SAFE_PF_RESULT.first_fail [] (l.headD 0)
      let s := s.setReg SAFE_PF_RESULT.n_fail [] l.length
      let s := s.setReg SAFE_PF_RESULT.hdr_err [] (if wrong then 1 else 0)
      let s := s.setReg SAFE_PF_RESULT.pass [] (if pass then 1 else 0)
      let s := s.setReg SAFE_STATUS.pf_pass [] (if pass then 1 else 0)
      let s := if pass then s else s.bump SAFE_COUNT.pf_fail []
      let s := if pass && decide (s.reg SAFE_STATUS.state = 1 ∧ s.mon.restartR = some j) then s.run else s
      let s := if wrong then s.detect 0x20 0 (some j) else if pass then s else s.detect 0x21 (min l.length 255) (some j)
      s.frameUpdate

/-- PROOF_COMPARE_END (R437). -/
def execProofCompareEnd (dt : Nat) (s : State) : Ans :=
  let s := s.advance dt
  .next (match s.proofHead with
    | none => s
    | some (j, _, _) => s.proofEnd j)

/-- PROOF_COMPARE_TIMEOUT (R437): found once for a comparison. -/
def execProofCompareTimeout (dt : Nat) (s : State) : Ans :=
  let s := s.advance dt
  .next (match s.proofSlow with
    | none => s
    | some (j, t0) =>
      if elapsedUs t0 s.clk.tclk < csrGet (s.proofCfg j) SAFE_PF_CFG.cmp_max_us [] then s
      else
        let l := s.mon.comparing.map fun c => if c.1 = j then (j, some t0, true) else c
        ({ s with mon := { s.mon with comparing := l } }).detect 0x22 0 (some j))

/-! ### Protective Prints and keep-alive (R440, R441) -/

/-- PROT_PRINT_MISSING (R440). -/
def execProtPrintMissing (dt : Nat) (j : Nat) (s : State) : Ans :=
  let s := s.advance dt
  .next (match s.expRec j with
    | none => s
    | some e =>
      if e.closeNs.isSome && !e.overrun && e.checked && !e.compared && !e.missed &&
          decide (csrGet e.cfg SAFE_CHK.prot_max_us [] ≤ elapsedUs e.closeT s.clk.tclk) then
        (s.setExp j fun e => { e with missed := true }).detect 0x31 0 (some j)
      else s)

/-- KEEPALIVE_EXPIRY (Table 17-2): found once for a kick. -/
def execKeepaliveExpiry (dt : Nat) (s : State) : Ans :=
  let s := s.advance dt
  let ms := s.reg SAFE_CTRL.kick_ms
  .next (if ms = 0 ∨ s.mon.kickLate = true ∨ s.clk.tclk - s.mon.kickT < 250000 * ms then s
    else ({ s with mon := { s.mon with kickLate := true } }).detect 0x03 0 none)

/-- LOCKSTEP_MISMATCH (Table 17-2). -/
def execLockstepMismatch (dt : Nat) (s : State) : Ans := .next ((s.advance dt).detect 0x50 0 none)

/-- CLOCK_MONITOR_WINDOW (Table 17-2): `off` says that TCLK was more than 1 % off its rate over the window. -/
def execClockMonitorWindow (dt : Nat) (off : Bool) (s : State) : Ans :=
  let s := s.advance dt
  .next (if off then s.detect 0x52 0 none else s)

/-! ### SAFE_CTRL (R441, R449) -/

/-- A restart is refused (R449). -/
def State.restartRefused (s : State) : Bool :=
  decide (s.reg SAFE_STATUS.state ≠ 0) || s.mon.coldCause || !s.bit FE_EXP_CTRL.enable || !s.bit SAFE_PF_CFG.en ||
    decide (s.mon.lastT = some s.clk.tclk)

/-- A restart with the right key. -/
def State.restart (s : State) : State :=
  if s.restartRefused then s.setReg SAFE_STATUS.restart_err [] 1
  else
    let s := ((s.setReg SAFE_STATUS.state [] 1).setReg SAFE_STATUS.cause [] 0).setReg SAFE_STATUS.detail [] 0
    let s := s.setReg SAFE_STATUS.more [] 0
    ({ s with mon := { s.mon with restartT := some s.clk.tclk, restartR := none } }).frameUpdate

/-- A write of SAFE_CTRL: kick and kick_ms, force, restart. A new interval starts with a kick or a new kick_ms. -/
def State.safeCtrl (s : State) (w : Wr) (idx : List Nat) : State :=
  let old := s.reg SAFE_CTRL.kick_ms
  let s := plainWrite s w idx
  let s := if w.sets SAFE_CTRL.kick || decide (s.reg SAFE_CTRL.kick_ms ≠ old) then
      { s with mon := { s.mon with kickT := s.clk.tclk, kickLate := false } } else s
  let s := if w.sets SAFE_CTRL.force then s.detect 0x02 0 none else s
  if w.sets SAFE_CTRL.restart then s.restart else s

/-- A write of SAFE_CTRL; one with restart and another key than the restart key is ignored and sets key_err (R449). -/
def onSafeCtrl (s : State) (w : Wr) (idx : List Nat) : State :=
  if w.sets SAFE_CTRL.restart ∧ w.get SAFE_CTRL.key ≠ 0xA55A then s.setReg SAFE_STATUS.key_err [] 1
  else s.safeCtrl w idx

/-- SAFE_RESTART (R449). -/
def execSafeRestart (a : Agent) (v : BitVec 32) (s : State) : Ans :=
  .next (s.writeNamed a .SAFE_CTRL [] .whole v.toNat onSafeCtrl)

/-- SAFE_FORCE (Table 17-2). -/
def execSafeForce (a : Agent) (v : BitVec 32) (s : State) : Ans :=
  .next (s.writeNamed a .SAFE_CTRL [] .whole v.toNat onSafeCtrl)

/-- SAFE_KICK (Table 17-6). -/
def execSafeKick (a : Agent) (v : BitVec 32) (s : State) : Ans :=
  .next (s.writeNamed a .SAFE_CTRL [] .whole v.toNat onSafeCtrl)

/-- A write of SAFE_PF_TAB (R393, R435): before boot lock. -/
def onPfTab (s : State) (w : Wr) (idx : List Nat) : State :=
  let t := plainWrite s w idx
  if s.locked || !w.has SAFE_PF_TAB.entry then t
  else { t with mon := { t.mon with tabSeen := insertNat (idx.headD 0) t.mon.tabSeen } }

/-! ### Frame and pins (R444, R446) -/

/-- FRAME_UPDATE_TIMER. -/
def execFrameUpdateTimer (dt : Nat) (s : State) : Ans := .next (s.advance dt).frameUpdate

/-- SAFE_CS_FALL: the frame is latched and shifted out. -/
def execSafeCsFall (dt : Nat) (s : State) : Ans :=
  let s := s.advance dt
  let f := bytesOf 32 (s.reg SAFE_FRAME.frame)
  .next (if s.fullOn then (({ s with mon := { s.mon with shifted := f } }).bump SAFE_COUNT.frames []).emit (.spi f) else s)

/-- SAFEB_TOGGLE: in the running state, 125,000 TCLK after its last edge. -/
def execSafebToggle (dt : Nat) (s : State) : Ans :=
  let s := s.advance dt
  .next (if s.reg SAFE_STATUS.state = 2 ∧ 125000 ≤ s.clk.tclk - s.mon.safebT then
      { s with mon := { s.mon with safeb := !s.mon.safeb, safebT := s.clk.tclk } }
    else s)

/-! ### Self-test (R450, R451) -/

/-- Set or clear a core's bit in a 32-bit field. -/
def State.coreBit (s : State) (f : Fld) (n : CoreId) (on : Bool) : State :=
  let v := s.reg f
  let b := 2 ^ n.val
  s.setReg f [] (if on then (if bitOf v n.val then v else v + b) else if bitOf v n.val then v - b else v)

/-- A write of SAFE_STEST: a request is pending, or at once out while exposures are idle; a release of a held core that has not failed
waits for the next boundary. -/
def onStest (s : State) (w : Wr) (idx : List Nat) : State :=
  let s := plainWrite s w idx
  let n : CoreId := Fin.ofNat 32 (s.reg SAFE_STEST.core)
  let s :=
    if w.sets SAFE_STEST.start then
      if s.idle then s.coreBit SAFE_STEST_STATUS.out n true else s.coreBit SAFE_STEST_STATUS.pending n true
    else s
  if w.sets SAFE_STEST.release && bitOf (s.reg SAFE_STEST_RESULT.held) n.val then
    { s with mon := { s.mon with release := s.mon.release ||| (1#32 <<< n.val) } }
  else s

/-- SELF_TEST_REQUEST (R450). -/
def execSelfTestRequest (a : Agent) (v : BitVec 32) (s : State) : Ans :=
  .next (s.writeNamed a .SAFE_STEST [] .whole v.toNat onStest)

/-- SELF_TEST_RELEASE (R451). -/
def execSelfTestRelease (a : Agent) (v : BitVec 32) (s : State) : Ans :=
  .next (s.writeNamed a .SAFE_STEST [] .whole v.toNat onStest)

/-- SELF_TEST_START (R450): the core is out, not yet tested, and quiet; its contexts are swapped out. -/
def execSelfTestStart (dt : Nat) (n : CoreId) (s : State) : Ans :=
  let s := s.advance dt
  let res := s.cores[n].slots.toList.filterMap id
  .next (if s.coreOut n && !s.mon.testing.getLsbD n.val && !bitOf (s.reg SAFE_STEST_RESULT.held) n.val &&
      !bitOf (s.reg SAFE_STEST_RESULT.failed) n.val && !res.any s.busyCtx then
      let s := (List.finRange 4).foldl (fun s k => s.swapOut n k) s
      { s with mon := { s.mon with testing := s.mon.testing ||| (1#32 <<< n.val), testT := s.mon.testT.set n s.clk.tclk } }
    else s)

/-- Every SRAM line of a core is unwritten and reads zero; every window of the core is closed (R451). -/
def State.clearCore (s : State) (n : CoreId) : State :=
  let a := spmBase + n.val * 0x400000
  let out (b : Nat) : Bool := decide (b < a ∨ a + 0x400000 ≤ b)
  let s := s.closeWindows n fun _ => true
  let s := s.notClean a 0x400000
  let s := s.sramFresh fun k => match k with
    | .acc m _ => decide (m = n)
    | .stage m _ => decide (m = n)
    | .icache m _ => decide (m = n)
    | _ => false
  let s := { s with
    mem := s.mem.filter fun e => out e.1
    haze := hazeClear a 0x400000 s.haze
    poison := s.poison.filter fun w => out (32 * w)
    flips := s.flips.filter fun e => out (32 * e.1)
    written := s.written.filter fun w => out (32 * w) }
  s.setCore n fun k => { k with
    gather := [], acc := [], accBad := [], cellBad := false, staging := Vector.replicate 32 0, prep := [], lists := Vector.replicate 4 none }

/-- SELF_TEST_END (R451): 12 ms after its start. -/
def execSelfTestEnd (dt : Nat) (n : CoreId) (pass : Bool) (s : State) : Ans :=
  let s := s.advance dt
  .next (if s.mon.testing.getLsbD n.val && decide (3000000 ≤ s.clk.tclk - s.mon.testT[n]) then
      let s := { s with mon := { s.mon with testing := s.mon.testing &&& ~~~(1#32 <<< n.val) } }
      let s := s.clearCore n
      if pass then s.coreBit SAFE_STEST_RESULT.held n true
      else (s.coreBit SAFE_STEST_RESULT.failed n true).detect 0x43 n.val none
    else s)

end Sys2Proof.Machine
end

