-- ==== Sys2Proof/Machine/Reset.lean ====
section
/-! DEFINITION. Machine/Reset.lean: the resets of R455 and what each leaves (R454, R484, R485), core gating, device sleep (R456 to R458,
R495), the supplies (R493, R494). -/
namespace Sys2Proof.Machine
open Reg

/-! ### Cold reset and power-on reset -/

/-- Registers loaded from OTP (R16, R471, R472). -/
def State.loadFuses (s : State) : State :=
  let o := s.otp
  let s := (s.setReg HOST_PCI_ID.vendor_id [] o.vendor.toNat).setReg DEV_ID.grade [] o.grade.toNat
  let s := (s.setReg SEC_LOCK.jtag_open [] (if o.jtag then 1 else 0)).setReg SEC_ROLLBACK.count [] o.count
  (List.finRange 4).foldl (fun s k =>
    (s.setReg SEC_KEY.programmed [k.val] (if o.keys.getLsbD k.val then 1 else 0)).setReg SEC_KEY.revoked [k.val]
      (if o.revoked.getLsbD k.val then 1 else 0)) s

/-- The fields marked retained (R484, Table 19-4), with their instances. -/
def retainedFields : List (Fld × List Nat) :=
  [(BOOT_STATUS.start_count, []), (BOOT_CTRL.next_slot, []), (BOOT_RESUME.entry, []), (BOOT_RESUME.pages, []), (BOOT_RESUME.base, [])] ++
    (List.range 8).map fun k => (BOOT_RETAIN.data, [k])

/-- The machine in reset: everything as reset leaves it but OTP, BOOTSEL as sampled, what has left the device, the model's own counters
and the queue. `held` says that the reset is held, `cause` is its reset_cause. -/
def State.inReset (s : State) (held : Bool) (cause : Nat) : State :=
  let t : State := { State.reset with
    otp := s.otp, out := s.out, free := s.free, stamp := s.stamp, pending := s.pending
    boot := { Boot.fresh with phase := if held then .held else .rom, sel := s.boot.sel }
    pwr := { Pwr.fresh with pads := s.pwr.pads } }
  t.loadFuses.setReg BOOT_STATUS.reset_cause [] cause

/-- COLD RESET (R455): every register but the retained ones. -/
def State.coldReset (s : State) (held : Bool) (cause : Nat) : State :=
  retainedFields.foldl (fun t e => t.setReg e.1 e.2 (s.reg e.1 e.2)) (s.inReset held cause)

/-- POWER_ON_RESET (R455, R493): the Safelight supply becomes valid; RST_N is low until it rises. -/
def execPowerOnReset (s : State) : Ans :=
  let s : State := { s with pwr := { s.pwr with pads := true } }
  .next (s.inReset true 0)

/-- RST_N_FALL (R455): the cold reset is held; a power-on reset that is still held goes on, and so does thermal shutdown (R461). -/
def execRstNFall (dt : Nat) (s : State) : Ans :=
  let s := s.advance dt
  .next (if s.boot.phase = .held ∧ !s.pwr.hot then s
    else
      let t := s.coldReset true 1
      { t with pwr := { t.pwr with hot := s.pwr.hot } })

/-- RST_N_RISE (R464, R493): the reset ends, unless thermal shutdown holds it (R461); `sel` is BOOTSEL as it is sampled then. -/
def execRstNRise (sel : Fin 4) (s : State) : Ans :=
  .next (if s.boot.phase ≠ .held then s
    else if s.pwr.hot then ({ s with boot := { s.boot with sel := sel.val } }).setReg BOOT_STATUS.reset_cause [] 4
    else { s with boot := { s.boot with phase := .rom, sel := sel.val } })

/-- POWER_DOWN (R494): the supplies leave their ranges; what the part held is gone, and the pins stay low while VDDIO_SL is valid. -/
def execPowerDown (vddio : Bool) (s : State) : Ans :=
  let s : State := { s with pwr := { s.pwr with pads := vddio } }
  .next (s.inReset true 0)

/-- A write of BOOT_CTRL (R455, R468): sw_reset with the key resets; done acts once boot lock is set. -/
def onBootCtrl (s : State) (w : Wr) (idx : List Nat) : State :=
  let s := plainWrite s w idx
  if w.sets BOOT_CTRL.sw_reset && decide (w.get BOOT_CTRL.key = 0xC33C) then s.coldReset false 3
  else if w.sets BOOT_CTRL.done && s.locked then
    let s := (s.setReg BOOT_STATUS.start_count [] 0).setReg BOOT_STATUS.done [] 1
    { s with boot := { s.boot with armed := false } }
  else s

/-- SOFTWARE_RESET (R455): a write of BOOT_CTRL with sw_reset 1. -/
def execSoftwareReset (a : Agent) (h : Half) (v : W64) (s : State) : Ans :=
  .next (s.writeNamed a .BOOT_CTRL [] h (withBit h 62 v).toNat onBootCtrl)

/-- BOOT_DONE (R468): a write of BOOT_CTRL with done 1. -/
def execBootDone (a : Agent) (h : Half) (v : W64) (s : State) : Ans :=
  .next (s.writeNamed a .BOOT_CTRL [] h (withBit h 63 v).toNat onBootCtrl)

/-- START_WATCHDOG_EXPIRY (R468): 10 s of ROM entry without done, not counting the wait for a push. -/
def execStartWatchdogExpiry (dt : Nat) (s : State) : Ans :=
  let s := s.advance dt
  .next (if s.boot.armed && decide (s.boot.phase ≠ .push ∧ 2500000000 ≤ s.boot.spent + (s.clk.tclk - s.boot.armT)) then
      s.coldReset false 2
    else s)

/-! ### Registers of a domain -/

/-- Registers in a range of CSR offsets hold their reset values. -/
def State.clearRegs (s : State) (lo hi : Nat) : State :=
  { s with csr := s.csr.filter fun e => !decide (8 * lo ≤ e.1 ∧ e.1 < 8 * hi) }

/-- The base of a core's block (Table 19-2). -/
def coreBlock (n : CoreId) : Nat := 0x1000000 + n.val * 0x100000

/-! ### Core gating (R456) -/

/-- A set gate bit is ignored for the core (R456). -/
def State.gateRefused (s : State) (n : CoreId) : Bool :=
  bitOf (s.reg FE_EXP_CORE_MASK.core_en) n.val || s.coreOut n || s.mon.testing.getLsbD n.val ||
    (List.finRange 256).any fun c => s.bit SO_CTX_CFG.en [c.val] && decide (s.coreOf c = n)

/-- The core powers down: its registers, memories and units are as power-up leaves them. -/
def State.powerCore (s : State) (n : CoreId) : State :=
  let s := (List.finRange 4).foldl (fun s k => s.unseat n k) s
  let s := s.clearCore n
  let s : State := { s with cores := s.cores.set n Core.fresh }
  s.clearRegs (coreBlock n) (coreBlock n + 0x100000)

/-- One core's gate bit as written. -/
def State.gateCore (s : State) (n : CoreId) (on : Bool) : State :=
  let was := bitOf (s.reg PWR_CORE_GATE.gate) n.val
  if on = was then s
  else if on then
    if s.gateRefused n then s.setReg PWR_STATUS.gate_err [] 1
    else
      let s := ((s.powerCore n).coreBit PWR_CORE_GATE.gate n true).coreBit PWR_CORE_GATE.ready n false
      { s with pwr := { s.pwr with rising := s.pwr.rising &&& ~~~(1#32 <<< n.val) } }
  else
    let s := s.coreBit PWR_CORE_GATE.gate n false
    { s with pwr := { s.pwr with rising := s.pwr.rising ||| (1#32 <<< n.val) } }

/-- A write of PWR_CORE_GATE. -/
def onCoreGate (s : State) (w : Wr) (idx : List Nat) : State :=
  let s := plainBut [PWR_CORE_GATE.gate] s w idx
  if w.has PWR_CORE_GATE.gate then
    (List.finRange 32).foldl (fun s n => s.gateCore n (bitOf (w.get PWR_CORE_GATE.gate) n.val)) s
  else s

/-- CORE_GATE_WRITE (R456). -/
def execCoreGateWrite (a : Agent) (h : Half) (v : W64) (s : State) : Ans :=
  .next (s.writeNamed a .PWR_CORE_GATE [] h v.toNat onCoreGate)

/-- CORE_READY (R456). -/
def execCoreReady (dt : Nat) (n : CoreId) (s : State) : Ans :=
  let s := s.advance dt
  .next (if s.awake && !s.minimal && !bitOf (s.reg PWR_CORE_GATE.gate) n.val then
      let s := s.coreBit PWR_CORE_GATE.ready n true
      { s with pwr := { s.pwr with rising := s.pwr.rising &&& ~~~(1#32 <<< n.val) } }
    else s)

/-! ### Device sleep (R457, R458, R495) -/

/-- A sleep write is accepted (R457). -/
def State.maySleep (s : State) : Bool :=
  !s.bit FE_EXP_CTRL.enable && s.idle && decide (s.reg SAFE_STATUS.state = 0) &&
    (List.range 32).all fun k => (s.chan none k).isNone

/-- A write of PWR_SLEEP: entry begins with the links going down. -/
def onSleep (s : State) (w : Wr) (idx : List Nat) : State :=
  let s := plainWrite s w idx
  if w.sets PWR_SLEEP.sleep then
    if s.pwr.entryT.isSome then s
    else if s.maySleep then
      let s := (s.portDown 0).portDown 1
      { s with pwr := { s.pwr with entryT := some s.clk.tclk } }
    else s.setReg PWR_SLEEP.sleep_err [] 1
  else s

/-- SLEEP_REQUEST (R457): a write of PWR_SLEEP with sleep 1. -/
def execSleepRequest (a : Agent) (h : Half) (v : W64) (s : State) : Ans :=
  .next (s.writeNamed a .PWR_SLEEP [] h (withBit h 63 v).toNat onSleep)

/-- A field keeps its value in device sleep: those of the Safelight domain, retained ones, remap entries, RWL fields with boot lock (R484,
R485), the DRAM configuration in force, and the slot of the running image, which a resume starts again. -/
def keptField (r : RegRow) (f : Fld) : Bool :=
  decide (r.cls = .safelight ∨ r.cls = .retained ∨ r.cls = .remap ∨ f.acc = .rwl ∨ f = SEC_LOCK.locked ∨ f = SEC_KEY.in_use ∨ r.name = .MEM_CFG)

/-- A listed register field keeps its value in device sleep. -/
def keptKey (k : Nat) : Bool :=
  match locateReg regRows (k / 8) with
  | none => false
  | some (r, idx, _) => r.fields.any fun f => decide (f.key idx = k) && keptField r f

/-- The digest of the resume region (R457, R467). -/
def State.resumeDigest (s : State) : BitVec 512 :=
  digestOf (s.readBytes (4096 * s.reg BOOT_RESUME.base) (4096 * s.reg BOOT_RESUME.pages))

/-- Every entry of the merge buffers of DRAM channels is written back (R457). -/
def State.flushDram (s : State) : State :=
  (List.finRange 16).foldl (fun s c => s.flushBuf (.chan c) fun _ => true) s

/-- The domains other than Safelight are off: their registers and SRAM are gone; DRAM keeps its contents in self-refresh. -/
def State.domainsOff (s : State) : State :=
  let lim := s.dataBytes
  let t := State.reset
  { t with
    csr := s.csr.filter fun e => keptKey e.1
    mem := s.mem.filter fun e => decide (e.1 < lim)
    haze := s.haze.filter fun e => decide (e.1 < lim)
    poison := s.poison.filter fun w => decide (32 * w < lim)
    flips := s.flips.filter fun e => decide (32 * e.1 < lim)
    parity := s.parity
    valid := s.valid
    clean := s.clean.filter fun e => decide (e.1 < lim)
    clk := s.clk, otp := s.otp, out := s.out, free := s.free, stamp := s.stamp, pending := s.pending
    mon := { t.mon with tabSeen := s.mon.tabSeen, coldCause := s.mon.coldCause }
    boot := { s.boot with pubkey := [], report := [], mdata := Vector.replicate 8 0 }
    pwr := { Pwr.fresh with wake := s.pwr.wake, pads := s.pwr.pads, main := false, offT := s.clk.tclk }
    asleep := true }

/-- SLEEP_ENTRY_COMPLETE (R457): the digest of the resume region, the write-backs, the domains off, PWREN_MAIN low. -/
def execSleepEntryComplete (dt : Nat) (s : State) : Ans :=
  let s := s.advance dt
  .next (if s.pwr.entryT.isSome && !s.asleep then
      let s : State := { s with boot := { s.boot with
        resume := if s.reg BOOT_RESUME.pages = 0 then none else some s.resumeDigest } }
      s.flushDram.domainsOff.loadFuses
    else s)

/-- The alarm time, in ns (Table 18-11). -/
def State.alarm (s : State) : Nat := s.reg PWR_ALARM.sec * 1000000000 + s.reg PWR_ALARM.ns

/-- WAKE_EVENT (R458, R495): the first enabled event starts the wake, which waits for the end of entry and of the 2 ms. -/
def execWakeEvent (dt : Nat) (e : Fin 3) (s : State) : Ans :=
  let s := s.advance dt
  .next (if (s.asleep || s.pwr.entryT.isSome) && s.pwr.wake.isNone && bitOf (s.reg PWR_SLEEP.wake_en) e.val &&
      (decide (e.val ≠ 1) || decide (s.alarm ≤ s.now)) then
      { s with pwr := { s.pwr with wake := some e.val } }
    else s)

end Sys2Proof.Machine
end

