-- ==== Sys2Proof/Machine/Boot.lean ====
section
/-! DEFINITION. Machine/Boot.lean: start-up, verification of images, minimal mode, resume from device sleep, OTP, measurements and
attestation (R458, R464 to R475). ML-DSA-87 is a function of Config (assumption 52, DESIGN CHOICE). -/
namespace Sys2Proof.Machine
open Reg

/-! ### Identity (R473) -/

/-- The seed of the identity key pair: bytes 0 to 31 of SHA3-512 over "olw-id", the OTP seed and DEV_ID. -/
def State.xi (s : State) : BitVec 256 :=
  let tag : List Byte := [0x6F, 0x6C, 0x77, 0x2D, 0x69, 0x64]
  BitVec.ofNat 256 (natOfBytes ((sha3 (tag ++ bytesOf 32 s.otp.seed.toNat ++ bytesOf 4 (s.regBits .DEV_ID []))).take 32))

/-- The identity key pair is derived. -/
def State.deriveKey (s : State) : State :=
  { s with boot := { s.boot with pubkey := bytesOf 2592 (Config.mldsaKey s.xi).toNat } }

/-! ### Images (R470, Table 18-3) -/

/-- Bytes of an image. -/
def part (img : List Byte) (off n : Nat) : List Byte := (img.drop off).take n

/-- The little-endian value of bytes of an image. -/
def partNat (img : List Byte) (off n : Nat) : Nat := natOfBytes (part img off n)

/-- An entry of the section table: body offset, load address, length, flags. -/
structure Section where
  off   : Nat
  load  : Nat
  len   : Nat
  flags : Nat
  deriving DecidableEq, Repr

/-- The sections of an image. -/
def sectionsOf (img : List Byte) : List Section :=
  (List.range (min 16 (partNat img 32 4))).map fun k =>
    let a := 64 + 24 * k
    ⟨partNat img a 8, partNat img (a + 8) 8, partNat img (a + 16) 4, partNat img (a + 20) 4⟩

/-- The body of an image. -/
def bodyOf (img : List Byte) : List Byte := part img 8192 (partNat img 16 8 - 8192)

/-- A section's bytes. -/
def sectionBytes (img : List Byte) (x : Section) : List Byte := part (bodyOf img) x.off x.len

/-- Image type: 1 recovery. -/
def isRecovery (img : List Byte) : Bool := decide (partNat img 6 1 = 1)

/-- Step 1: magic and lengths. -/
def imageShape (img : List Byte) : Bool :=
  let n := partNat img 16 8
  decide (partNat img 0 4 = 0x4D495859 ∧ partNat img 4 2 = 1 ∧ partNat img 6 1 ≤ 1 ∧ 8192 ≤ n ∧ n ≤ 0x1000000 ∧ n ≤ img.length ∧
      1 ≤ partNat img 32 4 ∧ partNat img 32 4 ≤ 16) &&
    (sectionsOf img).all fun x => decide (x.off + x.len ≤ n - 8192)

/-- Step 2: the key slot is programmed and not revoked. -/
def State.slotGood (s : State) (k : Nat) : Bool :=
  decide (k < 4) && s.otp.keys.getLsbD k && !s.otp.revoked.getLsbD k

/-- mem_cfg names a configuration that R379 allows: its capacity in GiB. -/
def memCfgOf (m : Nat) : Option Nat :=
  if bitOf m 31 && decide (m % 2 ^ 31 / 128 = 0 ∧ m % 8 ≤ 4 ∧ m / 8 % 2 = 0) then capacity (m / 64 % 2) (m / 16 % 4) else none

/-- The section lies in DRAM addresses. -/
def Section.inDram (x : Section) : Bool := decide (x.load < vaultBase)

/-- Step 5 for one section. -/
def Section.allowed (x : Section) (push : Bool) (cap : Option Nat) : Bool :=
  let hi := x.load + x.len
  decide (tcmBase ≤ x.load ∧ hi ≤ tcmBase + 0x40000) ||
    decide (vaultBase + (if push then 0x1000000 else 0) ≤ x.load ∧ hi ≤ vaultBase + 0x4000000) ||
    (match cap with
      | some c => decide (hi ≤ 7 * c * 2 ^ 30 / 8)
      | none => false)

/-- Steps 1 to 6: the fail_detail of the first that fails, 0 where none does. -/
def State.imageCheck (s : State) (img : List Byte) (push : Bool) : Nat :=
  let k := partNat img 7 1
  let m := partNat img 36 4
  let cap := memCfgOf m
  let tag : List Byte := [0x6F, 0x6C, 0x77, 0x2D, 0x69, 0x6D, 0x67]
  if !imageShape img then 1
  else if !s.slotGood k then 2
  else if digestOf (part img 512 2592) ≠ s.otp.digests[Fin.ofNat 4 k] then 3
  else if partNat img 8 1 < s.otp.count then 4
  else if (bitOf m 31 && cap.isNone) || !(sectionsOf img).all (fun x => x.allowed push cap) then 5
  else if !Config.mldsaVerify (part img 512 2592) tag (part img 0 512) (part img 3104 4627) then 6
  else 0

/-- Step 7: MEM_CFG is programmed and the channels `trains` train, unless they are trained so already. -/
def State.imageMem (s : State) (img : List Byte) (trains : BitVec 16) : Bool × State :=
  let m := partNat img 36 4
  if (sectionsOf img).any Section.inDram then
    if s.trained && decide (s.reg MEM_CFG.ranks = m / 64 % 2 ∧ s.reg MEM_CFG.density = m / 16 % 4 ∧ s.reg MEM_CFG.rate = m % 8) then
      (true, s)
    else
      let s := ((s.setReg MEM_CFG.ranks [] (m / 64 % 2)).setReg MEM_CFG.density [] (m / 16 % 4)).setReg MEM_CFG.rate [] (m % 8)
      let s := (s.setReg MEM_CFG.installed_gib [] ((memCfgOf m).getD 0)).setReg MEM_CFG.trained [] trains.toNat
      (s.trained, s)
  else (true, s)

/-- An image is verified and its sections are loaded (R470): fail_detail, 0 where it may run. -/
def State.verify (s : State) (img : List Byte) (push : Bool) (trains : BitVec 16) : Nat × State :=
  match s.imageCheck img push with
  | 0 =>
    match s.imageMem img trains with
    | (false, s) => (9, s)
    | (true, s) =>
      let s := (sectionsOf img).foldl (fun s x => s.writeBytes x.load (sectionBytes img x)) s
      if sha3 (bodyOf img) = part img 448 64 then (0, s) else (7, s)
  | k + 1 => (k + 1, s)

/-- The measurements of a verified image (R474): its header, each section, the proof package; at most 16. -/
def measuresOf (img : List Byte) : List (Nat × Nat × BitVec 512) :=
  let l := sectionsOf img
  let entry (type : Nat) (x : Section) : Nat × Nat × BitVec 512 := (type, x.len, digestOf (sectionBytes img x))
  ((1, 8192, digestOf (part img 0 8192)) :: l.map (entry 2) ++ (l.filter fun x => x.flags % 2 = 1).map (entry 3)).take 16

/-- The ROM jumps to the entry of a verified image: its reason and slot (R470, Table 18-12). -/
def State.startImage (s : State) (img : List Byte) (reason slot : Nat) : State :=
  let s := (s.setReg BOOT_STATUS.reason [] reason).setReg BOOT_STATUS.slot [] slot
  let s := s.setReg BOOT_STATUS.svn [] (partNat img 8 1)
  let s := (List.range 4).foldl (fun s k => s.setReg SEC_KEY.in_use [k] (if k = partNat img 7 1 then 1 else 0)) s
  { s with boot := { s.boot with phase := .image (partNat img 24 8), meas := measuresOf img, resumed := false } }

/-- A refusal records its cause. -/
def State.refuseImage (s : State) (detail : Nat) : State := s.setReg BOOT_STATUS.fail_detail [] detail

/-! ### Start-up (R464 to R466, R469) -/

/-- The domains CORE, FE and SAFE are off in minimal mode: their registers hold reset values, SAFEA_N and SAFEB are low (R469, R484). -/
def State.goMinimal (s : State) (reason : Nat) : State :=
  let s := ((s.setReg BOOT_STATUS.minimal [] 1).setReg BOOT_STATUS.reason [] reason).setReg PWR_CORE_GATE.ready [] 0
  let s := (List.finRange 32).foldl (fun s n => s.powerCore n) s
  let s := ((s.clearRegs 0x400000 0x500000).clearRegs 0x600000 0x680000).clearRegs 0x700000 0x800000
  { s with mon := { Monitor.fresh with tabSeen := s.mon.tabSeen }, exps := [], fe := Front.fresh, inbox := [] }

/-- Minimal mode: the recovery image runs, or the ROM serves only mailbox and MCTP. -/
def State.runRecovery (s : State) (reason : Nat) (img : Option (List Byte)) (trains : BitVec 16) : State :=
  let s := s.goMinimal reason
  let stay (s : State) (d : Nat) : State :=
    let s := (s.refuseImage d).setReg BOOT_STATUS.reason [] 0x0204
    { s with boot := { s.boot with phase := .romOnly } }
  match img with
  | none => stay s 8
  | some b =>
    match s.verify b false trains with
    | (0, s) => s.startImage b reason 2
    | (d + 1, s) => stay s (d + 1)

/-- One flash slot is tried: whether it verifies. -/
def State.trySlot (s : State) (img : Option (List Byte)) (trains : BitVec 16) : Bool × State :=
  match img with
  | none => (false, s.refuseImage 8)
  | some b =>
    match s.verify b false trains with
    | (0, s) => (true, s)
    | (d + 1, s) => (false, s.refuseImage (d + 1))

/-- The ROM waits for a pushed image; meanwhile the start watchdog does not count (R466, R468). -/
def State.waitPush (s : State) : State :=
  { s with boot := { s.boot with phase := .push, spent := s.boot.spent + (s.clk.tclk - s.boot.armT) } }

/-- R465: the slots in their order; where neither verifies, a push or minimal mode. -/
def State.tryFlash (s : State) (imgA imgB rec : Option (List Byte)) (trains : BitVec 16) (orPush : Bool) : State :=
  let second := decide (s.reg BOOT_STATUS.start_count = 2)
  let first := if second then 1 - s.reg BOOT_CTRL.next_slot else s.reg BOOT_CTRL.next_slot
  let pick (k : Nat) : Option (List Byte) := if k = 0 then imgA else imgB
  match s.trySlot (pick first) trains with
  | (true, s) => s.startImage ((pick first).getD []) (if second then 0x0101 else first) first
  | (false, s) =>
    match s.trySlot (pick (1 - first)) trains with
    | (true, s) => s.startImage ((pick (1 - first)).getD []) 0x0102 (1 - first)
    | (false, s) => if orPush then s.waitPush else s.runRecovery 0x0202 rec trains

/-- The key slots that read in_use. -/
def State.setInUse (s : State) (l : List Nat) : State :=
  (List.range 4).foldl (fun s k => s.setReg SEC_KEY.in_use [k] (if l.contains k then 1 else 0)) s

/-- The slots that read in_use. -/
def State.inUse (s : State) : List Nat := (List.range 4).filter fun k => s.bit SEC_KEY.in_use [k]

/-- Steps 1 and 2 of R464: the start is counted, the watchdog armed, the key pair derived; the ROM rewrites BOOT_STATUS. -/
def State.romEntry (s : State) : State :=
  let s := s.setReg BOOT_STATUS.start_count [] (min 15 (s.reg BOOT_STATUS.start_count + 1))
  let s := ([BOOT_STATUS.reason, BOOT_STATUS.fail_detail, BOOT_STATUS.svn, BOOT_STATUS.slot, BOOT_STATUS.minimal,
    BOOT_STATUS.done]).foldl (fun s f => s.setReg f [] 0) s
  let s := s.setInUse []
  let s : State := { s with boot := { s.boot with armed := true, armT := s.clk.tclk, spent := 0 } }
  s.deriveKey

/-- Steps 3 and 4 of R464. -/
def State.romSelect (s : State) (imgA imgB rec : Option (List Byte)) (trains : BitVec 16) : State :=
  if 3 ≤ s.reg BOOT_STATUS.start_count then s.runRecovery 0x0201 rec trains
  else if s.boot.sel = 1 then s.waitPush
  else s.tryFlash imgA imgB rec trains (decide (s.boot.sel = 2))

/-- BOOT_ROM_ENTRY (R464): the ROM runs, with the images as it reads them from flash (none: a read error or no flash) and the DRAM
channels that train. -/
def execBootRomEntry (dt : Nat) (imgA imgB rec : Option (List Byte)) (trains : BitVec 16) (s : State) : Ans :=
  let s := s.advance dt
  .next (if s.boot.phase = .rom ∧ !s.asleep then
      (if s.boot.resumed then s else s.romEntry).romSelect imgA imgB rec trains
    else s)

/-- WAKE_COMPLETE (R458, R467): the domains are up, the saved entries restored, and the ROM resumes where the digest matches; else a
full start from step 4 of R464 follows. -/
def execWakeComplete (dt : Nat) (s : State) : Ans :=
  let s := s.advance dt
  .next (match s.pwr.wake with
    | none => s
    | some e =>
      if s.asleep && decide (s.pwr.offT + 500000 ≤ s.clk.tclk) then
        let svn := s.reg BOOT_STATUS.svn
        let slot := s.reg BOOT_STATUS.slot
        let keys := s.inUse
        let s := (s.setReg PWR_SLEEP.last_wake [] e).setReg BOOT_STATUS.reset_cause [] 5
        let s : State := { s with asleep := false, pwr := { s.pwr with wake := none, main := true } }
        let s := s.romEntry
        let s : State := { s with boot := { s.boot with phase := .rom, resumed := true } }
        if s.reg BOOT_RESUME.pages = 0 ∨ 3 ≤ s.reg BOOT_STATUS.start_count then s
        else if s.boot.resume = some s.resumeDigest then
          let s := ((s.setReg BOOT_STATUS.reason [] 2).setReg BOOT_STATUS.svn [] svn).setReg BOOT_STATUS.slot [] slot
          let s := s.setInUse keys
          { s with boot := { s.boot with phase := .image (s.reg BOOT_RESUME.entry), resumed := false } }
        else s.setReg BOOT_STATUS.reason [] 0x0301
      else s)

/-! ### A pushed image (R466) -/

/-- The image in the push buffer. -/
def State.pushed (s : State) : List Byte :=
  let n := s.readNat (vaultBase + 16) 8
  s.readBytes vaultBase (if 8192 ≤ n ∧ n ≤ 0x1000000 then n else 8192)

/-- The end of a push: the image is verified and started, or refused with cc 2. In minimal mode a main image is refused, since that mode
ends only by a cold reset (R469). -/
def State.endPush (s : State) (trains : BitVec 16) : Nat × State :=
  let img := s.pushed
  if s.minimal && imageShape img && !isRecovery img then (2, s)
  else
    match s.verify img true trains with
    | (d + 1, s) => (2, s.refuseImage (d + 1))
    | (0, s) =>
      let s : State := if s.boot.phase = .push then { s with boot := { s.boot with armT := s.clk.tclk } } else s
      let s := if isRecovery img && !s.minimal then s.goMinimal (s.reg BOOT_STATUS.reason) else s
      (0, s.startImage img (if isRecovery img then s.reg BOOT_STATUS.reason else 3) 3)

/-- A push is accepted: in minimal mode and while the ROM waits for one (R429). -/
def State.mayPush (s : State) : Bool := s.minimal || decide (s.boot.phase = .push)

/-- PUSH_IMAGE (R466). -/
def execPushImage (dt : Nat) (trains : BitVec 16) (s : State) : Ans :=
  let s := s.advance dt
  .next (s.olwRow 5 fun s _ d =>
    let off := natOfBytes (d.take 4)
    let bs := d.drop 4
    if !s.mayPush then ((4, []), s)
    else if d.length < 4 then ((3, []), s)
    else if bs = [] then
      match s.endPush trains with
      | (cc, s) => ((cc, []), s)
    else if 0x1000000 < off + bs.length then ((2, []), s)
    else ((0, []), s.writeBytes (vaultBase + off) bs))

/-! ### Boot lock, OTP, measurements (R471, R472, R474) -/

/-- An OTP or measurement write is refused. -/
def State.otpErr (s : State) : State := s.setReg SEC_LOCK.otp_err [] 1

/-- A write of SEC_LOCK. -/
def onSecLock (s : State) (w : Wr) (idx : List Nat) : State :=
  let s := plainWrite s w idx
  if w.sets SEC_LOCK.lock then s.setReg SEC_LOCK.locked [] 1 else s

/-- BOOT_LOCK (R472): a write of SEC_LOCK with lock 1. -/
def execBootLock (a : Agent) (v : BitVec 32) (s : State) : Ans :=
  .next (s.writeNamed a .SEC_LOCK [] .whole (v ||| 0x80000000).toNat onSecLock)

/-- A write of SEC_ROLLBACK (R471). -/
def onRollback (s : State) (w : Wr) (idx : List Nat) : State :=
  let s := plainWrite s w idx
  if w.sets SEC_ROLLBACK.advance then
    let t := s.reg SEC_ROLLBACK.target
    if s.locked ∨ s.reg BOOT_STATUS.svn < t ∨ t ≤ s.otp.count ∨ 64 < t then s.otpErr
    else
      let s : State := { s with otp := { s.otp with count := t } }
      s.setReg SEC_ROLLBACK.count [] t
  else s

/-- ROLLBACK_ADVANCE (R471): a write of SEC_ROLLBACK with advance 1. -/
def execRollbackAdvance (a : Agent) (h : Half) (v : W64) (s : State) : Ans :=
  .next (s.writeNamed a .SEC_ROLLBACK [] h (withBit h 63 v).toNat onRollback)

/-- A write of SEC_KEY (R472). -/
def onSecKey (s : State) (w : Wr) (idx : List Nat) : State :=
  let s := plainWrite s w idx
  let k := idx.headD 0
  if w.sets SEC_KEY.revoke then
    let left := (List.range 4).any fun j => decide (j ≠ k) && s.slotGood j
    if s.locked || s.bit SEC_KEY.in_use [k] || !left then s.otpErr
    else
      let s : State := { s with otp := { s.otp with revoked := s.otp.revoked ||| (1#4 <<< k) } }
      s.setReg SEC_KEY.revoked [k] 1
  else s

/-- KEY_REVOKE (R472): a write of SEC_KEY with revoke 1. -/
def execKeyRevoke (a : Agent) (k : Fin 4) (v : BitVec 32) (s : State) : Ans :=
  .next (s.writeNamed a .SEC_KEY [k.val] .whole (v ||| 0x20000000).toNat onSecKey)

/-- A data word of SEC_MEASURE. -/
def onMeasureData (s : State) (w : Wr) (idx : List Nat) : State :=
  if w.has SEC_MEASURE_DATA.data then
    { s with boot := { s.boot with mdata := s.boot.mdata.set! (idx.headD 0) (BitVec.ofNat 64 (w.get SEC_MEASURE_DATA.data)) } }
  else s

/-- The 64 bytes of data. -/
def State.measureData (s : State) : List Byte := s.boot.mdata.toList.flatMap fun x => bytesOf 8 x.toNat

/-- A write of SEC_MEASURE (R474): before boot lock an entry of type 5 is extended, or added where the index names none; the digest of an
added entry is not stated. -/
def onMeasure (s : State) (w : Wr) (idx : List Nat) : State :=
  let s := plainWrite s w idx
  if w.sets SEC_MEASURE.extend then
    let l := s.boot.meas
    if s.locked ∨ s.reg SEC_MEASURE.type ≠ 5 then s.otpErr
    else match l[s.reg SEC_MEASURE.entry]? with
      | some (t, n, d) =>
        if t = 5 then
          let e := (t, n + 64, digestOf (bytesOf 64 d.toNat ++ s.measureData))
          { s with boot := { s.boot with meas := l.set (s.reg SEC_MEASURE.entry) e } }
        else s.otpErr
      | none =>
        if 16 ≤ l.length then s.otpErr
        else match s.draw 512 with
          | (d, s) => { s with boot := { s.boot with meas := l ++ [(5, 64, d)] } }
  else s

/-- MEASURE_EXTEND (R474): a write of SEC_MEASURE with extend 1. -/
def execMeasureExtend (a : Agent) (h : Half) (v : W64) (s : State) : Ans :=
  .next (s.writeNamed a .SEC_MEASURE [] h (withBit h 63 v).toNat onMeasure)

/-! ### Attestation (R475) -/

/-- The slot of the running image's key. -/
def State.keySlot (s : State) : Nat :=
  ((List.range 4).find? fun k => s.bit SEC_KEY.in_use [k]).getD 0

/-- A measurement as the report holds it. -/
def measureBytes (i : Nat) (e : Nat × Nat × BitVec 512) : List Byte :=
  bytesOf 1 e.1 ++ bytesOf 1 i ++ bytesOf 6 0 ++ bytesOf 8 e.2.1 ++ bytesOf 64 e.2.2.toNat

/-- Bytes 0 to 64 + 80m − 1 of a report (Table 18-5). -/
def State.reportHead (s : State) (nonce : List Byte) : List Byte :=
  let flags := (if s.locked then 1 else 0) + (if s.minimal then 2 else 0) + s.reg SEC_LOCK.jtag_open * 4
  bytesOf 4 0x54415859 ++ bytesOf 2 1 ++ bytesOf 1 flags ++ bytesOf 1 s.keySlot ++ nonce ++ bytesOf 4 (s.regBits .DEV_ID []) ++
    bytesOf 2 (s.reg BOOT_STATUS.reason) ++ bytesOf 1 s.otp.count ++ bytesOf 1 s.boot.meas.length ++ bytesOf 6 s.clk.sec ++
    bytesOf 4 s.clk.ns ++ bytesOf 6 0 ++ (s.boot.meas.mapIdx measureBytes).flatten

/-- A new report is formed and signed. -/
def State.formReport (s : State) (nonce : List Byte) : State :=
  let b := s.reportHead nonce
  let tag : List Byte := [0x6F, 0x6C, 0x77, 0x2D, 0x61, 0x74, 0x74]
  { s with boot := { s.boot with report := b ++ bytesOf 4627 (Config.mldsaSign s.xi tag b s.free).toNat }, free := s.free + 1 }

/-- GET_ATTEST (R475). -/
def execGetAttest (dt : Nat) (s : State) : Ans :=
  let s := s.advance dt
  .next (s.olwRow 2 fun s m d =>
    let nonce := d.take 32
    let off := natOfBytes ((d.drop 32).take 4)
    let n := natOfBytes (d.drop 36)
    let answer (s : State) : (Nat × List Byte) × State :=
      ((0, bytesOf 4 s.boot.report.length ++ fragment m 4 s.boot.report off n), s)
    if d.length ≠ 38 then ((3, []), s)
    else if s.boot.pubkey = [] then ((4, []), s)
    else if off = 0 then answer (s.formReport nonce)
    else if (s.boot.report.drop 8).take 32 = nonce ∧ off < s.boot.report.length then answer s
    else ((2, []), s))

end Sys2Proof.Machine
end

