-- ==== Sys2Proof/Machine/Exposures.lean ====
section
/-! DEFINITION. Machine/Exposures.lean: slices, boundaries and deadlines of exposures (R33 to R52), self-test rotation (R450, R451), and
maintenance pauses (R53, R54, R406). -/
namespace Sys2Proof.Machine
open Reg

/-- Exposures are kept while they are incomplete or among the 256 closed most recently (R367). -/
def State.tidyExps (s : State) : State :=
  let next := s.reg FE_EXP_NUMBER.open_number
  { s with exps := s.exps.filter fun e => !e.complete || decide (next ≤ e.num + 256) }

/-! ### The boundary (R38) -/

/-- Steps 1 of R38: exposure `e` closes at clock reading `t` with `b` slices; an overrun exposure is complete, and its header is owed to every
enabled Print ring (R40, R368). -/
def State.closeExp (s : State) (e : Exp) (t b : Nat) : State :=
  let s := s.setExp e.num fun e => { e with closeNs := some t, slices := b, closeT := s.clk.tclk }
  if e.overrun then
    let l := (List.finRange 4).filter fun p => s.bit DMA_PRINT_RING.en [p.val]
    ({ s with heads := s.heads ++ l.map fun p => (e.num, p, false) }).completeExp e.num
  else s

/-- Held cores whose release has been written rejoin (R451). -/
def State.rejoin (s : State) : State :=
  (List.finRange 32).foldl (fun s n =>
    if s.mon.release.getLsbD n.val && bitOf (s.reg SAFE_STEST_RESULT.held) n.val then
      let s := (s.coreBit SAFE_STEST_STATUS.out n false).coreBit SAFE_STEST_RESULT.held n false
      { s with mon := { s.mon with release := s.mon.release &&& ~~~(1#32 <<< n.val) } }
    else s) s

/-- The lowest pending core goes out for self-test, if R450 lets it. -/
def State.takeOut (s : State) : State :=
  let out := s.reg SAFE_STEST_STATUS.out
  let en := s.reg FE_EXP_CORE_MASK.core_en
  match (List.finRange 32).find? fun n => bitOf (s.reg SAFE_STEST_STATUS.pending) n.val with
  | none => s
  | some n =>
    let left := (List.range 32).filter fun k => bitOf en k && !bitOf out k && decide (k ≠ n.val)
    if popCount 32 out < s.reg SAFE_STEST.max_out ∧ bitOf en n.val ∧ 4 ≤ left.length then
      (s.coreBit SAFE_STEST_STATUS.pending n false).coreBit SAFE_STEST_STATUS.out n true
    else s

/-- The active set (R38 step 3). -/
def State.activeSet (s : State) : Nat :=
  (s.reg FE_EXP_CORE_MASK.core_en) &&& ((2 ^ 32 - 1) ^^^ s.reg SAFE_STEST_STATUS.out)

/-- Step 3 of R38 for exposure `j` that has closed: self-test, active set, deadline, the settings of its processing; stage 0 completes
(R433), and stage 1 too where pf_so already stands at j + 1 (DEDUCED). -/
def State.latchStep (s : State) (j : Nat) : State :=
  let s := s.rejoin.takeOut
  let a := s.activeSet
  let s := (s.setReg FE_EXP_ACTIVE.active [] a).latchProc
  let s := s.setExp j fun e =>
    { e with active := BitVec.ofNat 32 a, limitNs := s.reg FE_EXP_DEADLINE.deadline_us * 1000, cfg := s.csr }
  let s := s.setJudge j fun g => { g with closeT := some s.clk.tclk, cfg := s.csr }
  let s := (s.stageComplete j 0).proofDue j
  let o := s.reg SAFE_PF_CFG.pf_so
  (s.proofSignal o (s.reg SO_VALUE.value [o])).judgeTidy

/-- A new exposure (R37, R40). -/
def newExp (num t tclk : Nat) (acq : Csr) (buf : Option (Fin 4)) : Exp :=
  { num := num, openNs := t, closeNs := none, openT := tclk, slices := 64, starts := [t], overrun := buf.isNone, accepted := 0, dropped := 0
    sensors := [], zones := Vector.replicate 16 0, extrap := false, stale := false, stepped := false, seals := 0, dir := [], buf := buf
    described := false, active := 0, limitNs := 0, refPose := [], complete := false, doneT := 0, closeT := 0, compared := false
    missed := false, disagreed := false, cfg := [], acq := acq }

/-- A judged exposure as it opens. -/
def newJudge (num tclk : Nat) (overrun : Bool) (c : Csr) : Judge :=
  { exp := num, overrun := overrun, openT := tclk, closeT := none, marks := Vector.replicate 16 0, done := Vector.replicate 16 none
    late := Vector.replicate 16 false, cfg0 := c, cfg := c }

/-- Step 5 of R38: exposure `num` opens at clock reading `t`, `rest` (2^-32 ns) of slice time having passed. -/
def State.openAt (s : State) (num t rest : Nat) : State :=
  let buf := s.nextBuf
  let s := { s with acq := s.csr, sliceT := rest, slice := 0, exps := s.exps ++ [newExp num t s.clk.tclk s.csr buf] }
  let s := match buf with
    | none => s.bump FE_EXP_STATUS.overrun_count []
    | some b => { s with fe := { s.fe with lastBuf := some b } }
  let s := if s.mon.judged.length < 4 then
      { s with mon := { s.mon with judged := s.mon.judged ++ [newJudge num s.clk.tclk buf.isNone s.csr] } }
    else s
  let s := match s.mon.restartT, s.mon.restartR with
    | some _, none => { s with mon := { s.mon with restartR := some num } }
    | _, _ => s
  (s.setReg FE_EXP_NUMBER.open_number [] num).setReg FE_EXP_STATUS.open [] 1

/-- Count the exposures without a non-empty maintenance slot as `e` closes (R53, R54). -/
def State.countSlot (s : State) (e : Exp) : State :=
  match (if e.num = 0 then none else s.expRec (e.num - 1)) with
  | none => s
  | some p =>
    if p.complete && decide (p.doneT + 25000 ≤ s.clk.tclk) then { s with mntSkip := 0 } else { s with mntSkip := s.mntSkip + 1 }

/-- Steps 1 to 5 of R38, with R66, as exposure `e` closes after `b` slices at clock reading `t`, `rest` (2^-32 ns) before this edge. -/
def State.boundary (s : State) (e : Exp) (b t rest : Nat) : State :=
  let s := (s.countSlot e).closeExp e t b
  let s := s.applyPending
  let s := s.latchPorts
  let s := (s.latchStep e.num).switchBanks
  let s :=
    if s.bit FE_EXP_CTRL.enable then s.openAt (e.num + 1) t rest
    else ((s.setReg FE_EXP_STATUS.open [] 0).setReg FE_EXP_NUMBER.open_number [] (e.num + 1)).latchIdle
  s.tidyExps

/-! ### Slices (R34, R35, R52, R54) -/

/-- The exposure closes at slice boundary `b` (R34, R52). -/
def State.closesAt (s : State) (len b : Nat) : Bool :=
  decide (b = 64) || decide (48 ≤ b ∧ b < 64 ∧ (64 - b) * len ≤ min s.lagNow (16 * len))

/-- Pending pauses are forced after too many exposures without a slot (R54). -/
def State.forcePauses (s : State) : State :=
  if s.reg FE_EXP_CTRL.mnt_max_defer ≤ s.mntSkip ∧ s.reg MEM_STATUS.pending ≠ 0 ∧ !s.forced then
    ({ s with forced := true }).bump FE_EXP_STATUS.mnt_forced_count []
  else s

/-- The end of the open exposure's current slice. -/
def State.sliceOver (s : State) (e : Exp) : State :=
  let len := csrGet e.acq FE_EXP_PERIOD.slice_ns []
  let b := s.slice + 1
  let rest := s.sliceT - b * len * 2 ^ 32
  let t := (s.clk.units - rest) / 2 ^ 32
  let s := s.forcePauses
  if s.closesAt len b then ({ s with slice := b }).boundary e b t rest
  else ({ s with slice := b }).setExp e.num fun e => { e with starts := e.starts ++ [t] }

/-- SLICE_BOUNDARY (R34): the slice timer has reached the end of the slice. -/
def execSliceBoundary (dt : Nat) (s : State) : Ans :=
  let s := s.advance dt
  .next (match s.openExp with
    | none => s
    | some e =>
      if s.fullOn && decide ((s.slice + 1) * csrGet e.acq FE_EXP_PERIOD.slice_ns [] * 2 ^ 32 ≤ s.sliceT) then s.sliceOver e else s)

/-- The local time t of R36 that this edge reaches or passes: (t − phase_ns) mod P = 0, among the times that the clock has passed by its
rate at the latest edge, none after a step. -/
def State.firstOpen (s : State) : Option Nat :=
  let p : Int := 64 * s.reg FE_EXP_PERIOD.slice_ns
  let phase : Int := s.reg FE_EXP_PHASE.phase_ns
  ((List.range 16).map fun k => s.now - k).find? fun t =>
    decide (((t : Int) - phase) % p = 0 ∧ s.clk.units < t * 2 ^ 32 + s.clk.swept ∧ t * 2 ^ 32 ≤ s.clk.units)

/-- EXPOSURE_FIRST_OPEN (R36): with enable committed and exposures idle, at the edge that reaches an opening time. The count of
consecutive exposures without a slot (R54) starts again from 0 (DESIGN CHOICE, assumption 108). -/
def execExposureFirstOpen (dt : Nat) (s : State) : Ans :=
  let s := s.advance dt
  .next (if s.fullOn && s.idle && s.bit FE_EXP_CTRL.enable then
      match s.firstOpen with
      | none => s
      | some t =>
        let s := ({ s with mntSkip := 0 }).applyPending.latchIdle
        (s.openAt (s.reg FE_EXP_NUMBER.open_number) t (s.clk.units - t * 2 ^ 32)).tidyExps
    else s)

/-- lag_ns and lagging as they read (R51, Table 2-11). -/
def State.showLag (s : State) : State :=
  (s.setReg FE_EXP_STATUS.lag_ns [] (min s.lagNow (2 ^ 32 - 1))).setReg FE_EXP_STATUS.lagging [] (if 0 < s.lagNow then 1 else 0)

/-- EXPOSURE_DEADLINE (R51): the deadline of an incomplete exposure passes; lag grows from then on. -/
def execExposureDeadline (dt : Nat) (s : State) : Ans := .next (s.advance dt).showLag

/-! ### Maintenance pauses (R53, R54, R406) -/

/-- The slice boundary at which the open exposure closes with the lag as it stands (R34, R52). -/
def State.closeSlice (s : State) (len : Nat) : Nat :=
  ((List.range 65).find? fun b => decide (s.slice < b) && s.closesAt len b).getD 64

/-- The maintenance slot of the exposure before the open one is on (R53): 100 µs remain before the open one closes. -/
def State.inSlot (s : State) (e : Exp) : Bool :=
  let len := csrGet e.acq FE_EXP_PERIOD.slice_ns []
  let left := s.closeSlice len * len - s.sliceT / 2 ^ 32
  decide (100000 ≤ left) && (if e.num = 0 then false else
    match s.expRec (e.num - 1) with
    | some p => p.complete
    | none => true)

/-- A pause may start now: idle, where it is taken as soon as it is pending (R406), in a slot with no other channel paused, or forced. -/
def State.pauseAllowed (s : State) : Bool :=
  match s.openExp with
  | none => true
  | some e => s.forced || (s.inSlot e && decide (s.reg MEM_STATUS.paused = 0))

/-- A recovery or zero-fill is in progress on a channel. -/
def State.channelBusy (s : State) (c : Fin 16) : Bool :=
  s.zeroing.isSome || s.recov.any fun r => decide (dramChannel r.2.1 = c)

/-- Set or clear a channel's bit. -/
def State.chanBit (s : State) (f : Fld) (c : Fin 16) (on : Bool) : State :=
  let v := s.reg f
  s.setReg f [] (if on then v ||| 2 ^ c.val else v &&& (65535 ^^^ 2 ^ c.val))

/-- MAINT_PAUSE_START (R53, R406): a pending pause starts on channel `c`. -/
def execMaintPauseStart (dt : Nat) (c : Fin 16) (s : State) : Ans :=
  let s := s.advance dt
  .next (if s.awake && bitOf (s.reg MEM_STATUS.pending) c.val && !bitOf (s.reg MEM_STATUS.paused) c.val && s.pauseAllowed &&
      !s.channelBusy c then
      let s := ((s.chanBit MEM_STATUS.pending c false).chanBit MEM_STATUS.paused c true).bump MEM_STATUS.pause_count []
      { s with pauseT := s.pauseT.set c s.clk.tclk, forced := s.forced && decide (s.reg MEM_STATUS.pending ≠ 0) }
    else s)

/-- MAINT_PAUSE_END (R53). -/
def execMaintPauseEnd (dt : Nat) (c : Fin 16) (s : State) : Ans :=
  let s := s.advance dt
  .next (s.chanBit MEM_STATUS.paused c false)

end Sys2Proof.Machine
end

