-- ==== Sys2Proof/Machine/Perf.lean ====
section
/-! DEFINITION. Machine/Perf.lean: the control registers of a core's units and the counters their perf_clr clears (R172, R206, R226,
R281). -/
namespace Sys2Proof.Machine
open Reg

/-- Clear fields of one instance of their register. -/
def State.clearAt (s : State) (idx : List Nat) (fs : List Fld) : State := fs.foldl (fun s f => s.setReg f idx 0) s

/-- Clear the first `k` instances of a per-core counter. -/
def State.clearCounts (s : State) (f : Fld) (n k : Nat) : State := (List.range k).foldl (fun s c => s.setReg f [n, c] 0) s

/-- A write of ARR_CTRL. -/
def onArrCtrl (s : State) (w : Wr) (idx : List Nat) : State :=
  let s := plainWrite s w idx
  if w.sets ARR_CTRL.perf_clr then
    (s.clearCounts ARR_PERF.count (idx.headD 0) 5).clearAt idx [ACC_STATUS.int_sat, ACC_STATUS.fp_inf, ACC_STATUS.nan, ACC_STATUS.cvt_sat]
  else s

/-- ARR_PERF_CLR (R172): a write of ARR_CTRL with perf_clr 1. -/
def execArrPerfClr (a : Agent) (n : CoreId) (v : BitVec 32) (s : State) : Ans :=
  .next (s.writeNamed a .ARR_CTRL [n.val] .whole (v ||| (1#32 <<< 31)).toNat onArrCtrl)

/-- A write of DVL_CTRL. -/
def onDvlCtrl (s : State) (w : Wr) (idx : List Nat) : State :=
  let s := plainWrite s w idx
  if w.sets DVL_CTRL.perf_clr then
    (s.clearCounts DVL_PERF.count (idx.headD 0) 6).clearAt idx
      [DVL_STRIP_CNT.sites_kept, DVL_STRIP_CNT.sites_tested, DVL_STRIP_MISS.strip_miss, DVL_STATUS.scatter_oob]
  else s

/-- DVL_PERF_CLR (R206): a write of DVL_CTRL with perf_clr 1. -/
def execDvlPerfClr (a : Agent) (n : CoreId) (v : BitVec 32) (s : State) : Ans :=
  .next (s.writeNamed a .DVL_CTRL [n.val] .whole (v ||| (1#32 <<< 31)).toNat onDvlCtrl)

/-- A write of SEL_CTRL. -/
def onSelCtrl (s : State) (w : Wr) (idx : List Nat) : State :=
  let s := plainWrite s w idx
  if w.sets SEL_CTRL.perf_clr then
    (s.clearCounts SEL_PERF.count (idx.headD 0) 4).clearAt idx
      [SEL_STATUS.nan_total, SEL_STATUS.tie_events, SEL_STATUS.overflow_events, SEL_STATUS.merge_timeouts]
  else s

/-- SEL_PERF_CLR (R226): a write of SEL_CTRL with perf_clr 1. -/
def execSelPerfClr (a : Agent) (n : CoreId) (v : BitVec 32) (s : State) : Ans :=
  .next (s.writeNamed a .SEL_CTRL [n.val] .whole (v ||| (1#32 <<< 31)).toNat onSelCtrl)

/-- A write of SRT_CTRL. -/
def onSrtCtrl (s : State) (w : Wr) (idx : List Nat) : State :=
  let s := plainWrite s w idx
  if w.sets SRT_CTRL.perf_clr then (s.clearCounts SRT_PERF.count (idx.headD 0) 3).clearAt idx [SRT_STATUS.nan_keys] else s

/-- SRT_PERF_CLR (R226): a write of SRT_CTRL with perf_clr 1. -/
def execSrtPerfClr (a : Agent) (n : CoreId) (v : BitVec 32) (s : State) : Ans :=
  .next (s.writeNamed a .SRT_CTRL [n.val] .whole (v ||| (1#32 <<< 31)).toNat onSrtCtrl)

/-- A write of SPM_CTRL. -/
def onSpmCtrl (s : State) (w : Wr) (idx : List Nat) : State :=
  let s := plainWrite s w idx
  if w.sets SPM_CTRL.perf_clr then (s.clearCounts SPM_PERF.count (idx.headD 0) 4).clearAt idx [SPM_STATUS.denied_count] else s

/-- SPM_PERF_CLR (R281): a write of SPM_CTRL with perf_clr 1. -/
def execSpmPerfClr (a : Agent) (n : CoreId) (v : BitVec 32) (s : State) : Ans :=
  .next (s.writeNamed a .SPM_CTRL [n.val] .whole (v ||| (1#32 <<< 31)).toNat onSpmCtrl)

end Sys2Proof.Machine
end

