-- ==== Sys2Proof/Machine/Power.lean ====
section
/-! DEFINITION. Machine/Power.lean: the power governor, temperature and supply droop (R459 to R463). -/
namespace Sys2Proof.Machine
open Reg

/-! ### Temperature thresholds (R460, R461, Table 18-9) -/

/-- tj_trip in °C: outside 100 to 120 it acts as the nearest limit. -/
def State.tripC (s : State) : Nat := max 100 (min 120 (s.reg PWR_THERM.tj_trip))

/-- tj_throttle in °C: at or above tj_trip it acts as tj_trip − 5. -/
def State.throttleC (s : State) : Nat :=
  if s.tripC ≤ s.reg PWR_THERM.tj_throttle then s.tripC - 5 else s.reg PWR_THERM.tj_throttle

/-- tj, signed, in 0.125 °C. -/
def State.tj (s : State) : Int := signedOf 16 (s.reg PWR_STATUS.tj)

/-! ### Governor (R459) -/

/-- The limit in force, in mW: below 12 W it acts as 12 W, above 45 W as 45 W. -/
def State.limitMw (s : State) : Nat := 250 * max 48 (min 180 (s.reg PWR_LIMIT.limit))

/-- floor_cap in force. -/
def State.floorCap (s : State) : Nat := max 1 (min 8 (s.reg PWR_LIMIT.floor_cap))

/-- One evaluation, with the average power of the last tau_ms in mW: over the limit, or at the throttle temperature, cap falls by one
eighth to floor_cap at least, and at floor_cap over_limit and over_count note it; more than 1 W below the limit it rises. -/
def State.govern (s : State) (mw : Nat) : State :=
  let cap := s.reg PWR_STATUS.cap
  let s := s.setReg PWR_STATUS.power_mw [] mw
  if s.limitMw < mw ∨ s.throttleC * 8 ≤ s.tj then
    if cap ≤ s.floorCap then
      ((s.setReg PWR_STATUS.cap [] s.floorCap).setReg PWR_STATUS.over_limit [] 1).bump PWR_STATUS.over_count []
    else s.setReg PWR_STATUS.cap [] (cap - 1)
  else if mw + 1000 < s.limitMw then s.setReg PWR_STATUS.cap [] (min 8 (cap + 1))
  else s

/-- GOVERNOR_EVALUATE (R459). -/
def execGovernorEvaluate (dt : Nat) (mw : BitVec 32) (s : State) : Ans :=
  let s := s.advance dt
  .next (if s.awake then s.govern mw.toNat else s)

/-! ### Thermal trip and shutdown (R461) -/

/-- Thermal shutdown: a cold reset is held until tj is below tj_trip − 10 °C. -/
def State.shutdown (s : State) : State :=
  let s := s.coldReset true 4
  { s with pwr := { s.pwr with hot := true } }

/-- The trip temperature is reached: 450 MHz, and cause 0x42 at the crossing and, while tj stays there, at every sample outside the safe
state (assumption 92). -/
def State.tripOn (s : State) : State :=
  if s.pwr.hotCap then (if s.reg SAFE_STATUS.state = 0 then s else s.detect 0x42 0 none)
  else
    let s : State := { s with pwr := { s.pwr with hotCap := true, stepT := s.clk.tclk } }
    let s := if s.reg PWR_STATUS.cclk_step = 2 then s else s.bump PWR_DROOP.step2 []
    (s.setReg PWR_STATUS.cclk_step [] 2).detect 0x42 0 none

/-- TJ_SAMPLE (R460, R461): the highest sensor reads `tj`, signed, in 0.125 °C. Thermal shutdown ends below tj_trip − 10 °C; the reset goes on where
RST_N has fallen meanwhile. -/
def execTjSample (dt : Nat) (tj : BitVec 16) (s : State) : Ans :=
  let s := s.advance dt
  let t := tj.toInt
  .next (if s.pwr.hot then
      if t < (s.tripC : Int) * 8 - 80 then
        { s with pwr := { s.pwr with hot := false }
                 boot := { s.boot with phase := if s.reg BOOT_STATUS.reset_cause = 4 then .rom else .held } }
      else s
    else if !s.awake then s
    else if 1000 ≤ t then s.shutdown
    else
      let s := s.setReg PWR_STATUS.tj [] tj.toNat
      let s := s.setReg PWR_STATUS.thermal [] (if (s.throttleC : Int) * 8 ≤ t then 1 else 0)
      if (s.tripC : Int) * 8 ≤ t then s.tripOn
      else if t < (s.tripC : Int) * 8 - 40 then { s with pwr := { s.pwr with hotCap := false } }
      else s)

/-! ### Droop (R462, R463) -/

/-- DROOP_TRIP (R462): the core's clock stretches. -/
def execDroopTrip (dt : Nat) (n : CoreId) (s : State) : Ans :=
  let s := s.advance dt
  .next (if s.awake && s.pwr.tripT[n].isNone then
      let s : State := { s with pwr := { s.pwr with tripT := s.pwr.tripT.set n (some s.clk.tclk) } }
      let s := s.setCore n fun k => { k with stretch := true }
      (s.bump PWR_DROOP.stretches []).setReg PWR_DROOP.last_core [] n.val
    else s)

/-- DROOP_RELEASE (R462). -/
def execDroopRelease (dt : Nat) (n : CoreId) (s : State) : Ans :=
  let s := s.advance dt
  .next (if s.pwr.tripT[n].isSome then
      let l := s.pwr.tripT.set n none
      let s : State := { s with pwr := { s.pwr with tripT := l, quietT := s.clk.tclk } }
      s.setCore n fun k => { k with stretch := false }
    else s)

/-- The lowest core whose detector has been tripped for 10 µs at the present CCLK. -/
def State.droopCore (s : State) : Option CoreId :=
  (List.finRange 32).find? fun n =>
    match s.pwr.tripT[n] with
    | none => false
    | some t => decide (max t s.pwr.stepT + 2500 ≤ s.clk.tclk)

/-- DROOP_STEP (R463): CCLK steps to 675 MHz, or from there to 450 MHz with cause 0x41. -/
def execDroopStep (dt : Nat) (s : State) : Ans :=
  let s := s.advance dt
  .next (match s.droopCore with
    | none => s
    | some n =>
      let step := s.reg PWR_STATUS.cclk_step
      let t : State := { s with pwr := { s.pwr with stepT := s.clk.tclk } }
      if step = 0 then (t.setReg PWR_STATUS.cclk_step [] 1).bump PWR_DROOP.step1 []
      else if step = 1 then ((t.setReg PWR_STATUS.cclk_step [] 2).bump PWR_DROOP.step2 []).detect 0x41 n.val none
      else s)

/-- DROOP_RECOVER (R463): 100 µs without a tripped detector, CCLK returns to 900 MHz, unless the trip temperature holds it (R461). -/
def execDroopRecover (dt : Nat) (s : State) : Ans :=
  let s := s.advance dt
  .next (if s.pwr.tripT.toList.all (fun t => t.isNone) && decide (s.pwr.quietT + 25000 ≤ s.clk.tclk) && !s.pwr.hotCap then
      s.setReg PWR_STATUS.cclk_step [] 0
    else s)

end Sys2Proof.Machine
end

