-- ==== Sys2Proof/Machine/RegFile.lean ====
section
/-! DEFINITION. Machine/RegFile.lean: CSR accesses by offset (R12 to R15, R337, R420, R456, R478 to R482), and the mesh (R24). -/
namespace Sys2Proof.Machine
open Reg

/-! ### What a write does to each register -/

/-- Registers of chapters 2 to 11 with a rule of their own. -/
def onRegLow (nm : RegName) : State → Wr → List Nat → State :=
  match nm with
  | .PTP_INCR => onPtpIncr
  | .PTP_STEP => onPtpStep
  | .PTP_STEP_CTRL => onPtpStepCtrl
  | .PTP_PULSE_CTRL => onPulseCtrl
  | .ETH_TXQ_PTR => onQueuePtr true
  | .ETH_RXQ_PTR => onQueuePtr false
  | .ETH_MDIO => onMdio
  | .FE_IMU_XFER => onImuXfer
  | .FE_POSE_HEAD => onPoseHead
  | .ARR_CTRL => onArrCtrl
  | .DVL_CTRL => onDvlCtrl
  | .SEL_CTRL => onSelCtrl
  | .SRT_CTRL => onSrtCtrl
  | .SPM_CTRL => onSpmCtrl
  | .TBL_CTRL => onTblCtrl
  | .TBL_REBUILD => onRebuild
  | .SPM_CHUNK_OWN => onChunkOwn
  | .SPM_WIN => onWin
  | .SO_VALUE => onSoValue
  | .SO_CTRL => onSoCtrl
  | .SO_ATTR => onSoAttr
  | .SO_ARM => onSoArm
  | .SO_CTX_CFG => onCtxCfg
  | .SO_CTX_BIND => onCtxBind
  | .SO_CTX_STATE => onCtxState
  | .CORE_CTR_GRP => onCtrGrp
  | _ => plainWrite

/-- What a write of a register does: the register's own rule, or the access codes alone (R12). -/
def onReg (nm : RegName) : State → Wr → List Nat → State :=
  match nm with
  | .DMA_CTRL => onDmaCtrl
  | .DMA_OWN => onDmaOwn
  | .DMA_PRINT_RING => onPrintRing
  | .DMA_PRINT_PTR => onPrintPtr
  | .MEM_CFG => onMemCfg
  | .MEM_ZERO => onMemZero
  | .ECC_REMAP_DRAM => onRemap true
  | .ECC_REMAP_SRAM => onRemap false
  | .CFG_TXN => onCfgTxn
  | .HOST_PCIE_CFG => onBinding
  | .HOST_FN_BIND => onBinding
  | .HOST_PART_CTRL => onPartCtrl
  | .HOST_MAP => onMap
  | .SAFE_CTRL => onSafeCtrl
  | .SAFE_STEST => onStest
  | .SAFE_PF_TAB => onPfTab
  | .PWR_CORE_GATE => onCoreGate
  | .PWR_SLEEP => onSleep
  | .BOOT_CTRL => onBootCtrl
  | .SEC_LOCK => onSecLock
  | .SEC_KEY => onSecKey
  | .SEC_ROLLBACK => onRollback
  | .SEC_MEASURE => onMeasure
  | .SEC_MEASURE_DATA => onMeasureData
  | n => onRegLow n

/-! ### Blocks -/

/-- The instance of a register that an agent reaches: of a banked register its partition's copy (R419). -/
def State.copyOf (s : State) (a : Agent) (r : RegRow) (idx : List Nat) : List Nat :=
  if r.banked then [(s.partOf a).val] else idx

/-! ### Writes -/

/-- One access of `n` bytes at byte `b` of a register: its fields that take effect at once (R12), and its RWT fields staged or discarded
(R13, R420). -/
def State.csrWriteOne (s : State) (a : Agent) (r : RegRow) (idx : List Nat) (off b n v : Nat) : State :=
  if s.blockOff off || !s.agentLive a then s
  else
    let idx := s.copyOf a r idx
    let p := s.partOf a
    let may := s.mayWrite a r.wr idx
    let s := s.regWrite a r idx b n v (onReg r.name)
    if r.fields.any fun f => decide (f.acc = .rwt) && f.touched b n then s.stageWrite p may off n v else s

/-- An access of 4 bytes, or of 8 bytes to a register of 64 bits or wider; nothing where no register lies (R14). -/
def State.csrWriteAt (s : State) (a : Agent) (off n v : Nat) : State :=
  match locateReg regRows off with
  | none => s
  | some (r, idx, b) => s.csrWriteOne a r idx off b n v

/-- A register of 64 bits or wider has a word at an offset. -/
def wideAt (off : Nat) : Bool :=
  match locateReg regRows off with
  | none => false
  | some (r, _, b) => decide (8 ≤ r.bytes ∧ b % 8 = 0)

/-- An aligned CSR write of `n` bytes (R480): of 8 bytes where no such word lies, two of 4. -/
def State.csrWrite (s : State) (a : Agent) (off n v : Nat) : State :=
  if n = 8 ∧ wideAt off = false then (s.csrWriteAt a off 4 (v % 2 ^ 32)).csrWriteAt a (off + 4) 4 (v / 2 ^ 32)
  else s.csrWriteAt a off n v

/-! ### Reads -/

/-- The bits of CORE_STATUS (Table 11-14). -/
def State.coreStatus (s : State) (n : CoreId) : Nat :=
  let k := s.cores[n]
  let slot (j : Fin 4) : Nat := match k.slots[j] with
    | none => 0
    | some c => (c.val * 2 ^ (8 * j.val)) * 2 ^ 32 + 2 ^ (28 + j.val)
  let run := match k.run with
    | none => 0
    | some j => 2 ^ 27 + j.val * 2 ^ 25
  slot 0 + slot 1 + slot 2 + slot 3 + run

/-- The bits of DVL_STATUS (Table 7-10): the Developer has work outstanding while the core holds array-class work (assumption 53, DEDUCED). -/
def State.dvlStatus (s : State) (r : RegRow) (idx : List Nat) : Nat :=
  rowValue s.csr idx r.fields + (if s.cores[(Fin.ofNat 32 (idx.headD 0) : CoreId)].array.isEmpty then 0 else 2)

/-- The bits of ARR_STATUS (Table 6-8): arr_busy reads 1 while a pass is queued or in flight (assumption 106,
DEDUCED). -/
def State.arrStatus (s : State) (r : RegRow) (idx : List Nat) : Nat :=
  rowValue s.csr idx r.fields + (if s.arraysBusy (Fin.ofNat 32 (idx.headD 0)) then 4 else 0)

/-- One access to a register that the agent may read. -/
def State.csrReadIn (s : State) (a : Agent) (r : RegRow) (idx : List Nat) (b n : Nat) : Nat × State :=
  let plain (s : State) (v : Nat) : Nat × State := s.readWord a (r.addr idx) r.bytes v b n
  match r.name with
  | .PTP_TIME_NS => s.readTimeNs a b n
  | .PTP_TIME_SEC => s.readTimeSec a b n
  | .PTP_CAPT_FIFO => s.readCapt a (Fin.ofNat 2 (idx.headD 0)) b n
  | .CORE_STATUS => plain s (s.coreStatus (Fin.ofNat 32 (idx.headD 0)))
  | .ARR_STATUS => plain s (s.arrStatus r idx)
  | .DVL_STATUS => plain s (s.dvlStatus r idx)
  | .FE_EXP_STATUS => let s := s.showLag; plain s (rowValue s.csr idx r.fields)
  | .FE_PBUF_STATUS =>
    let s := s.setReg FE_PBUF_STATUS.held [] s.heldBits4
    plain s (rowValue s.csr idx r.fields)
  | .SAFE_PF_TAB =>
    match s.tolerance (idx.headD 0) with
    | (v, s) => plain s v
  | _ => plain s (rowValue s.csr idx r.fields)

/-- One access of `n` bytes at byte `b` of a register; what the agent may not read is zero (R290, R296, R430). -/
def State.csrReadOne (s : State) (a : Agent) (r : RegRow) (idx : List Nat) (off b n : Nat) : Nat × State :=
  if s.blockOff off || !s.agentLive a then (0, s)
  else
    let idx := s.copyOf a r idx
    match r.name with
    | .SO_VALUE => s.readSoValue a (idx.headD 0) b n
    | _ => if s.mayRead a r.rd idx then s.csrReadIn a r idx b n else (0, s)

/-- An access of 4 bytes, or of 8 bytes to a register of 64 bits or wider; zero where no register lies (R14). -/
def State.csrReadAt (s : State) (a : Agent) (off n : Nat) : Nat × State :=
  match locateReg regRows off with
  | none => (0, s)
  | some (r, idx, b) => s.csrReadOne a r idx off b n

/-- An aligned CSR read of `n` bytes (R480). -/
def State.csrRead (s : State) (a : Agent) (off n : Nat) : Nat × State :=
  if n = 8 ∧ wideAt off = false then
    match s.csrReadAt a off 4 with
    | (x, s) =>
      match s.csrReadAt a (off + 4) 4 with
      | (y, s) => (x + y * 2 ^ 32, s)
  else s.csrReadAt a off n

/-! ### Accesses of agents -/

/-- The access is one that CSR space performs (R480). -/
def csrAligned (off n : Nat) : Bool := decide ((n = 4 ∨ n = 8) ∧ off % n = 0)

/-- An access that is not performed: its requester takes an access fault or Completer Abort (R480). -/
def State.csrAbort (s : State) (a : Agent) : State := if s.agentLive a then s.emit (.abort a) else s

/-- REGISTER_WRITE (R12): an agent's CSR write. -/
def execRegisterWrite (a : Agent) (off bytes : Nat) (v : W64) (s : State) : Ans :=
  .next (if csrAligned off bytes then s.csrWrite a off bytes v.toNat else s.csrAbort a)

/-- REGISTER_READ (R15): an agent's CSR read. -/
def execRegisterRead (a : Agent) (off bytes : Nat) (s : State) : Ans :=
  .next (if csrAligned off bytes then s.liveRead a fun s => s.csrRead a off bytes else s.csrAbort a)

/-- CFG_STAGE_WRITE (R420): a write to a register with RWT fields. -/
def execCfgStageWrite (a : Agent) (off : BitVec 26) (wide : Bool) (v : W64) (s : State) : Ans :=
  let n := if wide then 8 else 4
  .next (if off.toNat % n = 0 then s.csrWrite a off.toNat n v.toNat else s.csrAbort a)

/-! ### The csr instruction (R337) -/

/-- The rules of the register at an offset forbid or discard a write of `v` by the context's partition: a register it may not write, an object
it does not own, a reset it may not make (R296, R337). -/
def State.csrForbidden (s : State) (a : Agent) (off v : Nat) : Bool :=
  match locateReg regRows off with
  | none => false
  | some (r, idx, b) =>
    let idx := s.copyOf a r idx
    let p := s.partOf a
    let o := idx.headD 0
    let owner := s.bit SO_ATTR.own_valid [o] && decide (s.reg SO_ATTR.owner [o] = p.val)
    match r.name with
    | .SO_VALUE => !s.soPermits p o
    | .SO_ATTR => !owner && decide (p ≠ 0)
    | .SO_ARM => !owner
    | .SO_CTRL => decide (b = 0) && bitOf v 31 && !s.mayReset p (v % 2 ^ 14)
    | _ => !s.mayWrite a r.wr idx

/-- The accesses of 4 or 8 bytes that a write of `v` makes. -/
def State.csrDenied (s : State) (a : Agent) (off n v : Nat) : Bool :=
  if n = 8 ∧ wideAt off = false then s.csrForbidden a off (v % 2 ^ 32) || s.csrForbidden a (off + 4) (v / 2 ^ 32)
  else s.csrForbidden a off v

/-- Size of a csr access in bytes. -/
def Fields.csrBytes (f : Fields) : Nat := if bitOf f.fn 2 then 8 else 4

/-- CSR_READ (R337). -/
def execCsrRead (n : CoreId) (w : W64) (s : State) : Ans :=
  .next (s.issue n w 0 (fnRow 0x43 [0, 4]) fun s c f =>
    let off := s.plus c f f.a 8
    if !s.ctrAllowed n c f.ctr then s.badCtl c
    else if off % f.csrBytes ≠ 0 then s.misaligned c off
    else
      let s := s.launch n c (.csrRead off f.csrBytes f.d f.ctr)
      match s.draw 64 with
      | (v, s) => s.give c (.s f.d v))

/-- CSR_WRITE (R337): what the register's rules forbid raises CSR denied (0x0C) with the offset. -/
def execCsrWrite (n : CoreId) (w : W64) (s : State) : Ans :=
  .next (s.issue n w 0 (fnRow 0x43 [1, 5]) fun s c f =>
    let off := s.plus c f f.a 8
    if !s.ctrAllowed n c f.ctr then s.badCtl c
    else if off % f.csrBytes ≠ 0 then s.misaligned c off
    else if s.csrDenied (.ctx c) off f.csrBytes (s.getS c f.b).toNat then s.precise c 0x0C off
    else s.launch n c (.csrWrite off f.csrBytes (s.getS c f.b) f.ctr))

/-- CSR_ACCESS_COMPLETE (R337): the access of flight `j` is performed, its destination written, and its counter advances. -/
def execCsrAccessComplete (j : Nat) (s : State) : Ans :=
  .next (match s.flights[j]? with
    | none => s
    | some f =>
      if s.behind f || s.releaseHeld f then s
      else
        match f.op with
        | .csrRead off n d k =>
          match (s.dropFlight f.seq).csrRead (.ctx f.ctx) off n with
          | (v, s) => ((s.give f.ctx (.s d (BitVec.ofNat 64 v))).landed f (some k)).settle f.ctx
        | .csrWrite off n v k => ((((s.dropFlight f.seq).csrWrite (.ctx f.ctx) off n v.toNat)).landed f (some k)).settle f.ctx
        | _ => s)

/-! ### The mesh -/

/-- MESH_C2_AGE (R24): time passes, and with it the mesh sends packets; a C2 packet that has waited 256 FCLK at an output goes in its next free slot
(`meshPick`). -/
def execMeshC2Age (dt : Nat) (s : State) : Ans := .next (s.advance dt)

end Sys2Proof.Machine
end

