-- ==== Sys2Proof/Machine/Dispatch.lean ====
section
/-! DEFINITION. Machine/Dispatch.lean: exec, one arm for each command. -/
namespace Sys2Proof.Machine

/-- The effect of a command on everything but the queue. -/
def exec (i : Instr) (s : State) : Host.Outcome State Fault Refusal :=
  match i with
  | .registerWrite a off bytes v => Sys2Proof.Machine.execRegisterWrite a off bytes v s
  | .meshC2Age dt => Sys2Proof.Machine.execMeshC2Age dt s
  | .sliceBoundary dt => Sys2Proof.Machine.execSliceBoundary dt s
  | .exposureFirstOpen dt => Sys2Proof.Machine.execExposureFirstOpen dt s
  | .exposureDeadline dt => Sys2Proof.Machine.execExposureDeadline dt s
  | .exposureDescriptorWrite dt => Sys2Proof.Machine.execExposureDescriptorWrite dt s
  | .frontEndHeaderPrint dt p => Sys2Proof.Machine.execFrontEndHeaderPrint dt p s
  | .quantumExpiry dt n => Sys2Proof.Machine.execQuantumExpiry dt n s
  | .contextSwitch n => Sys2Proof.Machine.execContextSwitch n s
  | .contextSwap c => Sys2Proof.Machine.execContextSwap c s
  | .frameReceive dt port sub bs => Sys2Proof.Machine.execFrameReceive dt port sub bs s
  | .ethLinkChange dt port up anDone => Sys2Proof.Machine.execEthLinkChange dt port up anDone s
  | .mdioStart a b h v => Sys2Proof.Machine.execMdioStart a b h v s
  | .mdioComplete dt b v => Sys2Proof.Machine.execMdioComplete dt b v s
  | .queueTailWrite a port tx h v => Sys2Proof.Machine.execQueueTailWrite a port tx h v s
  | .txFrameSend dt port sub => Sys2Proof.Machine.execTxFrameSend dt port sub s
  | .ptpIncrWrite a h v => Sys2Proof.Machine.execPtpIncrWrite a h v s
  | .ptpStepRequest a h v => Sys2Proof.Machine.execPtpStepRequest a h v s
  | .ptpStepConfirm a h v => Sys2Proof.Machine.execPtpStepConfirm a h v s
  | .ptpStepDiscard a h v => Sys2Proof.Machine.execPtpStepDiscard a h v s
  | .ptpTimeNsRead a h => Sys2Proof.Machine.execPtpTimeNsRead a h s
  | .ptpTimeSecRead a h => Sys2Proof.Machine.execPtpTimeSecRead a h s
  | .pulseArm a k v => Sys2Proof.Machine.execPulseArm a k v s
  | .pulseLeadingEdge dt k => Sys2Proof.Machine.execPulseLeadingEdge dt k s
  | .pulseTrailingEdge dt k => Sys2Proof.Machine.execPulseTrailingEdge dt k s
  | .captureEdge dt c falling => Sys2Proof.Machine.execCaptureEdge dt c falling s
  | .captFifoRead a c h => Sys2Proof.Machine.execCaptFifoRead a c h s
  | .imuTrigger dt falling => Sys2Proof.Machine.execImuTrigger dt falling s
  | .imuReadStart dt => Sys2Proof.Machine.execImuReadStart dt s
  | .imuReadComplete dt bs => Sys2Proof.Machine.execImuReadComplete dt bs s
  | .imuXferStart a h v => Sys2Proof.Machine.execImuXferStart a h v s
  | .imuXferComplete dt bs => Sys2Proof.Machine.execImuXferComplete dt bs s
  | .frameDecode dt port => Sys2Proof.Machine.execFrameDecode dt port s
  | .sliceSeal dt => Sys2Proof.Machine.execSliceSeal dt s
  | .computeStart dt n u => Sys2Proof.Machine.execComputeStart dt n u s
  | .arrayClassComplete dt n => Sys2Proof.Machine.execArrayClassComplete dt n s
  | .gridClassComplete dt n => Sys2Proof.Machine.execGridClassComplete dt n s
  | .selectionClassComplete dt n => Sys2Proof.Machine.execSelectionClassComplete dt n s
  | .sortComplete dt n => Sys2Proof.Machine.execSortComplete dt n s
  | .tableClassComplete dt n j => Sys2Proof.Machine.execTableClassComplete dt n j s
  | .weightSwap dt n => Sys2Proof.Machine.execWeightSwap dt n s
  | .arrayPassLimit dt n => Sys2Proof.Machine.execArrayPassLimit dt n s
  | .rampStep dt n => Sys2Proof.Machine.execRampStep dt n s
  | .mergeLevel dt n => Sys2Proof.Machine.execMergeLevel dt n s
  | .mergeTimeout dt n => Sys2Proof.Machine.execMergeTimeout dt n s
  | .tableRequest dt n dirHit rowHit => Sys2Proof.Machine.execTableRequest dt n dirHit rowHit s
  | .rowCacheFill dt j rowHit => Sys2Proof.Machine.execRowCacheFill dt j rowHit s
  | .tableGradientPair dt n => Sys2Proof.Machine.execTableGradientPair dt n s
  | .tableReplaceRequest dt n => Sys2Proof.Machine.execTableReplaceRequest dt n s
  | .tableStepStart dt => Sys2Proof.Machine.execTableStepStart dt s
  | .tableStepDone dt => Sys2Proof.Machine.execTableStepDone dt s
  | .sweepVisit dt => Sys2Proof.Machine.execSweepVisit dt s
  | .migrationCopyDone dt j => Sys2Proof.Machine.execMigrationCopyDone dt j s
  | .migrationFlip dt j => Sys2Proof.Machine.execMigrationFlip dt j s
  | .migrationSlotRelease dt j => Sys2Proof.Machine.execMigrationSlotRelease dt j s
  | .bankRetire dt t => Sys2Proof.Machine.execBankRetire dt t s
  | .rebuildStart a v => Sys2Proof.Machine.execRebuildStart a v s
  | .rebuildStop a v => Sys2Proof.Machine.execRebuildStop a v s
  | .rebuildDone dt => Sys2Proof.Machine.execRebuildDone dt s
  | .remoteAccess a n off k bs => Sys2Proof.Machine.execRemoteAccess a n off k bs s
  | .doorbellWrite a n w v => Sys2Proof.Machine.execDoorbellWrite a n w v s
  | .remoteTransferEnd => Sys2Proof.Machine.execRemoteTransferEnd s
  | .vaultAccess a off n bs upset => Sys2Proof.Machine.execVaultAccess a off n bs upset s
  | .gatherWriteback dt n => Sys2Proof.Machine.execGatherWriteback dt n s
  | .stealStall n => Sys2Proof.Machine.execStealStall n s
  | .chunkOwnWrite a n c v => Sys2Proof.Machine.execChunkOwnWrite a n c v s
  | .windowCloseWrite a n w h v => Sys2Proof.Machine.execWindowCloseWrite a n w h v s
  | .ctxCfgWrite a c h v => Sys2Proof.Machine.execCtxCfgWrite a c h v s
  | .ctxBind a c h v => Sys2Proof.Machine.execCtxBind a c h v s
  | .ctxKill a c h v => Sys2Proof.Machine.execCtxKill a c h v s
  | .ctxResume a c h v => Sys2Proof.Machine.execCtxResume a c h v s
  | .ctrGrpWrite a n g v => Sys2Proof.Machine.execCtrGrpWrite a n g v s
  | .soValueWrite a o h v => Sys2Proof.Machine.execSoValueWrite a o h v s
  | .soValueRead a o h => Sys2Proof.Machine.execSoValueRead a o h s
  | .soReset a h v => Sys2Proof.Machine.execSoReset a h v s
  | .soAttrWrite a o v => Sys2Proof.Machine.execSoAttrWrite a o v s
  | .soOpExecute j => Sys2Proof.Machine.execSoOpExecute j s
  | .soWaitRegister c => Sys2Proof.Machine.execSoWaitRegister c s
  | .soWaitAnswer c => Sys2Proof.Machine.execSoWaitAnswer c s
  | .soResultArrive c => Sys2Proof.Machine.execSoResultArrive c s
  | .waitTimeout dt c => Sys2Proof.Machine.execWaitTimeout dt c s
  | .icacheFill dt n => Sys2Proof.Machine.execIcacheFill dt n s
  | .globalAccessComplete j host => Sys2Proof.Machine.execGlobalAccessComplete j host s
  | .fenceComplete j => Sys2Proof.Machine.execFenceComplete j s
  | .csrAccessComplete j => Sys2Proof.Machine.execCsrAccessComplete j s
  | .nop n w => Sys2Proof.Machine.execNop n w s
  | .halt n w => Sys2Proof.Machine.execHalt n w s
  | .trap n w => Sys2Proof.Machine.execTrap n w s
  | .yield n w => Sys2Proof.Machine.execYield n w s
  | .yieldTaskEnd n w => Sys2Proof.Machine.execYieldTaskEnd n w s
  | .fence n w => Sys2Proof.Machine.execFence n w s
  | .sysr n w => Sys2Proof.Machine.execSysr n w s
  | .stage n w => Sys2Proof.Machine.execStage n w s
  | .br n w => Sys2Proof.Machine.execBr n w s
  | .jal n w => Sys2Proof.Machine.execJal n w s
  | .jalr n w => Sys2Proof.Machine.execJalr n w s
  | .bp n w => Sys2Proof.Machine.execBp n w s
  | .alu n w => Sys2Proof.Machine.execAlu n w s
  | .alui n w => Sys2Proof.Machine.execAlui n w s
  | .li n w x => Sys2Proof.Machine.execLi n w x s
  | .mul n w => Sys2Proof.Machine.execMul n w s
  | .div n w => Sys2Proof.Machine.execDiv n w s
  | .csel n w => Sys2Proof.Machine.execCsel n w s
  | .ldH n w => Sys2Proof.Machine.execLdH n w s
  | .stH n w => Sys2Proof.Machine.execStH n w s
  | .ldG n w => Sys2Proof.Machine.execLdG n w s
  | .stG n w => Sys2Proof.Machine.execStG n w s
  | .vldH n w => Sys2Proof.Machine.execVldH n w s
  | .vstH n w => Sys2Proof.Machine.execVstH n w s
  | .vldG n w => Sys2Proof.Machine.execVldG n w s
  | .vstG n w => Sys2Proof.Machine.execVstG n w s
  | .valu n w => Sys2Proof.Machine.execValu n w s
  | .vcmp n w => Sys2Proof.Machine.execVcmp n w s
  | .vfalu n w => Sys2Proof.Machine.execVfalu n w s
  | .vfcmp n w => Sys2Proof.Machine.execVfcmp n w s
  | .vcvt n w => Sys2Proof.Machine.execVcvt n w s
  | .vred n w => Sys2Proof.Machine.execVred n w s
  | .vperm n w => Sys2Proof.Machine.execVperm n w s
  | .vdraw n w => Sys2Proof.Machine.execVdraw n w s
  | .pop n w => Sys2Proof.Machine.execPop n w s
  | .tld n w => Sys2Proof.Machine.execTld n w s
  | .tst n w => Sys2Proof.Machine.execTst n w s
  | .tset n w => Sys2Proof.Machine.execTset n w s
  | .tget n w => Sys2Proof.Machine.execTget n w s
  | .hset n w => Sys2Proof.Machine.execHset n w s
  | .hget n w => Sys2Proof.Machine.execHget n w s
  | .hinv n w => Sys2Proof.Machine.execHinv n w s
  | .winOpen n w => Sys2Proof.Machine.execWinOpen n w s
  | .winClose n w => Sys2Proof.Machine.execWinClose n w s
  | .csrRead n w => Sys2Proof.Machine.execCsrRead n w s
  | .csrWrite n w => Sys2Proof.Machine.execCsrWrite n w s
  | .soRead n w => Sys2Proof.Machine.execSoRead n w s
  | .soAdd n w => Sys2Proof.Machine.execSoAdd n w s
  | .soSig n w => Sys2Proof.Machine.execSoSig n w s
  | .waitSo n w => Sys2Proof.Machine.execWaitSo n w s
  | .waitCtr n w => Sys2Proof.Machine.execWaitCtr n w s
  | .ctrSet n w => Sys2Proof.Machine.execCtrSet n w s
  | .ctrRead n w => Sys2Proof.Machine.execCtrRead n w s
  | .dma n w x => Sys2Proof.Machine.execDma n w x s
  | .wld n w => Sys2Proof.Machine.execWld n w s
  | .wswap n w => Sys2Proof.Machine.execWswap n w s
  | .mm n w => Sys2Proof.Machine.execMm n w s
  | .mv n w => Sys2Proof.Machine.execMv n w s
  | .mmG n w => Sys2Proof.Machine.execMmG n w s
  | .strip n w => Sys2Proof.Machine.execStrip n w s
  | .dun n w x => Sys2Proof.Machine.execDun n w x s
  | .dint n w x => Sys2Proof.Machine.execDint n w x s
  | .gridClear n w x => Sys2Proof.Machine.execGridClear n w x s
  | .gridIns n w x => Sys2Proof.Machine.execGridIns n w x s
  | .gridLook n w x => Sys2Proof.Machine.execGridLook n w x s
  | .gridAge n w x => Sys2Proof.Machine.execGridAge n w x s
  | .haloExp n w x => Sys2Proof.Machine.execHaloExp n w x s
  | .haloImp n w x => Sys2Proof.Machine.execHaloImp n w x s
  | .morton n w x => Sys2Proof.Machine.execMorton n w x s
  | .mortonTab n w x => Sys2Proof.Machine.execMortonTab n w x s
  | .rankw n w x => Sys2Proof.Machine.execRankw n w x s
  | .kmap n w x => Sys2Proof.Machine.execKmap n w x s
  | .ball n w x => Sys2Proof.Machine.execBall n w x s
  | .sample n w x => Sys2Proof.Machine.execSample n w x s
  | .topk n w x => Sys2Proof.Machine.execTopk n w x s
  | .thr n w x => Sys2Proof.Machine.execThr n w x s
  | .merge n w x => Sys2Proof.Machine.execMerge n w x s
  | .sort n w x => Sys2Proof.Machine.execSort n w x s
  | .tlook n w x => Sys2Proof.Machine.execTlook n w x s
  | .tgrad n w x => Sys2Proof.Machine.execTgrad n w x s
  | .tstep n w => Sys2Proof.Machine.execTstep n w s
  | .trepl n w x => Sys2Proof.Machine.execTrepl n w x s
  | .tpf n w => Sys2Proof.Machine.execTpf n w s
  | .arrPerfClr a n v => Sys2Proof.Machine.execArrPerfClr a n v s
  | .dvlPerfClr a n v => Sys2Proof.Machine.execDvlPerfClr a n v s
  | .selPerfClr a n v => Sys2Proof.Machine.execSelPerfClr a n v s
  | .srtPerfClr a n v => Sys2Proof.Machine.execSrtPerfClr a n v s
  | .spmPerfClr a n v => Sys2Proof.Machine.execSpmPerfClr a n v s
  | .tblPerfClr a v => Sys2Proof.Machine.execTblPerfClr a v s
  | .fabricDmaStart a k h v => Sys2Proof.Machine.execFabricDmaStart a k h v s
  | .dmaBurst dt e reads run => Sys2Proof.Machine.execDmaBurst dt e reads run s
  | .dmaChannelComplete dt e k => Sys2Proof.Machine.execDmaChannelComplete dt e k s
  | .dmaOwnWrite a k v => Sys2Proof.Machine.execDmaOwnWrite a k v s
  | .printRingWrite a p h v => Sys2Proof.Machine.execPrintRingWrite a p h v s
  | .printRingTailWrite a p h v => Sys2Proof.Machine.execPrintRingTailWrite a p h v s
  | .printCommit dt n => Sys2Proof.Machine.execPrintCommit dt n s
  | .checkerCompareEnd dt n => Sys2Proof.Machine.execCheckerCompareEnd dt n s
  | .stageMarkArrive dt j => Sys2Proof.Machine.execStageMarkArrive dt j s
  | .stageLate dt j st => Sys2Proof.Machine.execStageLate dt j st s
  | .proofCompareEnd dt => Sys2Proof.Machine.execProofCompareEnd dt s
  | .proofCompareTimeout dt => Sys2Proof.Machine.execProofCompareTimeout dt s
  | .protPrintMissing dt j => Sys2Proof.Machine.execProtPrintMissing dt j s
  | .keepaliveExpiry dt => Sys2Proof.Machine.execKeepaliveExpiry dt s
  | .lockstepMismatch dt => Sys2Proof.Machine.execLockstepMismatch dt s
  | .clockMonitorWindow dt off => Sys2Proof.Machine.execClockMonitorWindow dt off s
  | .safeRestart a v => Sys2Proof.Machine.execSafeRestart a v s
  | .safeForce a v => Sys2Proof.Machine.execSafeForce a v s
  | .safeKick a v => Sys2Proof.Machine.execSafeKick a v s
  | .frameUpdateTimer dt => Sys2Proof.Machine.execFrameUpdateTimer dt s
  | .safeCsFall dt => Sys2Proof.Machine.execSafeCsFall dt s
  | .safebToggle dt => Sys2Proof.Machine.execSafebToggle dt s
  | .selfTestRequest a v => Sys2Proof.Machine.execSelfTestRequest a v s
  | .selfTestStart dt n => Sys2Proof.Machine.execSelfTestStart dt n s
  | .selfTestEnd dt n pass => Sys2Proof.Machine.execSelfTestEnd dt n pass s
  | .selfTestRelease a v => Sys2Proof.Machine.execSelfTestRelease a v s
  | .pcieInboundRequest f t n bs host => Sys2Proof.Machine.execPcieInboundRequest f t n bs host s
  | .partitionResetWrite a p v => Sys2Proof.Machine.execPartitionResetWrite a p v s
  | .pcieResetEvent dt e => Sys2Proof.Machine.execPcieResetEvent dt e s
  | .partitionResetEnd dt p => Sys2Proof.Machine.execPartitionResetEnd dt p s
  | .hostMapWrite a p k h v => Sys2Proof.Machine.execHostMapWrite a p k h v s
  | .fnBindWrite a f v => Sys2Proof.Machine.execFnBindWrite a f v s
  | .partShareWrite a p v => Sys2Proof.Machine.execPartShareWrite a p v s
  | .sharePeriod dt => Sys2Proof.Machine.execSharePeriod dt s
  | .msixUnmask f v => Sys2Proof.Machine.execMsixUnmask f v s
  | .cfgBegin a v => Sys2Proof.Machine.execCfgBegin a v s
  | .cfgStageWrite a off wide v => Sys2Proof.Machine.execCfgStageWrite a off wide v s
  | .cfgCommit a v => Sys2Proof.Machine.execCfgCommit a v s
  | .cfgRollback a v => Sys2Proof.Machine.execCfgRollback a v s
  | .cfgValidateEnd dt p => Sys2Proof.Machine.execCfgValidateEnd dt p s
  | .setEndpointId => Sys2Proof.Machine.execSetEndpointId s
  | .getEndpointId => Sys2Proof.Machine.execGetEndpointId s
  | .getEndpointUuid => Sys2Proof.Machine.execGetEndpointUuid s
  | .getMctpVersionSupport => Sys2Proof.Machine.execGetMctpVersionSupport s
  | .getMessageTypeSupport => Sys2Proof.Machine.execGetMessageTypeSupport s
  | .getVendorDefinedMsgSupport => Sys2Proof.Machine.execGetVendorDefinedMsgSupport s
  | .unsupportedControlCommand => Sys2Proof.Machine.execUnsupportedControlCommand s
  | .getStatus => Sys2Proof.Machine.execGetStatus s
  | .getAttest dt => Sys2Proof.Machine.execGetAttest dt s
  | .getLog => Sys2Proof.Machine.execGetLog s
  | .getIdentity => Sys2Proof.Machine.execGetIdentity s
  | .pushImage dt trains => Sys2Proof.Machine.execPushImage dt trains s
  | .dramRead a addr n upset recurs => Sys2Proof.Machine.execDramRead a addr n upset recurs s
  | .dramWrite a addr bs upset => Sys2Proof.Machine.execDramWrite a addr bs upset s
  | .dramRecovery crcA crcB recurs => Sys2Proof.Machine.execDramRecovery crcA crcB recurs s
  | .mergeBufferWriteback dt b => Sys2Proof.Machine.execMergeBufferWriteback dt b s
  | .memCfgWrite a v trains => Sys2Proof.Machine.execMemCfgWrite a v trains s
  | .memZeroStart a h v => Sys2Proof.Machine.execMemZeroStart a h v s
  | .memZeroDone dt => Sys2Proof.Machine.execMemZeroDone dt s
  | .remapWrite a dram g k h v => Sys2Proof.Machine.execRemapWrite a dram g k h v s
  | .scrubVisit dt p upset recurs => Sys2Proof.Machine.execScrubVisit dt p upset recurs s
  | .bucketLeak dt => Sys2Proof.Machine.execBucketLeak dt s
  | .zqLatchDue dt => Sys2Proof.Machine.execZqLatchDue dt s
  | .retrainDue dt => Sys2Proof.Machine.execRetrainDue dt s
  | .maintPauseStart dt c => Sys2Proof.Machine.execMaintPauseStart dt c s
  | .maintPauseEnd dt c => Sys2Proof.Machine.execMaintPauseEnd dt c s
  | .powerOnReset => Sys2Proof.Machine.execPowerOnReset s
  | .rstNFall dt => Sys2Proof.Machine.execRstNFall dt s
  | .rstNRise sel => Sys2Proof.Machine.execRstNRise sel s
  | .softwareReset a h v => Sys2Proof.Machine.execSoftwareReset a h v s
  | .bootRomEntry dt imgA imgB rec trains => Sys2Proof.Machine.execBootRomEntry dt imgA imgB rec trains s
  | .startWatchdogExpiry dt => Sys2Proof.Machine.execStartWatchdogExpiry dt s
  | .bootDone a h v => Sys2Proof.Machine.execBootDone a h v s
  | .bootLock a v => Sys2Proof.Machine.execBootLock a v s
  | .rollbackAdvance a h v => Sys2Proof.Machine.execRollbackAdvance a h v s
  | .keyRevoke a k v => Sys2Proof.Machine.execKeyRevoke a k v s
  | .measureExtend a h v => Sys2Proof.Machine.execMeasureExtend a h v s
  | .coreGateWrite a h v => Sys2Proof.Machine.execCoreGateWrite a h v s
  | .coreReady dt n => Sys2Proof.Machine.execCoreReady dt n s
  | .sleepRequest a h v => Sys2Proof.Machine.execSleepRequest a h v s
  | .sleepEntryComplete dt => Sys2Proof.Machine.execSleepEntryComplete dt s
  | .wakeEvent dt e => Sys2Proof.Machine.execWakeEvent dt e s
  | .wakeComplete dt => Sys2Proof.Machine.execWakeComplete dt s
  | .governorEvaluate dt mw => Sys2Proof.Machine.execGovernorEvaluate dt mw s
  | .tjSample dt tj => Sys2Proof.Machine.execTjSample dt tj s
  | .droopTrip dt n => Sys2Proof.Machine.execDroopTrip dt n s
  | .droopRelease dt n => Sys2Proof.Machine.execDroopRelease dt n s
  | .droopStep dt => Sys2Proof.Machine.execDroopStep dt s
  | .droopRecover dt => Sys2Proof.Machine.execDroopRecover dt s
  | .rebuildRowCopy dt => Sys2Proof.Machine.execRebuildRowCopy dt s
  | .registerRead a off bytes => Sys2Proof.Machine.execRegisterRead a off bytes s
  | .illegalInstruction n w => Sys2Proof.Machine.execIllegalInstruction n w s
  | .pcieLinkUp dt port => Sys2Proof.Machine.execPcieLinkUp dt port s
  | .mctpPacketReceive b bs => Sys2Proof.Machine.execMctpPacketReceive b bs s
  | .powerDown vddio => Sys2Proof.Machine.execPowerDown vddio s

end Sys2Proof.Machine
end

