-- ==== Sys2Proof/Safety.lean ====
section
/-! DEFINITION. Safety.lean: what counts as a safe step, and the words in which the statements speak: register fields left as
they were, agents that may write, and instructions that can issue. -/
namespace Sys2Proof
open Sys2Proof.Machine

/-- The step from `s` answers a next state. -/
def safeStep (s : State) : Prop := ∃ t, step s = .next t

end Sys2Proof

namespace Sys2Proof.Machine

/-- Every register field at a place other than the listed ones has in `t` the value it had in `s`. -/
def SameRegsBut (s t : State) (l : List (Fld × List Nat)) : Prop :=
  ∀ (f : Fld) (i : List Nat), (∀ e ∈ l, e.1.key e.2 ≠ f.key i) → t.reg f i = s.reg f i

/-- The agent's accesses are made, and it acts for P0. -/
def P0Agent (s : State) (a : Agent) : Prop := s.agentLive a = true ∧ s.partOf a = 0

/-- The running context `c` of core `n` can issue the words `w` and `x`: the fetch meets no error and the words are legal (R282,
R308, R317). -/
def Issues (s : State) (n : CoreId) (c : CtxId) (w x : W64) : Prop :=
  s.runningOn n = some c ∧ s.mayIssue n c = true ∧ s.settleFetch c (w.getLsbD 8) = s ∧ s.fetchFaults c (w.getLsbD 8) = none ∧
    legalWord w x = true

/-- Two effects write the same bits of the same register. -/
def Effect.like : Effect → Effect → Prop
  | .s d _, .s e _ => d = e
  | .p d m _, .p e k _ => d = e ∧ m = k
  | .v d m _, .v e k _ => d = e ∧ m = k
  | .t d m _, .t e k _ => d = e ∧ m = k
  | _, _ => False

/-- From `s` to `t` the context has passed an instruction: its pc is `pc`, `k` of its issue cycles have passed, and the effect `e` stands once
`lat` have; a register read before then holds a free value (R284, R319). Nothing else has changed. -/
def Lands (s t : State) (c : CtxId) (lat k : Nat) (e : Effect) (pc : BitVec 48) : Prop :=
  let x := s.ctxs[c]
  (lat ≤ 1 → t = { s with ctxs := s.ctxs.set c (({ x with pc := pc, late := x.late ++ [⟨lat, e⟩] } : Ctx).pass k) }) ∧
  (1 < lat → ∃ u : Effect, e.like u ∧
    t = { s with free := s.free + 1, ctxs := s.ctxs.set c (({ x.put u with pc := pc, late := x.late ++ [⟨lat, e⟩] } : Ctx).pass k) })

/-- The instruction's result `e` lands; where a compute instruction under way names the register, both results are undefined (R345). -/
def Results (s : State) (c : CtxId) (lat k : Nat) (e : Effect) (pc : BitVec 48) (o : Host.Outcome State Fault Refusal) : Prop :=
  (s.clashes c e.namedBy = false → ∃ t, o = .next t ∧ Lands s t c lat k e pc) ∧
  (s.clashes c e.namedBy = true → ∃ (u : Effect) (t : State), e.like u ∧ o = .next t ∧
    Lands { s.spoil c e.namedBy with free := s.free + 1 } t c lat k u pc)

/-- The state after an instruction that moves the context's pc to `t` and takes `k` issue cycles. -/
def State.wentTo (s : State) (c : CtxId) (t : BitVec 48) (k : Nat := 1) : State :=
  { s with ctxs := s.ctxs.set c (({ s.ctxs[c] with pc := t } : Ctx).pass k) }

/-- The state after an operation of a context has been issued: it is under way under the next issue number, one packet for each of its
destinations enters the mesh at the core's router 3 FCLK later (R23, R297), and pc moves past the word. -/
def State.sent (s : State) (n : CoreId) (c : CtxId) (op : FlightOp) (k : Nat := 1) : State :=
  let f : Flight := ⟨s.stamp, c, n, s.ctxs[c].pc, op, s.fclk⟩
  { s.wentTo c (s.ctxs[c].pc + 8) k with
    flights := s.flights ++ [f], stamp := s.stamp + 1
    mesh := s.mesh ++ (s.places f).map fun d =>
      { id := s.stamp, cls := f.traffic, src := n, dst := (placeAt d).1, exit := (placeAt d).2, loc := n, port := .home
        due := s.fclk + 3 } }

/-- The state after a precise exception at issue (R308). -/
def State.stopped (s : State) (c : CtxId) (code info : Nat) : State := (s.raise c code info s.ctxs[c].pc s.ctxs[c].pc).pass c 1

/-- `x` is what a read of line `l` by the context may see: the line as it stands, as it stood before a store of the context's previous issue cycle, or as
a compute instruction under way will leave it (R284). -/
def Seen (s : State) (n : CoreId) (c : CtxId) (l x : Nat) : Prop :=
  x = s.lineNat n l ∨ (∃ e ∈ s.ctxs[c].late, e.effect = .line l x) ∨ ∃ i ∈ s.cores[n].issued, (l, x) ∈ i.will

/-- What alu and alui leave in s[d], by Table 12-5. -/
def AluRule (fn : Nat) (a b v : W64) : Prop :=
  let k := b.toNat % 64
  match fn with
  | 0 => v.toNat = (a.toNat + b.toNat) % 2 ^ 64
  | 1 => (v.toNat + b.toNat) % 2 ^ 64 = a.toNat
  | 2 => ∀ i : Nat, v.getLsbD i = (a.getLsbD i && b.getLsbD i)
  | 3 => ∀ i : Nat, v.getLsbD i = (a.getLsbD i || b.getLsbD i)
  | 4 => ∀ i : Nat, v.getLsbD i = (a.getLsbD i != b.getLsbD i)
  | 5 => v.toNat = a.toNat * 2 ^ k % 2 ^ 64
  | 6 => v.toNat = a.toNat / 2 ^ k
  | 7 => v.toInt = a.toInt / 2 ^ k
  | 8 => v.toNat = if a.toInt < b.toInt then 1 else 0
  | 9 => v.toNat = if a.toNat < b.toNat then 1 else 0
  | 10 => v.toInt = min a.toInt b.toInt
  | 11 => v.toInt = max a.toInt b.toInt
  | 12 => v.toNat = min a.toNat b.toNat
  | 13 => v.toNat = max a.toNat b.toNat
  | _ => False

/-- What mul leaves in s[d]. -/
def MulRule (fn : Nat) (a b v : W64) : Prop :=
  match fn with
  | 0 => v.toNat = a.toNat * b.toNat % 2 ^ 64
  | 1 => v.toInt = a.toInt * b.toInt / 2 ^ 64
  | 2 => v.toNat = a.toNat * b.toNat / 2 ^ 64
  | _ => False

/-- What div leaves in s[d]. -/
def DivRule (fn : Nat) (a b v : W64) : Prop :=
  let low : Int := -(2 ^ 63)
  match fn with
  | 0 =>
    if b.toNat = 0 then v.toInt = -1
    else if a.toInt = low ∧ b.toInt = -1 then v.toInt = low
    else v.toInt = a.toInt.tdiv b.toInt
  | 1 => v.toNat = if b.toNat = 0 then 2 ^ 64 - 1 else a.toNat / b.toNat
  | 2 => v.toInt = if b.toNat = 0 then a.toInt else if a.toInt = low ∧ b.toInt = -1 then 0 else a.toInt.tmod b.toInt
  | 3 => v.toNat = if b.toNat = 0 then a.toNat else a.toNat % b.toNat
  | _ => False

/-- The condition of br holds. -/
def BrRule (fn : Nat) (a b : W64) : Prop :=
  match fn with
  | 0 => a.toNat = b.toNat
  | 1 => a.toNat ≠ b.toNat
  | 2 => a.toInt < b.toInt
  | 3 => b.toInt ≤ a.toInt
  | 4 => a.toNat < b.toNat
  | _ => b.toNat ≤ a.toNat

/-- The condition of bp holds. -/
def BpRule (fn : Nat) (p : W64) : Prop :=
  match fn with
  | 0 => ∃ i : Fin 64, p.getLsbD i.val = true
  | 1 => ∀ i : Fin 64, p.getLsbD i.val = false
  | _ => ∀ i : Fin 64, p.getLsbD i.val = true

/-- What valu leaves in a lane of `w` bits, from lanes `a` and `b` below 2^w (Table 12-8). -/
def LaneRule (w fn a b v : Nat) : Prop :=
  let x := signedOf w a
  let y := signedOf w b
  let sat (i : Int) : Int := max (-(2 ^ (w - 1))) (min (2 ^ (w - 1) - 1) i)
  match fn with
  | 0 => v = (a + b) % 2 ^ w
  | 1 => (v + b) % 2 ^ w = a
  | 2 => v = a * b % 2 ^ w
  | 3 => ∀ i : Nat, v.testBit i = (a.testBit i && b.testBit i)
  | 4 => ∀ i : Nat, v.testBit i = (a.testBit i || b.testBit i)
  | 5 => ∀ i : Nat, v.testBit i = (a.testBit i != b.testBit i)
  | 6 => v = a * 2 ^ (b % w) % 2 ^ w
  | 7 => v = a / 2 ^ (b % w)
  | 8 => signedOf w v = x / 2 ^ (b % w)
  | 9 => signedOf w v = min x y
  | 10 => signedOf w v = max x y
  | 11 => v = min a b
  | 12 => v = max a b
  | 13 => signedOf w v = sat (x + y)
  | 14 => signedOf w v = sat (x - y)
  | 15 => v = x.natAbs % 2 ^ w
  | _ => False

/-- The condition of vcmp on two 32-bit lanes. -/
def CmpRule (fn a b : Nat) : Prop :=
  let x := signedOf 32 a
  let y := signedOf 32 b
  match fn with
  | 0 => a = b
  | 1 => a ≠ b
  | 2 => x < y
  | 3 => x ≤ y
  | 4 => a < b
  | _ => a ≤ b

/-- Element `i` of `w` bits of a vector register. -/
def elem (w : Nat) (v : VecReg) (i : Nat) : Nat := v.toNat / 2 ^ (w * i) % 2 ^ w

/-- The write of `v` under the bits `m` reaches just the elements of `w` bits that `act` names, and gives element `i` of them a value that `r i`
admits (R316). -/
def Masked (w : Nat) (act : Nat → Bool) (m v : VecReg) (r : Nat → Nat → Prop) : Prop :=
  ∀ i < 2048 / w, elem w m i = (if act i = true then 2 ^ w - 1 else 0) ∧ (act i = true → r i (elem w v i))

/-- Memory holds no error and no poison, and no diagnostic read is awaited, so that no read of it has a side effect. -/
def Quiet (s : State) : Prop := s.flips = [] ∧ s.poison = [] ∧ s.diagRd = false ∧ s.sram = [] ∧ s.sramBad = []

/-- The agent's accesses are made, and it acts for the partition that owns context `c`. -/
def OwnerAgent (s : State) (a : Agent) (c : CtxId) : Prop :=
  s.agentLive a = true ∧ (s.partOf a).val = s.reg Reg.SO_CTX_CFG.part [c.val]

/-- No core issues from context `c`. -/
def NotRunning (s : State) (c : CtxId) : Prop := ∀ n : CoreId, s.runningOn n ≠ some c

/-- The entries of a merge buffer are of its own lines, one for each line, in canonical form, and none holds a whole line (R270). -/
def BufOk (s : State) (b : BufId) : Prop :=
  (∀ g ∈ s.buf b, bufOf s (32 * g.line) = some b ∧ asorted g.bytes = true ∧ (∀ e ∈ g.bytes, e.1 < 32) ∧ g.bytes.length < 32) ∧
    (s.buf b).Pairwise fun g h => g.line ≠ h.line

/-- The dirty words of the L2 are of its own lines, one for each, in canonical form (R29). -/
def L2Ok (s : State) : Prop :=
  (∀ g ∈ s.l2, asorted g.bytes = true ∧ ∀ e ∈ g.bytes, e.1 < 32) ∧ s.l2.Pairwise fun g h => g.line ≠ h.line

/-- The state after the compute instruction `w`, `x` has joined class `u` of core `n`, with the values its registers hold and the registers it
names (R342, R345); pc moves on. -/
def State.joined (s : State) (n : CoreId) (c : CtxId) (u : UnitClass) (w x : W64) : State :=
  let f := fieldsOf w
  let q := s.ctxs[c]
  let it : Issued :=
    { seq := s.stamp, ctx := c, slot := s.slotNow n c, pc := q.pc, w := w, x := x, ra := q.getS f.a, rb := q.getS f.b
      rc := q.getS f.c, rd := q.getS f.d, tile := q.t[tReg f.a], vb := q.v[f.b], started := false, since := 0, done := 0, lost := false
      met := none, missed := [], oob := 0, names := f.names, vnames := f.vnames, spoilt := false, wrote := [], laid := [], will := [] }
  { s with
    stamp := s.stamp + 1
    cores := s.cores.set n (s.cores[n].setCls u (s.cores[n].cls u ++ [it]))
    ctxs := s.ctxs.set c { q with pc := q.pc + (if w.getLsbD 8 = true then 16 else 8) } }

/-- The instruction raises invalid operand of a unit and does nothing else; the operand index is a free value where the manual gives
the operand none. -/
def BadOperand (s : State) (c : CtxId) (unit : Nat) (o : Host.Outcome State Fault Refusal) : Prop :=
  ∃ (u : State) (x : Nat), x < 256 ∧ (u = s ∨ u = { s with free := s.free + 1 }) ∧ o = .next (u.stopped c 0x04 (unit + 256 * x))

/-- A row joins its class where its operands are in order, and raises invalid operand where they are not. -/
def Joins (s : State) (n : CoreId) (c : CtxId) (u : UnitClass) (unit : Nat) (w x : W64) (ok : Prop)
    (o : Host.Outcome State Fault Refusal) : Prop :=
  (ok → o = .next ((s.joined n c u w x).pass c 1)) ∧ (¬ ok → BadOperand s c unit o)

/-- As `Joins`, for a row with a scalar destination, which holds a free value until the row completes (R321). -/
def JoinsS (s : State) (n : CoreId) (c : CtxId) (u : UnitClass) (unit : Nat) (w x : W64) (ok : Prop)
    (o : Host.Outcome State Fault Refusal) : Prop :=
  (ok → ∃ v : W64, o = .next (({ s.joined n c u w x with free := s.free + 1 }.putS c (fieldsOf w).d v).pass c 1)) ∧
    (¬ ok → BadOperand s c unit o)

/-- From `s` to `t` the monitor has detected the cause `code`, which concerns exposure `j` (R441 to R443, R446, R448): the safe state
is entered, or, where it held, the detection adds 1 to more, lowers withdraw_from, and is recorded only where it falls on the edge of the
recorded one with a lower code. The frame is updated. -/
def Detected (s t : State) (code detail j : Nat) : Prop :=
  open Reg in
  t.reg SAFE_STATUS.state = 0 ∧ t.mon.frameSeq = (s.mon.frameSeq + 1) % 65536 ∧ t.mon.frameT = s.clk.tclk ∧ t.mem = s.mem ∧
  t.clk = s.clk ∧ t.ctxs = s.ctxs ∧ t.cores = s.cores ∧ t.exps = s.exps ∧ t.mon.safeb = s.mon.safeb ∧
  (s.reg SAFE_STATUS.state ≠ 0 →
    t.reg SAFE_STATUS.cause = code ∧ t.reg SAFE_STATUS.detail = detail ∧ t.reg SAFE_STATUS.withdraw_from = j % 2 ^ 32 ∧
    t.reg SAFE_STATUS.more = s.reg SAFE_STATUS.more ∧ t.reg SAFE_TDET.sec = s.clk.sec % 2 ^ 34 ∧
    t.reg SAFE_TDET.ns = s.clk.ns % 2 ^ 30 ∧ t.mon.safeaLow = true ∧ t.mon.detectT = some s.clk.tclk ∧ t.mon.withdraw = j ∧
    t.mon.restartT = none) ∧
  (s.reg SAFE_STATUS.state = 0 →
    t.reg SAFE_STATUS.more = min (s.reg SAFE_STATUS.more + 1) 255 ∧ t.reg SAFE_TDET.sec = s.reg SAFE_TDET.sec ∧
    t.reg SAFE_TDET.ns = s.reg SAFE_TDET.ns ∧ t.mon.detectT = s.mon.detectT ∧ t.mon.withdraw = min j s.mon.withdraw ∧
    t.reg SAFE_STATUS.withdraw_from = (if j < s.mon.withdraw then j % 2 ^ 32 else s.reg SAFE_STATUS.withdraw_from) ∧
    t.mon.safeaLow = s.mon.safeaLow ∧
    (s.mon.detectT = some s.clk.tclk → code < s.reg SAFE_STATUS.cause →
      t.reg SAFE_STATUS.cause = code ∧ t.reg SAFE_STATUS.detail = detail) ∧
    (s.mon.detectT ≠ some s.clk.tclk ∨ s.reg SAFE_STATUS.cause ≤ code →
      t.reg SAFE_STATUS.cause = s.reg SAFE_STATUS.cause ∧ t.reg SAFE_STATUS.detail = s.reg SAFE_STATUS.detail))

/-- The agent's accesses are made, and it acts for the safety owner (R417). -/
def SafetyAgent (s : State) (a : Agent) : Prop := s.agentLive a = true ∧ s.partOf a = s.safetyOwner

/-- The registers that reset loads from OTP (R16, R471, R472). -/
def fuseFields : List (Fld × List Nat) :=
  [(Reg.HOST_PCI_ID.vendor_id, []), (Reg.DEV_ID.grade, []), (Reg.SEC_LOCK.jtag_open, []), (Reg.SEC_ROLLBACK.count, [])] ++
    ((List.range 4).flatMap fun k => [(Reg.SEC_KEY.programmed, [k]), (Reg.SEC_KEY.revoked, [k])])

/-- `t` is the machine as a reset leaves it after `s`: every register but the retained ones, those OTP gives and reset_cause holds its reset
value, memories hold nothing, no unit works, SAFEA_N is driven low, and OTP stands (R16, R455). -/
def Afresh (s t : State) : Prop :=
  SameRegsBut State.reset t (fuseFields ++ retainedFields ++ [(Reg.BOOT_STATUS.reset_cause, [])]) ∧ t.otp = s.otp ∧ t.mem = [] ∧
    t.ctxs = State.reset.ctxs ∧ t.cores = State.reset.cores ∧ t.flights = [] ∧ t.exps = [] ∧ t.mon = State.reset.mon ∧ t.msgs = [] ∧
    t.links = State.reset.links ∧ t.asleep = false ∧ t.pending = s.pending ∧
    t.reg Reg.SEC_ROLLBACK.count = s.otp.count % 128 ∧ ∀ k : Fin 4, t.reg Reg.SEC_KEY.revoked [k.val] = if s.otp.revoked.getLsbD k.val = true then 1 else 0

/-- The image passes the checks of R470, has no section in DRAM, and its body has the digest of its header. -/
def GoodImage (s : State) (b : List Byte) : Prop :=
  s.imageCheck b false = 0 ∧ (∀ x ∈ sectionsOf b, vaultBase ≤ x.load) ∧ sha3 (bodyOf b) = part b 448 64

end Sys2Proof.Machine
end

