-- ==== Sys2Proof/Certificates/Slice0/Obligations.lean ====
section
/-! DEFINITION. Certificates/Slice0/Obligations.lean: the statements for the provers. -/
open Sys2Proof Sys2Proof.Machine Sys2Proof.Machine.Reg

/-! ### The block -/

/-- A step takes the command at the front of the queue and runs it on the state with the queue's rest. -/
def Obligations.StepRunsFront : Prop :=
  ∀ (s : State) (c : Instr) (l : List Instr), step { s with pending := c :: l } = exec c { s with pending := l }

/-- R68: on an empty queue one TCLK edge passes, and the increment in force is added to nanoseconds and fraction, with a carry into the
seconds at 1,000,000,000 ns, while nothing waits to take effect at the edge. Seconds are 48 bits wide. At cold reset the clock reads
0 s 0 ns and PTP_INCR holds 4 ns; the upper 16 bits of the fraction are what PTP_TIME_NS shows. That an empty queue passes an edge is the
model's choice (log entry 6). -/
def Obligations.ClockEdge : Prop :=
  (∀ s : State, s.pending = [] → s.boot.phase ≠ .held → s.asleep = false → s.clk.nextIncr = none → s.clk.step = none →
    s.clk.frac < 2 ^ 32 → s.clk.ns < 1000000000 → s.clk.sec < 2 ^ 48 → s.reg PTP_INCR.incr_ns < 256 →
    s.reg PTP_INCR.incr_frac < 2 ^ 32 →
    ∃ t, step s = .next t ∧
      (let f := s.clk.frac + s.reg PTP_INCR.incr_frac
       let n := s.clk.ns + s.reg PTP_INCR.incr_ns + f / 2 ^ 32
       t.clk.frac = f % 2 ^ 32 ∧ t.clk.ns = (if n < 1000000000 then n else n - 1000000000) ∧
         t.clk.sec = (if n < 1000000000 then s.clk.sec else (s.clk.sec + 1) % 2 ^ 48)) ∧
      t.csr = s.csr ∧ t.mem = s.mem ∧ t.exps = s.exps ∧ t.out = s.out) ∧
  (State.reset.clk.sec = 0 ∧ State.reset.clk.ns = 0 ∧ State.reset.clk.frac = 0 ∧ State.reset.reg PTP_INCR.incr_ns = 4 ∧
    State.reset.reg PTP_INCR.incr_frac = 0) ∧
  ∀ s : State, s.timeNs % 2 ^ 32 = s.clk.frac / 2 ^ 16 % 2 ^ 32

/-! ### The clock's registers (chapter 3) -/

/-- R72: a whole write of PTP_STEP by P0 applies the step in one edge, with the fraction unchanged, when no step is pending and its absolute value is at
most threshold_ns, exposures are idle, or no step has been applied since cold reset; otherwise it holds the step pending, sets refused and counts. A
write while a step is pending replaces it and counts as another refusal. R69, R73: a whole write of PTP_INCR by P0 leaves the increment in force as it
is and holds the written one, limited to 4 ns ± 500 ppm, for the next edge; confirm hands the pending step to the next edge, discard drops it, and
either clears pending; where both are written the step is discarded. A write of the upper half alone confirms and discards too. A whole write of
PTP_STEP_CTRL also stores threshold_ns and clears refused where it writes 1. Completion: under the conditions on state and operands that its clauses
name, exec answers a next state, which they give, for ptpStepRequest, ptpIncrWrite, ptpStepDiscard and ptpStepConfirm. -/
def Obligations.ClockSteps : Prop :=
  (∀ (s : State) (a : Agent) (v : W64), P0Agent s a → s.clk.frac < 2 ^ 32 →
     (if s.clk.heldStep = none ∧
         (v.toInt.natAbs ≤ s.reg PTP_STEP_CTRL.threshold_ns ∨ s.openExp = none ∨ s.clk.stepped = false) then
       ∃ t, exec (.ptpStepRequest a .whole v) s = .next t ∧
         (t.now : Int) = ((s.now : Int) + v.toInt) % (2 ^ 48 * 1000000000) ∧ t.clk.ns < 1000000000 ∧ t.clk.frac = s.clk.frac ∧
         t.clk.stepped = true ∧ t.clk.heldStep = none ∧ t.sliceT = s.sliceT ∧
         t.reg PTP_STEP_CTRL.step_gen = (s.reg PTP_STEP_CTRL.step_gen + 1) % 256 ∧ t.reg FE_EXP_STATUS.time_step = 1 ∧
         t = { s with csr := t.csr, halves := t.halves, clk := t.clk, exps := t.exps, pulses := t.pulses }
     else
       ∃ t, exec (.ptpStepRequest a .whole v) s = .next t ∧ t.clk = { s.clk with heldStep := some v.toInt } ∧
         t.reg PTP_STEP_CTRL.pending = 1 ∧ t.reg PTP_STEP_CTRL.refused = 1 ∧
         t.reg PTP_STEP_CTRL.refused_count = min (s.reg PTP_STEP_CTRL.refused_count + 1) 255 ∧
         SameRegsBut s t [(PTP_STEP_CTRL.pending, []), (PTP_STEP_CTRL.refused, []), (PTP_STEP_CTRL.refused_count, [])] ∧
         t = { s with csr := t.csr, halves := t.halves, clk := t.clk })) ∧
  (∀ (s : State) (a : Agent) (v : W64), P0Agent s a →
     (∃ t, exec (.ptpIncrWrite a .whole v) s = .next t ∧
       (let x := v.toNat / 2 ^ 32 % 256 * 2 ^ 32 + v.toNat % 2 ^ 32
        let y := max 0x3FF7CED92 (min 0x40083126E x)
        t.clk = { s.clk with nextIncr := some (y / 2 ^ 32, y % 2 ^ 32, decide (x ≠ y)) }) ∧
       SameRegsBut s t [(PTP_INCR.incr_clamped, [])] ∧ t = { s with csr := t.csr, halves := t.halves, clk := t.clk }) ∧
     (∀ c ∈ [Instr.ptpStepConfirm a .whole v, Instr.ptpStepDiscard a .whole v], ∃ t, exec c s = .next t ∧
       t.clk.heldStep = none ∧
       t.clk.step = (if c = .ptpStepDiscard a .whole v ∨ v.getLsbD 44 = true ∨ s.clk.heldStep = none then s.clk.step
         else s.clk.heldStep) ∧
       (s.clk.heldStep ≠ none → t.reg PTP_STEP_CTRL.pending = 0) ∧
       t.reg PTP_STEP_CTRL.threshold_ns = v.toNat % 2 ^ 30 ∧
       SameRegsBut s t [(PTP_STEP_CTRL.pending, []), (PTP_STEP_CTRL.refused, []), (PTP_STEP_CTRL.threshold_ns, [])] ∧
       t = { s with csr := t.csr, halves := t.halves, clk := { s.clk with heldStep := t.clk.heldStep, step := t.clk.step } }) ∧
     (∃ t, exec (.ptpStepDiscard a .upper v) s = .next t ∧ t.clk = { s.clk with heldStep := none } ∧
       t.reg PTP_STEP_CTRL.pending = 0 ∧ t.reg PTP_STEP_CTRL.threshold_ns = s.reg PTP_STEP_CTRL.threshold_ns) ∧
     (v.getLsbD 12 = false → ∀ d : Int, s.clk.heldStep = some d →
       ∃ t, exec (.ptpStepConfirm a .upper v) s = .next t ∧ t.clk = { s.clk with heldStep := none, step := some d } ∧
         t.reg PTP_STEP_CTRL.pending = 0))

/-- R70: a whole read of PTP_TIME_NS answers nanoseconds and fraction and latches the seconds of that edge for the reader; its next read of PTP_TIME_SEC
answers and consumes them, whatever the clock has become, be it of the whole or of the upper half, and a read without a latch answers the live
seconds. R86: an edge on a capture input, of the sort that edge_sel selects, is stamped into its FIFO of 16, or counted where the FIFO is full; a
whole read answers and removes the oldest stamp, all ones from an empty FIFO. An edge of the other sort changes nothing. Completion: under the
conditions on state and operands that its clauses name, exec answers a next state, which they give, for ptpTimeNsRead, ptpTimeSecRead, captureEdge and
captFifoRead. -/
def Obligations.TimeAndCapture : Prop :=
  (∀ (s : State) (a : Agent), s.agentLive a = true → s.clk.sec < 2 ^ 48 →
     (∃ t, exec (.ptpTimeNsRead a .whole) s = .next t ∧ t.out = .data a ((s.clk.ns * 2 ^ 32 + s.clk.frac / 2 ^ 16) % 2 ^ 64) :: s.out ∧
       t = { s with latches := t.latches, out := t.out } ∧
       ∀ u : State, u.latches = t.latches → u.agentLive a = true →
         ∃ r, exec (.ptpTimeSecRead a .whole) u = .next r ∧ r.out = .data a s.clk.sec :: u.out ∧
           r = { u with latches := r.latches, out := r.out } ∧
           heldAt a (regAddr .PTP_TIME_SEC) r.latches = none ∧ heldAt a (regAddr .PTP_TIME_SEC + 4) r.latches = none) ∧
     (∃ t, exec (.ptpTimeNsRead a .whole) s = .next t ∧ ∀ u : State, u.latches = t.latches → u.agentLive a = true →
       ∃ r, exec (.ptpTimeSecRead a .upper) u = .next r ∧ r.out = .data a (s.clk.sec / 2 ^ 32) :: u.out ∧
         heldAt a (regAddr .PTP_TIME_SEC) r.latches = none ∧ heldAt a (regAddr .PTP_TIME_SEC + 4) r.latches = none) ∧
     (heldAt a (regAddr .PTP_TIME_SEC) s.latches = none →
       ∃ t, exec (.ptpTimeSecRead a .whole) s = .next t ∧ t.out = .data a s.clk.sec :: s.out ∧
         t = { s with latches := t.latches, out := t.out })) ∧
  ((∀ (s : State) (dt : Nat) (c : Fin 2) (falling : Bool), (s.advance dt).fullOn = true →
     (let u := s.advance dt
      let sel := u.reg (if c.val = 0 then PTP_CAPT_CTRL.edge_sel0 else PTP_CAPT_CTRL.edge_sel1)
      let ovf := if c.val = 0 then PTP_CAPT_CTRL.capt0_ovf else PTP_CAPT_CTRL.capt1_ovf
      if (sel ≠ 0 ↔ falling = true) then
        if u.capts[c].length < 16 then
          exec (.captureEdge dt c falling) s =
            .next { u with capts := u.capts.set c (u.capts[c] ++ [(u.clk.sec % 2 ^ 34, u.clk.ns)]) }
        else exec (.captureEdge dt c falling) s = .next (u.setReg ovf [] (min (u.reg ovf + 1) 255))
      else exec (.captureEdge dt c falling) s = .next u)) ∧
   ∀ (s : State) (a : Agent) (c : Fin 2), s.agentLive a = true →
     ∃ t, exec (.captFifoRead a c .whole) s = .next t ∧
       t.out = .data a (match s.capts[c] with
         | [] => 2 ^ 64 - 1
         | e :: _ => (e.1 * 2 ^ 30 + e.2) % 2 ^ 64) :: s.out ∧
       t.capts = s.capts.set c s.capts[c].tail ∧ t = { s with latches := t.latches, capts := t.capts, out := t.out })

/-- R83, R84: arming a pulse output whose shape is refused leaves arm 0 and sets cfg_err; an accepted one schedules its start. A leading edge that is due
drives the active level, schedules the trailing edge width_ns later and, where periodic, the next edge period_ns later, and triggers the IMU port
where that is selected; a trailing edge that is due drives the inactive level and clears arm for a single pulse. Completion: under the conditions on
state and operands that its clauses name, exec answers a next state, which they give, for pulseArm, pulseLeadingEdge and pulseTrailingEdge. -/
def Obligations.PulseOutputs : Prop :=
  (∀ (s : State) (a : Agent) (k : Fin 4) (v : BitVec 32), P0Agent s a → v.getLsbD 0 = true →
    (let w := s.reg PTP_PULSE_SHAPE.width_ns [k.val]
     let p := s.reg PTP_PULSE_SHAPE.period_ns [k.val]
     let ok := 8 ≤ w ∧ (v.getLsbD 1 = true → 1000 ≤ p ∧ w < p)
     ∃ t, exec (.pulseArm a k v) s = .next t ∧
       (ok → t.reg PTP_PULSE_CTRL.arm [k.val] = 1 ∧
         t.pulses[k].lead = some ((s.clk.sec / 2 ^ 34 * 2 ^ 34 + s.reg PTP_PULSE_START.start_sec [k.val]) * 1000000000 +
           s.reg PTP_PULSE_START.start_ns [k.val])) ∧
       (¬ ok → t.reg PTP_PULSE_CTRL.arm [k.val] = 0 ∧ t.reg PTP_PULSE_CTRL.cfg_err [k.val] = 1 ∧ t.pulses[k].lead = none) ∧
       SameRegsBut s t [(PTP_PULSE_CTRL.arm, [k.val]), (PTP_PULSE_CTRL.cfg_err, [k.val]), (PTP_PULSE_CTRL.periodic, [k.val]),
         (PTP_PULSE_CTRL.active_low, [k.val])] ∧
       t = { s with csr := t.csr, halves := t.halves, pulses := t.pulses })) ∧
  (∀ (s : State) (dt : Nat) (k : Fin 4) (e : Nat), (s.advance dt).fullOn = true → (s.advance dt).pulses[k].lead = some e →
    e ≤ (s.advance dt).now →
    (let u := s.advance dt
     let v : State := { u with
       pulses := u.pulses.set k
         ⟨if u.reg PTP_PULSE_CTRL.periodic [k.val] = 0 then none else some (e + u.reg PTP_PULSE_SHAPE.period_ns [k.val]),
           some (e + u.reg PTP_PULSE_SHAPE.width_ns [k.val]), true⟩
       out := .pulse k (decide (u.reg PTP_PULSE_CTRL.active_low [k.val] = 0)) :: u.out }
     exec (.pulseLeadingEdge dt k) s = .next
       (if u.reg FE_IMU_CTRL.enable ≠ 0 ∧ u.reg FE_IMU_CTRL.trigger = 2 ∧ u.reg FE_IMU_CTRL.pulse_sel = k.val then v.imuTrigger e
        else v))) ∧
  (∀ (s : State) (dt : Nat) (k : Fin 4) (e : Nat), (s.advance dt).fullOn = true → (s.advance dt).pulses[k].trail = some e →
    e ≤ (s.advance dt).now →
    (let u := s.advance dt
     ∃ t, exec (.pulseTrailingEdge dt k) s = .next t ∧ t.pulses = u.pulses.set k { u.pulses[k] with trail := none, active := false } ∧
       t.out = .pulse k (decide (u.reg PTP_PULSE_CTRL.active_low [k.val] ≠ 0)) :: u.out ∧
       (u.reg PTP_PULSE_CTRL.periodic [k.val] = 0 → u.pulses[k].lead = none → t.reg PTP_PULSE_CTRL.arm [k.val] = 0) ∧
       SameRegsBut u t [(PTP_PULSE_CTRL.arm, [k.val])] ∧ t = { u with csr := t.csr, pulses := t.pulses, out := t.out }))

/-- R87 to R90: a selected IMU_DRDY edge takes the next seq and starts a read, is held during a read, or is dropped and counted while one is held; a held
trigger starts once the read has ended; a completed read shows its seq, clears busy and deasserts IMU_CS_N. A firmware transfer starts while sampling
is off, and its end replaces data and clears busy. Completion: under the conditions on state and operands that its clauses name, exec answers a next
state, which they give, for imuTrigger, imuReadStart, imuReadComplete, imuXferStart and imuXferComplete. -/
def Obligations.ImuPort : Prop :=
  (∀ (s : State) (dt : Nat) (falling : Bool), (s.advance dt).fullOn = true → (s.advance dt).reg FE_IMU_CTRL.enable ≠ 0 →
    (s.advance dt).reg FE_IMU_CTRL.trigger = (if falling = true then 1 else 0) →
    (let u := s.advance dt
     let g : ImuTrig := ⟨u.now / 1000000000, u.now % 1000000000, u.imu.seq, u.reg PTP_STEP_CTRL.step_gen, u.clk.heldStep.isSome⟩
     ∃ t, exec (.imuTrigger dt falling) s = .next t ∧ t.imu.seq = (u.imu.seq + 1) % 65536 ∧
       (u.imu.reading = none → u.imu.held = none → t.imu.reading = some g ∧ t.reg FE_IMU_STATUS.busy = 1) ∧
       (u.imu.reading ≠ none → u.imu.held = none → t.imu.reading = u.imu.reading ∧ t.imu.held = some g) ∧
       (u.imu.held ≠ none → t.imu.reading = u.imu.reading ∧ t.imu.held = u.imu.held ∧
         t.reg FE_IMU_STATUS.imu_overrun = min (u.reg FE_IMU_STATUS.imu_overrun + 1) 255) ∧
       t = { u with csr := t.csr, imu := t.imu, out := t.out })) ∧
  (∀ (s : State) (dt : Nat) (g : ImuTrig), (s.advance dt).fullOn = true → (s.advance dt).imu.reading = none →
    (s.advance dt).imu.held = some g →
    (let u := s.advance dt
     ∃ t, exec (.imuReadStart dt) s = .next t ∧ t.imu = { u.imu with reading := some g, held := none } ∧
       t.reg FE_IMU_STATUS.busy = 1 ∧ SameRegsBut u t [(FE_IMU_STATUS.busy, [])] ∧
       t = { u with csr := t.csr, imu := t.imu, out := t.out })) ∧
  (∀ (s : State) (dt : Nat) (g : ImuTrig) (bs : List Byte), (s.advance dt).imu.reading = some g →
    ∃ t, exec (.imuReadComplete dt bs) s = .next t ∧ t.imu.reading = none ∧ t.imu.csHeld = false ∧ t.imu.held = (s.advance dt).imu.held ∧
      t.reg FE_IMU_STATUS.wr_seq = g.seq % 65536 ∧ t.reg FE_IMU_STATUS.busy = 0) ∧
  (∀ (s : State) (a : Agent) (v : W64), P0Agent s a → s.minimal = false → v.getLsbD 62 = true → s.reg FE_IMU_CTRL.enable = 0 →
    s.reg FE_IMU_XFER.busy = 0 →
    ∃ t, exec (.imuXferStart a .whole v) s = .next t ∧ t.reg FE_IMU_XFER.busy = 1 ∧ t.reg FE_IMU_XFER.data = v.toNat % 2 ^ 32 ∧
      t.reg FE_IMU_XFER.len = v.toNat / 2 ^ 56 % 16 ∧
      SameRegsBut s t [(FE_IMU_XFER.busy, []), (FE_IMU_XFER.data, []), (FE_IMU_XFER.len, []), (FE_IMU_XFER.hold_cs, [])] ∧
      t = { s with csr := t.csr, halves := t.halves, out := t.out }) ∧
  (∀ (s : State) (dt : Nat) (bs : List Byte), (s.advance dt).reg FE_IMU_XFER.busy ≠ 0 →
    (let u := s.advance dt
     ∃ t, exec (.imuXferComplete dt bs) s = .next t ∧ t.reg FE_IMU_XFER.busy = 0 ∧
       (u.reg FE_IMU_XFER.len = 4 → t.reg FE_IMU_XFER.data = natOfBytes (bs.take 4) % 2 ^ 32) ∧
       SameRegsBut u t [(FE_IMU_XFER.busy, []), (FE_IMU_XFER.data, [])] ∧ t = { u with csr := t.csr, imu := t.imu }))

/-! ### Ethernet ports and MDIO (chapter 3) -/

/-- R63, R64, R66: at a port with link a frame of a length outside 64 to 9,600 bytes, or with a second tag, counts in rx_len_err whatever its FCS; another
frame with a bad FCS counts in rx_fcs_err; a PAUSE or PFC frame in rx_pause; a frame that no rule of R64 takes in rx_unmatched; one for the front end
waits for its decoder with the time t_pcs − rx_lat; one for a queue without a descriptor owned by hardware in rx_nobuf. A port that is disabled or has
no link receives nothing. R80 to R82: a frame for the receive queue that finds a descriptor owned by hardware at the head moves the head on by one,
modulo the ring's size; a transmit descriptor at the head of a port without link completes unsent, and at a port with link one without a launch time,
whose buffer reads without error, sends its bytes and their FCS; either moves the head on. An empty queue does nothing. Completion: under the
conditions on state and operands that its clauses name, exec answers a next state, which they give, for frameReceive and txFrameSend. -/
def Obligations.FrameQueues : Prop :=
  (∀ (s : State) (dt : Nat) (p : Fin 8) (sub : Fin 262144) (bs : List Byte), (s.advance dt).fullOn = true →
     (let u := s.advance dt
      let i := [p.val]
      let c := Instr.frameReceive dt p sub bs
      let n (f : Fld) (m : Nat) : State := u.setReg f i (min (u.reg f i + 1) m)
      let t := u.stampOf ((u.now16 : Int) - sub.val - u.reg ETH_TS_LAT.rx_lat i)
      if u.linkUp p = false then exec c s = .next u
      else if badLength bs = true then exec c s = .next (n ETH_STATUS.rx_len_err 63)
      else if goodFcs bs = false then exec c s = .next (n ETH_STATUS.rx_fcs_err 65535)
      else if isPause bs = true then exec c s = .next (n ETH_STATUS.rx_pause 255)
      else match u.steer p bs with
        | .unmatched => exec c s = .next (n ETH_STATUS.rx_unmatched 65535)
        | .frontEnd prog payload => exec c s = .next { u with inbox := u.inbox ++ [⟨p, prog, payload, t⟩] }
        | .queue _ =>
          let w := u.hwSettle (u.headAddr rxRing p) 32
          w.ringEmpty rxRing p = true ∨ (w.qdesc (w.headAddr rxRing p)).owned = false →
            exec c s = .next (w.setReg ETH_STATUS.rx_nobuf i (min (w.reg ETH_STATUS.rx_nobuf i + 1) 65535)))) ∧
  ((∀ (s : State) (dt : Nat) (p : Fin 8) (sub : Fin 262144) (bs : List Byte) (cls : Nat), (s.advance dt).fullOn = true →
     (s.advance dt).linkUp p = true → badLength bs = false → goodFcs bs = true → isPause bs = false →
     (s.advance dt).steer p bs = .queue cls → (s.advance dt).ringEmpty rxRing p = false →
     (s.advance dt).hwSettle ((s.advance dt).headAddr rxRing p) 32 = s.advance dt →
     ((s.advance dt).qdesc ((s.advance dt).headAddr rxRing p)).owned = true → (s.advance dt).reg ETH_RXQ_PTR.so_en [p.val] = 0 →
     ∃ t, exec (.frameReceive dt p sub bs) s = .next t ∧
       t.reg ETH_RXQ_PTR.head [p.val] = ((s.advance dt).reg ETH_RXQ_PTR.head [p.val] + 1) % (s.advance dt).ringSize rxRing p % 1024 ∧
       t.inbox = (s.advance dt).inbox) ∧
   (∀ (s : State) (dt : Nat) (p : Fin 8) (sub : Fin 262144), (s.advance dt).fullOn = true →
     (s.advance dt).ringEmpty txRing p = false →
     (s.advance dt).hwSettle ((s.advance dt).headAddr txRing p) 32 = s.advance dt →
     ((s.advance dt).qdesc ((s.advance dt).headAddr txRing p)).owned = true → (s.advance dt).reg ETH_TXQ_PTR.so_en [p.val] = 0 →
     (let u := s.advance dt
      let q := u.qdesc (u.headAddr txRing p)
      let r := u.hwSettle q.addr q.len
      let bs := r.hwRead q.addr q.len
      ∃ t, exec (.txFrameSend dt p sub) s = .next t ∧
        (u.linkUp p = false → ∀ x, .frame p x ∈ t.out → .frame p x ∈ u.out) ∧
        (u.linkUp p = true → q.timed = false → r.poisonedIn q.addr q.len = false →
          ∀ x, .frame p x ∈ t.out ↔ x = bs ++ bytesOf 4 (crc32 bs).toNat ∨ .frame p x ∈ u.out) ∧
        (u.linkUp p = false ∨ q.timed = false →
          t.reg ETH_TXQ_PTR.head [p.val] = (u.reg ETH_TXQ_PTR.head [p.val] + 1) % u.ringSize txRing p % 1024))) ∧
   ∀ (s : State) (dt : Nat) (p : Fin 8) (sub : Fin 262144), (s.advance dt).ringEmpty txRing p = true →
     exec (.txFrameSend dt p sub) s = .next (s.advance dt))

/-- R65, R66, R79: a port of mode other than 0 that gains link reads link_up 1; start in ETH_MDIO begins an operation on an idle bus, with the start code,
operation, addresses and data written, and its end clears busy, with the value read in data after a read; a whole write of a queue's pointer register
hands over the tail. Completion: under the conditions on state and operands that its clauses name, exec answers a next state, which they give, for
ethLinkChange, mdioStart, mdioComplete and queueTailWrite. -/
def Obligations.LinkMdioTail : Prop :=
  (∀ (s : State) (dt : Nat) (p : Fin 8) (an : Bool), (s.advance dt).fullOn = true →
    csrGet (s.advance dt).ethIn ETH_CTRL.mode [p.val] ≠ 0 →
    ∃ t, exec (.ethLinkChange dt p true an) s = .next t ∧ t.reg ETH_STATUS.link_up [p.val] = 1 ∧
      t.reg ETH_STATUS.an_done [p.val] = (if an = true ∧ csrGet (s.advance dt).ethIn ETH_CTRL.mode [p.val] = 1 ∧
        csrGet (s.advance dt).ethIn ETH_CTRL.an_en [p.val] = 1 then 1 else 0) ∧
      SameRegsBut (s.advance dt) t [(ETH_STATUS.link_up, [p.val]), (ETH_STATUS.an_done, [p.val])] ∧
      t = { s.advance dt with csr := t.csr }) ∧
  (∀ (s : State) (a : Agent) (b : Fin 2) (v : W64), P0Agent s a → s.minimal = false → v.getLsbD 62 = true → s.reg ETH_MDIO.busy [b.val] = 0 →
    ∃ t, exec (.mdioStart a b .whole v) s = .next t ∧ t.reg ETH_MDIO.busy [b.val] = 1 ∧
      t.reg ETH_MDIO.data [b.val] = v.toNat % 2 ^ 16 ∧ t.reg ETH_MDIO.prtad [b.val] = v.toNat / 2 ^ 48 % 32 ∧
      t.out = .mdio b (v.toNat / 2 ^ 61 % 2 * 2 ^ 28 + v.toNat / 2 ^ 58 % 4 * 2 ^ 26 + v.toNat / 2 ^ 48 % 32 * 2 ^ 21 +
        v.toNat / 2 ^ 40 % 32 * 2 ^ 16 + v.toNat % 2 ^ 16) :: s.out ∧
      t = { s with csr := t.csr, halves := t.halves, out := t.out, mdioRd := t.mdioRd }) ∧
  (∀ (s : State) (dt : Nat) (b : Fin 2) (v : BitVec 16), (s.advance dt).reg ETH_MDIO.busy [b.val] ≠ 0 →
    ∃ t, exec (.mdioComplete dt b v) s = .next t ∧ t.reg ETH_MDIO.busy [b.val] = 0 ∧
      t.reg ETH_MDIO.data [b.val] = (if (s.advance dt).mdioRd[b] = true then v.toNat else (s.advance dt).reg ETH_MDIO.data [b.val]) ∧
      SameRegsBut (s.advance dt) t [(ETH_MDIO.busy, [b.val]), (ETH_MDIO.data, [b.val])] ∧ t = { s.advance dt with csr := t.csr }) ∧
  ∀ (s : State) (a : Agent) (p : Fin 8) (v : W64), P0Agent s a → s.minimal = false →
    (∃ t, exec (.queueTailWrite a p false .whole v) s = .next t ∧ t.reg ETH_RXQ_PTR.tail [p.val] = v.toNat % 1024 ∧
      t.reg ETH_RXQ_PTR.head [p.val] = s.reg ETH_RXQ_PTR.head [p.val] ∧ t = { s with csr := t.csr, halves := t.halves }) ∧
    ∃ t, exec (.queueTailWrite a p true .whole v) s = .next t ∧ t.reg ETH_TXQ_PTR.tail [p.val] = v.toNat % 1024 ∧
      t.reg ETH_TXQ_PTR.head [p.val] = s.reg ETH_TXQ_PTR.head [p.val] ∧ t = { s with csr := t.csr, halves := t.halves, txAt := t.txAt }

/-! ### Exposures and the front end (chapters 2, 4, 5) -/

/-- R34, R36, R38, R52: a slice that has ended and does not end its exposure starts the next slice of the same exposure; one that ends it closes it; with
enable 1 and exposures idle, an edge that reaches an opening time opens an exposure at that time. Completion: under the conditions on state and
operands that its clauses name, exec answers a next state, which they give, for sliceBoundary and exposureFirstOpen. -/
def Obligations.ExposureGrid : Prop :=
  (∀ (s : State) (dt : Nat) (e : Exp), (s.advance dt).openExp = some e → (s.advance dt).fullOn = true →
    ((s.advance dt).slice + 1) * csrGet e.acq FE_EXP_PERIOD.slice_ns [] * 2 ^ 32 ≤ (s.advance dt).sliceT →
    (s.advance dt).closesAt (csrGet e.acq FE_EXP_PERIOD.slice_ns []) ((s.advance dt).slice + 1) = false →
    ∃ t, exec (.sliceBoundary dt) s = .next t ∧ t.slice = (s.advance dt).slice + 1 ∧ t.openExp.isSome = true ∧
      t.exps.map (·.num) = (s.advance dt).exps.map (·.num) ∧
      t = { s.advance dt with csr := t.csr, slice := t.slice, exps := t.exps, forced := t.forced }) ∧
  (∀ (s : State) (dt : Nat) (e : Exp), (s.advance dt).openExp = some e → (s.advance dt).fullOn = true →
    ((s.advance dt).slice + 1) * csrGet e.acq FE_EXP_PERIOD.slice_ns [] * 2 ^ 32 ≤ (s.advance dt).sliceT →
    (s.advance dt).closesAt (csrGet e.acq FE_EXP_PERIOD.slice_ns []) ((s.advance dt).slice + 1) = true →
    ∃ t, exec (.sliceBoundary dt) s = .next t ∧ ∀ x ∈ t.exps, x.num = e.num → x.closeNs ≠ none) ∧
  (∀ (s : State) (dt : Nat), (s.advance dt).openExp = none → exec (.sliceBoundary dt) s = .next (s.advance dt)) ∧
  (∀ (s : State) (dt t0 : Nat), (s.advance dt).fullOn = true → (s.advance dt).openExp = none → (s.advance dt).pendTx = [] →
    (s.advance dt).reg FE_EXP_CTRL.enable = 1 → (s.advance dt).firstOpen = some t0 →
    ∃ t, exec (.exposureFirstOpen dt) s = .next t ∧ t.reg FE_EXP_STATUS.open = 1 ∧
      t.slice = 0 ∧
      ∃ e ∈ t.exps, e.openNs = t0 ∧ e.closeNs = none ∧ e.num % 2 ^ 64 = t.reg FE_EXP_NUMBER.open_number) ∧
  ∀ (s : State) (dt : Nat), (s.advance dt).openExp.isSome = true → exec (.exposureFirstOpen dt) s = .next (s.advance dt)

/-- R51, R38 step 6, R111, R118: the passing of a deadline shows the lag in FE_EXP_STATUS, saturating, and lagging while it is above 0; once every slice
of the lowest closed exposure without a descriptor is sealed, or where it is overrun, the descriptor is written, FE_PBUF_STATUS and the zone counts
follow, and then the object that close_so names is signalled with the exposure's number + 1. The descriptor of an overrun exposure carries the overrun
and drop flags; it goes to the next free buffer (the model's choice, log entry 48). R92, R95, R96, R101: the oldest frame that waits for a port's
decoder leaves the queue; where its program reads beyond the payload the frame counts once in decode_err and none of its points elsewhere, else its
points are taken in ascending block and point order; where its stamp is two or more steps behind, every one of them counts as a time drop. R102: a
seal that is due takes exactly the slice's staged points out of the staging store. Completion: under the conditions on state and operands that its
clauses name, exec answers a next state, which they give, for exposureDeadline, exposureDescriptorWrite, frameDecode and sliceSeal. -/
def Obligations.DeadlineDecodeSeal : Prop :=
  ((∀ (s : State) (dt : Nat), ∃ t, exec (.exposureDeadline dt) s = .next t ∧
     t.reg FE_EXP_STATUS.lag_ns = min (s.advance dt).lagNow (2 ^ 32 - 1) ∧
     t.reg FE_EXP_STATUS.lagging = (if 0 < (s.advance dt).lagNow then 1 else 0) ∧
     SameRegsBut (s.advance dt) t [(FE_EXP_STATUS.lag_ns, []), (FE_EXP_STATUS.lagging, [])] ∧ t = { s.advance dt with csr := t.csr }) ∧
   (∀ (s : State) (dt : Nat) (e : Exp), (s.advance dt).fullOn = true → (s.advance dt).describeNext = some e →
     e.overrun = true ∨ e.slices ≤ e.seals →
     exec (.exposureDescriptorWrite dt) s = .next
       ((((s.advance dt).describe e).setExp e.num fun x => { x with described := true }).soCome
         (((s.advance dt).describe e).reg FE_EXP_CTRL.close_so) .signal (e.num + 1))) ∧
   (∀ (s : State) (dt : Nat), (s.advance dt).describeNext = none → exec (.exposureDescriptorWrite dt) s = .next (s.advance dt)) ∧
   (∀ e : Exp, e.overrun = true → e.descFlags % 4 = 3) ∧
   ∀ (s : State) (e : Exp) (b : Fin 4), s.descHome e = some b →
     (s.describe e).reg FE_PBUF_STATUS.closed_number = e.num % 2 ^ 56 ∧ (s.describe e).reg FE_PBUF_STATUS.closed_buf = b.val ∧
       ∀ z : Fin 16, (s.describe e).reg FE_ZONE_COUNT.count [z.val] = e.zones[z] % 2 ^ 32) ∧
  ((∀ (s : State) (dt : Nat) (p : Fin 8) (f : InFrame), (s.advance dt).fullOn = true →
     ((s.advance dt).inbox.find? fun g => decide (g.port = p)) = some f →
     (let u : State := { s.advance dt with inbox := (s.advance dt).inbox.erase f }
      let steps := decSteps u.acq f.port.val f.prog.val
      (beyondPayload u.acq f.port.val f.prog.val steps f.payload.length = true →
        exec (.frameDecode dt p) s = .next (u.setReg FE_DROP_CNT.count [5] (min (u.reg FE_DROP_CNT.count [5] + 1) (2 ^ 32 - 1)))) ∧
      ∃ t, exec (.frameDecode dt p) s = .next t ∧ t.inbox = u.inbox ∧ t.mem = u.mem ∧ t.out = u.out ∧
        (beyondPayload u.acq f.port.val f.prog.val steps f.payload.length = false →
          1 < (u.reg PTP_STEP_CTRL.step_gen + 256 - f.stamp.gen) % 256 →
          t.fe.staged = u.fe.staged ∧ t.reg FE_DROP_CNT.count [2] = min (u.reg FE_DROP_CNT.count [2] +
            (csrGet u.acq FE_DEC_PROG.blocks [f.port.val, f.prog.val] + 1) * (csrGet u.acq FE_DEC_PROG.pts [f.port.val, f.prog.val] + 1))
            (2 ^ 32 - 1)))) ∧
   ∀ (s : State) (dt : Nat) (e : Exp), (s.advance dt).fullOn = true → (s.advance dt).sealNext = some e →
     (s.advance dt).sealDue e = true →
     ∃ t, exec (.sliceSeal dt) s = .next t ∧
       t.fe.staged = ((s.advance dt).fe.staged.filter fun q => !decide (q.exp = e.num ∧ q.slice = e.seals)) ∧
       t.inbox = (s.advance dt).inbox)

/-- R117: a point lies in an enabled zone that counts its sensor exactly when its height is between z_min and z_max, inclusive, and a ray towards +x
crosses an odd number of the polygon's edges; an edge is crossed when its ends lie on different sides of the point's y and the crossing lies beyond
the point, evaluated exactly. Reversing an edge changes nothing. R120, R121, R125: the levels nest exactly: the index of a coordinate at a level is
the level-0 index shifted, the coordinate lies in the cell whose corner that index gives, at an offset of 0 to e_l − 1, and the home bucket of a key
is below 2^b. -/
def Obligations.GridAndZones : Prop :=
  ((∀ x y x1 y1 x2 y2 : Int, crosses x y x1 y1 x2 y2 = true ↔
     ((y1 > y) ≠ (y2 > y)) ∧ ((x : Rat) < x1 + (y - y1) * (x2 - x1) / (y2 - y1))) ∧
   (∀ x y x1 y1 x2 y2 : Int, crosses x y x1 y1 x2 y2 = crosses x y x2 y2 x1 y1) ∧
   ∀ (c : Csr) (z k : Nat) (x y h : Int), csrGet c FE_ZONE_CFG.en [z] = 1 →
     inZone c z k x y h = true →
     signedOf 32 (csrGet c FE_ZONE_CFG.z_min [z]) ≤ h ∧ h ≤ signedOf 32 (csrGet c FE_ZONE_CFG.z_max [z]) ∧
       csrGet c FE_ZONE_CFG.sensor_mask [z] / 2 ^ k % 2 = 1) ∧
  ((∀ (s : State) (axis l : Nat) (a : Int), 0 < s.edge → 0 ≤ s.index0 axis a →
     (let i := (s.index0 axis a).toNat / 2 ^ s.sh l
      s.corner axis l i ≤ a ∧ a < s.corner axis l i + (s.edge * 2 ^ s.sh l : Nat))) ∧
   ∀ seed b key : Nat, b ≤ 64 → homeOf seed b key < 2 ^ b)

/-! ### Shaos instructions (chapters 11 and 12) -/

/-- R319, R320, R326, R287: each scalar instruction that can issue gives s[d] what Table 12-5 says, moves pc past itself and changes nothing else; s0
ignores the write and reads 0. The result stands once the instruction's latency in issue cycles is over, and of two results for one register the one
that lands later stands, of two that land together the one issued later. R323, R325, Table 12-4: the control instructions that only move pc, link,
read a system value or send a stage mark; a taken branch or jump takes a second issue cycle. Completion: under the conditions on state and operands
that its clauses name, exec answers a next state, which they give, for alu, alui, mul, div, csel, li, nop, br, bp, jal, jalr, sysr and stage. -/
def Obligations.ScalarAndControl : Prop :=
  ((∀ (s : State) (n : CoreId) (c : CtxId) (w : W64), Issues s n c w 0 →
     (let f := fieldsOf w
      let a := s.ctxs[c].getS f.a
      let b := s.ctxs[c].getS f.b
      let gives (v : W64) (lat : Nat) (i : Instr) : Prop := Results s c lat 1 (.s f.d v) (s.ctxs[c].pc + 8) (exec i s)
      (f.op = 0x10 → ∃ v, AluRule f.fn a b v ∧ gives v 1 (.alu n w)) ∧
      (f.op = 0x11 → ∃ v, AluRule f.fn a (BitVec.ofInt 64 (signedOf 32 f.imm)) v ∧ gives v 1 (.alui n w)) ∧
      (f.op = 0x13 → ∃ v, MulRule f.fn a b v ∧ gives v 3 (.mul n w)) ∧
      (f.op = 0x14 → ∃ v, DivRule f.fn a b v ∧ gives v 16 (.div n w)) ∧
      (f.op = 0x15 → gives (if (s.ctxs[c].getS f.c).toNat = 0 then b else a) 1 (.csel n w)))) ∧
   (∀ (s : State) (n : CoreId) (c : CtxId) (w x : W64), Issues s n c w x → (fieldsOf w).op = 0x12 →
     Results s c 1 1 (.s (fieldsOf w).d x) (s.ctxs[c].pc + 16) (exec (.li n w x) s)) ∧
   (∀ (x : Ctx) (i : Fin 32), x.getS i = if i.val = 0 then 0 else x.s[i]) ∧
   (∀ (x : Ctx) (d : Fin 32) (v : W64) (a k : Nat), d.val ≠ 0 → 1 ≤ a → x.late = [⟨a, .s d v⟩] →
     ((x.pass k).getS d = if a ≤ k then v else x.getS d) ∧ ∀ e : Fin 32, e ≠ d → (x.pass k).getS e = x.getS e) ∧
   ∀ (x : Ctx) (d : Fin 32) (v w : W64) (a b k : Nat), d.val ≠ 0 → 1 ≤ a → 1 ≤ b → x.late = [⟨a, .s d v⟩, ⟨b, .s d w⟩] → a ≤ k → b ≤ k →
     (x.pass k).getS d = if b < a then v else w) ∧
  (∀ (s : State) (n : CoreId) (c : CtxId) (w : W64), Issues s n c w 0 →
     (let f := fieldsOf w
      let a := s.ctxs[c].getS f.a
      let b := s.ctxs[c].getS f.b
      let pc := s.ctxs[c].pc
      let tgt := pc + BitVec.ofInt 48 (8 * signedOf 32 f.imm)
      (f.op = 0x00 → exec (.nop n w) s = .next (s.wentTo c (pc + 8))) ∧
      (f.op = 0x08 → (BrRule f.fn a b → exec (.br n w) s = .next (s.wentTo c tgt 2)) ∧
        (¬ BrRule f.fn a b → exec (.br n w) s = .next (s.wentTo c (pc + 8)))) ∧
      (f.op = 0x0B → (BpRule f.fn (s.ctxs[c].getP (Fin.ofNat 8 f.a.val)) → exec (.bp n w) s = .next (s.wentTo c tgt 2)) ∧
        (¬ BpRule f.fn (s.ctxs[c].getP (Fin.ofNat 8 f.a.val)) → exec (.bp n w) s = .next (s.wentTo c (pc + 8)))) ∧
      (f.op = 0x09 → Results s c 1 2 (.s f.d ((pc + 8).setWidth 64)) tgt (exec (.jal n w) s)) ∧
      (f.op = 0x0A → Results s c 1 2 (.s f.d ((pc + 8).setWidth 64)) ((a + BitVec.ofInt 64 (signedOf 32 f.imm)).setWidth 48)
        (exec (.jalr n w) s)) ∧
      (f.op = 0x05 → ∃ v : W64, Results s c (if f.fn = 5 then 2 else 1) 1 (.s f.d v) (pc + 8) (exec (.sysr n w) s) ∧
        v.toNat = (match f.fn with
          | 0 => n.val
          | 1 => c.val
          | 2 => s.reg SO_CTX_STATE.slot [c.val]
          | 3 => (s.partOf (.ctx c)).val
          | 4 => s.cores[n].cclk / 10
          | 5 => s.clk.sec * 1000000000 + s.clk.ns
          | _ => pc.toNat) % 2 ^ 64) ∧
      (f.op = 0x06 → 2 ≤ f.imm % 16 → exec (.stage n w) s =
        .next { s.wentTo c (pc + 8) with
          mon := { s.mon with marksSent := s.mon.marksSent ++ [(n, c, f.imm % 16, a.setWidth 32)] } })))

/-- R292, R308, R310, R323: halt makes the context halted at once, whatever it has under way; trap and an illegal word make it faulted once its counted
instructions have completed, and the registers of the exception hold code, info and both addresses, the first record standing; yield ends the quantum.
Completion: under the conditions on state and operands that its clauses name, exec answers a next state, which they give, for halt, trap, yield,
yieldTaskEnd and illegalInstruction. -/
def Obligations.StopsAndTraps : Prop :=
  (∀ (s : State) (n : CoreId) (c : CtxId) (w : W64), Issues s n c w 0 →
    (let f := fieldsOf w
     let pc := s.ctxs[c].pc
     (f.op = 0x01 → ∃ t, exec (.halt n w) s = .next t ∧ t.ctxState c = 6 ∧ t.runningOn n ≠ some c ∧ t.ctxs[c].pc = pc + 8 ∧
       t.ctxs[c].handles = s.ctxs[c].handles ∧ t.mem = s.mem ∧ t.flights = s.flights) ∧
     (f.op = 0x02 → exec (.trap n w) s = .next ((s.raise c 0x0D f.imm pc (pc + 8)).pass c 1)) ∧
     (f.op = 0x03 → f.fn = 0 → exec (.yield n w) s = .next (((s.wentTo c (pc + 8) 0).rotate n c).pass c 1)) ∧
     (f.op = 0x03 → f.fn = 1 → exec (.yieldTaskEnd n w) s =
       .next (((((s.wentTo c (pc + 8) 16).taskBoundary c).rotate n c).pass c 3).pass c 1)))) ∧
  (∀ (s : State) (n : CoreId) (c : CtxId) (w : W64), s.runningOn n = some c → s.mayIssue n c = true → s.settleFetch c false = s →
    s.fetchFaults c false = none → legalWord w 0 = false →
    exec (.illegalInstruction n w) s = .next (s.raise c 0x01 w.toNat s.ctxs[c].pc s.ctxs[c].pc)) ∧
  (∀ (s : State) (c : CtxId) (code info : Nat) (a b : BitVec 48), code < 256 → info < 2 ^ 64 →
    (let t := s.recordExc c code info a.toNat b.toNat
     let i := [c.val]
     (s.reg SO_CTX_EXC.code i = 0 → t.reg SO_CTX_EXC.code i = code ∧ t.reg SO_CTX_INFO.info i = info ∧
       t.reg SO_CTX_EXC.pc_fault i = a.toNat ∧ t.reg SO_CTX_EXC.pc_next i = b.toNat) ∧
     (s.reg SO_CTX_EXC.code i ≠ 0 → t.reg SO_CTX_EXC.more i = min (s.reg SO_CTX_EXC.more i + 1) 255 ∧
       SameRegsBut s t [(SO_CTX_EXC.more, i)]) ∧
     t = { s with csr := t.csr })) ∧
  (∀ (s : State) (c : CtxId) (code info : Nat) (a b : BitVec 48),
    (s.ctxState c = 0 → s.raise c code info a b = s) ∧
    (s.ctxState c = 2 ∨ s.ctxState c = 3 ∨ s.ctxState c = 4 → s.raise c code info a b =
      ((s.recordExc c code info a.toNat b.toNat).setCtx c fun x => { x with owed := x.owed + 1 }).endCtx c .faulting) ∧
    (4 < s.ctxState c ∨ s.ctxState c = 1 → s.raise c code info a b = (s.recordExc c code info a.toNat b.toNat).faultSo c 1)) ∧
  (∀ (s : State) (c : CtxId), s.ctxs[c].owed = 0 → s.ctxState c < 8 →
    (let t := s.endCtx c .halting
     (s.busyCtx c = false → t.ctxState c = 6 ∧ t.ctxs[c].ending = .none) ∧
     (s.busyCtx c = true → t.ctxState c = s.ctxState c ∧ t.ctxs[c].ending = .halting) ∧
     t.ctxs[c].stop = .clear ∧ (s.ctxs[c].late = [] → t.ctxs[c].s = s.ctxs[c].s) ∧ t.mem = s.mem ∧ t.runningOn (s.coreOf c) ≠ some c ∧
     (s.runningOn (s.coreOf c) ≠ some c → SameRegsBut s t [(SO_CTX_STATE.state, [c.val])]))) ∧
  ∀ (s : State) (n : CoreId) (c : CtxId), s.runningOn n = some c →
    (let u := s.setCtx c fun x => { x with quantum := 0 }
     let t := s.rotate n c
     match u.bestOf ((u.readyOn n).filter fun d => decide (d ≠ c ∧ u.ctxs[d].prio = u.ctxs[c].prio)) with
     | none => t = u
     | some d => d ≠ c ∧ t.runningOn n = some d ∧ t.ctxState d = 3 ∧ t.ctxState c = 2 ∧ t.ctxs[c].quantum = 0 ∧ t.mem = s.mem)

/-- R270, R272, R284, R316, R327, R328: a handle-relative load of sound lines gives s[d], zero- or sign-extended, the active lanes of v[d], or t[d], the
bytes of the lines as the context sees them; a store changes exactly the bytes it names, and pc. An invalid handle or an access beyond its lines is an
invalid operand, and a scalar access that is not aligned raises misaligned. Completion: under the conditions on state and operands that its clauses
name, exec answers a next state, which they give, for ldH, stH, vldH, vstH, tld and tst. -/
def Obligations.HandleAccesses : Prop :=
  ∀ (s : State) (n : CoreId) (c : CtxId) (w : W64), Issues s n c w 0 →
    (let f := fieldsOf w
     let h := s.handle c (f.imm % 256)
     let k := 2 ^ (f.fn % 4)
     let o := (s.ctxs[c].getS f.a + BitVec.ofInt 64 (signedOf 24 (f.imm / 256))).toNat
     let line := hLine h (s.ctxs[c].getS f.a).toNat
     let pc := s.ctxs[c].pc + 8
     let m := s.ctxs[c].getP f.pg
     (f.op = 0x20 → hValid h = true → o + k ≤ hBytes h → o % k = 0 → ∀ a, hAddr n h o = some a → s.settleRange a k = s →
       s.poisonedIn a k = false → ∃ (x : Nat) (u : State) (v : W64), Seen s n c (lineNo a) x ∧ u = { s with free := u.free } ∧
         Results u c 6 1 (.s f.d v) pc (exec (.ldH n w) s) ∧
         (f.fn / 4 % 2 = 0 → v.toNat = x / 256 ^ (o % 32) % 256 ^ k) ∧
         (f.fn / 4 % 2 = 1 → v.toInt = signedOf (8 * k) (x / 256 ^ (o % 32)))) ∧
     (f.op = 0x21 → hValid h = true → o + k ≤ hBytes h → o % k = 0 → ∀ a, hAddr n h o = some a →
       exec (.stH n w) s = .next ((((s.stores n c [lineNo a]).writeBytes a (bytesOf k (s.ctxs[c].getS f.d).toNat)).nextPc c 8).pass c 1)) ∧
     (f.op = 0x20 ∨ f.op = 0x21 → hValid h = true → o + k ≤ hBytes h → o % k ≠ 0 →
       exec (if f.op = 0x20 then .ldH n w else .stH n w) s = .next (s.stopped c 0x09 o)) ∧
     (f.op = 0x20 ∨ f.op = 0x21 → hValid h = false ∨ hBytes h < o + k → ∃ x : Nat, x < 256 ∧
       exec (if f.op = 0x20 then .ldH n w else .stH n w) s = .next (({ s with free := s.free + 1 }).stopped c 0x04 (256 * x))) ∧
     (f.op = 0x28 → ∀ l, s.shapeLines c f = some l → (∀ j ∈ l, s.settleRange (spmAddr n j) 32 = s) →
       (∀ j ∈ l, s.poisonedIn (spmAddr n j) 32 = false) → ∃ (rows : List Nat) (u : State) (b v : VecReg),
         rows.length = l.length ∧ (∀ e ∈ l.zip rows, Seen s n c e.1 e.2) ∧ u = { s with free := u.free } ∧
         Results u c (shapeLatency f.fn) 1 (.v f.d b v) pc (exec (.vldH n w) s) ∧
         (f.fn % 4 ≠ 3 → Masked 32 (fun i => m.getLsbD i) b v fun i e =>
           ∃ x, rows[i / 8]? = some x ∧ e = x / 2 ^ (32 * (i % 8)) % 2 ^ 32) ∧
         (f.fn % 4 = 3 → (let z := squareWidth f.fn
           Masked z (fun i => m.getLsbD (z * i / 32)) b v fun i e =>
             ∃ x, rows[i % (256 / z)]? = some x ∧ e = x / 2 ^ (z * (8 * (f.fn / 4 % 2) + i / (256 / z))) % 2 ^ z))) ∧
     (f.op = 0x29 → ∀ l, s.shapeLines c f = some l →
       (let v := s.ctxs[c].v[f.d].toNat
        exec (.vstH n w) s = .next ((((l.zipIdx).foldl (fun u e => u.putLineBytes n e.1
          (if f.fn % 4 = 3 then squareBytes v m.toNat (squareWidth f.fn) (8 * (f.fn / 4 % 2)) e.2 (u.lineNat n e.1)
           else blockBytes v m.toNat e.2)) (s.stores n c l)).nextPc c 8).pass c 1))) ∧
     (f.op = 0x40 → f.fn = 0 → ∀ l, line = some l → s.settleRange (spmAddr n l) 32 = s → s.poisonedIn (spmAddr n l) 32 = false →
       ∃ (x : Nat) (u : State), Seen s n c l x ∧ u = { s with free := u.free } ∧
         Results u c 5 1 (.t (tReg f.d) (BitVec.allOnes 256) (BitVec.ofNat 256 x)) pc (exec (.tld n w) s)) ∧
     (f.op = 0x40 → f.fn = 1 → ∀ l, line = some l → exec (.tst n w) s =
       .next ((((s.stores n c [l]).writeBytes (spmAddr n l) (bytesOf 32 (s.ctxs[c].t[tReg f.d]).toNat)).nextPc c 8).pass c 1)) ∧
     ∀ l : List Nat, (let t := s.stores n c l
       t.mem = s.mem ∧ t.csr = s.csr ∧
         t.ctxs[c] = { s.ctxs[c] with late := s.ctxs[c].late ++ l.map fun j => ⟨2, .line j (s.lineNat n j)⟩ }))

/-- R23, R297, R321, R327, R331, R337: a global load or store, a fence and a csr access whose counter the context may name, whose address is aligned and,
for a load or store, whose lines lie outside CSR space, join the operations under way, one packet for each destination enters the mesh, and pc moves
on; the destination of a load holds a free value until its counter advances. A csr write that the register's rules forbid raises CSR denied and does
nothing. Completion: under the conditions on state and operands that its clauses name, exec answers a next state, which they give, for ldG, vldG,
csrRead, stG, vstG, fence and csrWrite. -/
def Obligations.GlobalIssue : Prop :=
  (∀ (s : State) (n : CoreId) (c : CtxId) (w : W64), Issues s n c w 0 →
    (let f := fieldsOf w
     let a := s.ctxs[c].getS f.a
     let k := 2 ^ (f.fn % 4)
     let ctr : CtrId := Fin.ofNat 64 f.imm
     let ok := s.ctrAllowed n c ctr
     let ce := f.imm / 64 % 2
     let sc : Option CtrId := if ce = 1 then some ctr else none
     let a6 := a + BitVec.ofInt 64 (signedOf 26 (f.imm / 64))
     let a7 := a + BitVec.ofInt 64 (signedOf 25 (f.imm / 128))
     let a8 := a + BitVec.ofInt 64 (signedOf 24 (f.imm / 256))
     let noCsr (x : Nat) : Prop := ∀ o, regionOf s x ≠ .csr o
     let m := s.ctxs[c].getP f.pg
     let lines (x : W64) : Prop := ∀ e ∈ vecLines x.toNat m, noCsr e.2
     let b := if f.fn / 4 % 2 = 1 then 8 else 4
     let loads (i : Instr) (op : FlightOp) (e : Effect) : Prop := ∃ u : Effect, e.like u ∧
       exec i s = .next ((({ s.sent n c op 0 with free := s.free + 1 } : State).give c u).pass c 1)
     (f.op = 0x22 → ok = true → noCsr a6.toNat → a6.toNat % k = 0 →
       loads (.ldG n w) (.load a6 k (decide (f.fn / 4 % 2 = 1)) f.d ctr) (.s f.d 0)) ∧
     (f.op = 0x23 → (ce = 1 → ok = true) → noCsr a7.toNat → a7.toNat % k = 0 → exec (.stG n w) s =
       .next (s.sent n c (.store a7 k (s.ctxs[c].getS f.d) (decide (f.fn / 8 % 2 = 1)) sc))) ∧
     (f.op = 0x2A → ok = true → lines a6 → a6.toNat % 32 = 0 → loads (.vldG n w) (.vload a6 f.d m ctr) (.v f.d (maskBits m) 0)) ∧
     (f.op = 0x2B → (ce = 1 → ok = true) → lines a7 → a7.toNat % 32 = 0 → exec (.vstG n w) s =
       .next (s.sent n c (.vstore a7 s.ctxs[c].v[f.d] m (decide (f.fn / 8 % 2 = 1)) sc))) ∧
     (f.op = 0x04 → ok = true → exec (.fence n w) s = .next ((s.flushBuf (.spm n) fun _ => true).sent n c (.fence ctr))) ∧
     (f.op = 0x43 → f.fn % 2 = 0 → ok = true → a8.toNat % b = 0 → loads (.csrRead n w) (.csrRead a8.toNat b f.d ctr) (.s f.d 0)) ∧
     (f.op = 0x43 → f.fn % 2 = 1 → ok = true → a8.toNat % b = 0 →
       (let v := s.ctxs[c].getS f.b
        (s.csrDenied (.ctx c) a8.toNat b v.toNat = false → exec (.csrWrite n w) s = .next (s.sent n c (.csrWrite a8.toNat b v ctr))) ∧
        (s.csrDenied (.ctx c) a8.toNat b v.toNat = true → exec (.csrWrite n w) s = .next (s.stopped c 0x0C a8.toNat)))))) ∧
  ∀ (s : State) (c : CtxId) (e : Effect), s.clashes c e.namedBy = false → s.give c e = s.setCtx c fun x => x.put e

/-- R315, R316, R332, R333: integer vector instructions act on each active lane as Table 12-8 says and leave the inactive ones; a comparison writes the
predicate bits of active lanes and requires es = 2; floating-point lanes are rounded once to the element format. Completion: under the conditions on
state and operands that its clauses name, exec answers a next state, which they give, for valu, vcmp, vfalu and vfcmp. -/
def Obligations.VectorLanes : Prop :=
  ∀ (s : State) (n : CoreId) (c : CtxId) (w : W64), Issues s n c w 0 →
    (let f := fieldsOf w
     let x := s.ctxs[c]
     let m := x.getP f.pg
     let k := 8 * 2 ^ f.es
     let pc := x.pc + 8
     let g := if f.es = 0 then bf16 else if f.es = 1 then fp16 else fp32
     let p : Fin 8 := Fin.ofNat 8 f.d.val
     (f.op = 0x30 → ∃ q v, Results s c (if f.fn = 2 then 3 else 2) 1 (.v f.d q v) pc (exec (.valu n w) s) ∧
       Masked k (fun i => m.getLsbD (k * i / 32)) q v fun i e => LaneRule k f.fn (elem k x.v[f.a] i) (elem k x.v[f.b] i) e) ∧
     (f.op = 0x31 → f.es = 2 → ∃ v, Results s c 2 1 (.p p m v) pc (exec (.vcmp n w) s) ∧ ∀ i < 64, m.getLsbD i = true →
       (v.getLsbD i = true ↔ CmpRule f.fn (elem 32 x.v[f.a] i) (elem 32 x.v[f.b] i))) ∧
     (f.op = 0x32 → ∃ q v, Results s c 4 1 (.v f.d q v) pc (exec (.vfalu n w) s) ∧
       Masked g.width (fun i => m.getLsbD (g.width * i / 32)) q v fun i e =>
         (let a := g.read (elem g.width x.v[f.a] i)
          let b := g.read (elem g.width x.v[f.b] i)
          let r := g.read (elem g.width x.v[f.c] i)
          e = g.write (match f.fn with
            | 0 => a.add b
            | 1 => a.add b.neg
            | 2 => a.mul b
            | 3 => (a.mul b).add r
            | 4 => if a.isNan then b else if b.isNan then a else a.pick true b
            | 5 => if a.isNan then b else if b.isNan then a else a.pick false b
            | 6 => a.abs
            | _ => a.neg))) ∧
     (f.op = 0x33 → f.es = 2 → ∃ v, Results s c 2 1 (.p p m v) pc (exec (.vfcmp n w) s) ∧ ∀ i < 64, m.getLsbD i = true →
       v.getLsbD i =
         (let a := fp32.read (elem 32 x.v[f.a] i)
          let b := fp32.read (elem 32 x.v[f.b] i)
          match f.fn with
          | 0 => a.eq b
          | 1 => a.lt b
          | 2 => a.lt b || a.eq b
          | _ => a.isNan || b.isNan)) ∧
     (f.op = 0x31 ∨ f.op = 0x33 → f.es ≠ 2 → ∃ j : Nat, j < 256 ∧ exec (if f.op = 0x31 then .vcmp n w else .vfcmp n w) s =
       .next (({ s with free := s.free + 1 }).stopped c 0x04 (256 * j))))

/-- R141, R332, R334: conversion, reduction, permutation and draw. A part converts the elements that R334 numbers and leaves the others; a reduction takes
the active lanes alone. Which lanes vperm fn 5 writes is the model's choice (log entry 15), and a result for which the manual gives no rule (a lane
that does not exist, the least of no lane) is a free value. Completion: under the conditions on state and operands that its clauses name, exec answers
a next state, which they give, for vcvt, vred, vperm and vdraw. -/
def Obligations.VectorMoves : Prop :=
  ∀ (s : State) (n : CoreId) (c : CtxId) (w : W64), Issues s n c w 0 →
    (let f := fieldsOf w
     let x := s.ctxs[c]
     let m := x.getP f.pg
     let k := 8 * 2 ^ f.es
     let l := 2048 / k
     let on (i : Nat) : Bool := m.getLsbD (k * i / 32)
     let sa := (x.getS f.a).toNat
     let sb := (x.getS f.b).toNat
     let pc := x.pc + 8
     (f.op = 0x34 → f.b.val ≤ 7 → f.c.val ≤ 7 →
       (let p := numOf f.b.val
        let q := numOf f.c.val
        f.fn < max (p.width / q.width) (q.width / p.width) → ∃ b v, Results s c 4 1 (.v f.d b v) pc (exec (.vcvt n w) s) ∧
          (let r := 2048 / p.width
           Masked q.width
             (fun i => m.getLsbD (q.width * i / 32) && (decide (p.width ≤ q.width) || decide (f.fn * r ≤ i ∧ i < (f.fn + 1) * r))) b v
             fun i e => e = (q.put (p.read (elem p.width x.v[f.a]
               (if p.width ≤ q.width then f.fn * (2048 / q.width) + i else i - f.fn * r)))).1))) ∧
     (f.op = 0x34 → 7 < f.b.val ∨ 7 < f.c.val ∨ max ((numOf f.b.val).width / (numOf f.c.val).width)
         ((numOf f.c.val).width / (numOf f.b.val).width) ≤ f.fn → BadOperand s c 0 (exec (.vcvt n w) s)) ∧
     (f.op = 0x35 → f.fn = 0 → ∃ v : W64, Results s c 8 1 (.s f.d v) pc (exec (.vred n w) s) ∧
       v = BitVec.ofInt 64 ((List.range l).map fun i => if on i = true then signedOf k (elem k x.v[f.a] i) else 0).sum) ∧
     (f.op = 0x35 → f.fn = 1 ∨ f.fn = 2 → (∃ i < l, on i = true) → ∃ v : W64, Results s c 8 1 (.s f.d v) pc (exec (.vred n w) s) ∧
       (∃ i < l, on i = true ∧ v.toInt = signedOf k (elem k x.v[f.a] i)) ∧
       ∀ i < l, on i = true → if f.fn = 1 then v.toInt ≤ signedOf k (elem k x.v[f.a] i) else signedOf k (elem k x.v[f.a] i) ≤ v.toInt) ∧
     (f.op = 0x35 → ∀ v, vredOp f.fn f.es m x.v[f.a] = some v → Results s c 8 1 (.s f.d v) pc (exec (.vred n w) s)) ∧
     (f.op = 0x35 → vredOp f.fn f.es m x.v[f.a] = none →
       ∃ v : W64, Results { s with free := s.free + 1 } c 8 1 (.s f.d v) pc (exec (.vred n w) s)) ∧
     (f.op = 0x36 → f.fn = 0 ∨ f.fn = 3 ∨ f.fn = 4 → ∃ b v, Results s c 3 1 (.v f.d b v) pc (exec (.vperm n w) s) ∧
       Masked k on b v fun i e => e =
         if f.fn = 0 then sa % 2 ^ k else if f.fn = 3 then elem k x.v[f.a] (elem k x.v[f.b] i % l)
         else if sb ≤ i then elem k x.v[f.a] (i - sb) else 0) ∧
     (f.op = 0x36 → f.fn = 1 → sb < l → ∃ v : W64, v.toNat = elem k x.v[f.a] sb ∧ Results s c 3 1 (.s f.d v) pc (exec (.vperm n w) s)) ∧
     (f.op = 0x36 → f.fn = 1 → l ≤ sb → ∃ v : W64, Results { s with free := s.free + 1 } c 3 1 (.s f.d v) pc (exec (.vperm n w) s)) ∧
     (f.op = 0x36 → f.fn = 2 → sb < l → ∃ b v, Results s c 3 1 (.v f.d b v) pc (exec (.vperm n w) s) ∧
       Masked k (fun i => on i && decide (i = sb)) b v fun _ e => e = sa % 2 ^ k) ∧
     (f.op = 0x36 → f.fn = 2 → l ≤ sb → ∃ b v, Results { s with free := s.free + 1 } c 3 1 (.v f.d b v) pc (exec (.vperm n w) s) ∧
       Masked k on b v fun _ _ => True) ∧
     (f.op = 0x36 → f.fn = 5 → ∃ b v, Results s c 3 1 (.v f.d b v) pc (exec (.vperm n w) s) ∧
       (let q := ((List.range l).filter on).map (elem k x.v[f.a])
        Masked k (fun _ => true) b v fun i e => e = q.getD i 0)) ∧
     (f.op = 0x37 → f.es = 2 → ∃ b v, Results s c 4 1 (.v f.d b v) pc (exec (.vdraw n w) s) ∧
       Masked 32 (fun i => m.getLsbD i) b v fun i e => e = (drawOf s.salt (x.getS f.c) (sa % 256) (sb + i)).toNat / 2 ^ 32) ∧
     (f.op = 0x37 → f.es ≠ 2 → ∃ j : Nat, j < 256 ∧ exec (.vdraw n w) s = .next (({ s with free := s.free + 1 }).stopped c 0x04 (256 * j))))

/-- R276, R332, R335, R336: pop on whole registers; tile words; handle entries, whose windows close before they change; windows. Completion: under the
conditions on state and operands that its clauses name, exec answers a next state, which they give, for tget, hget, pop, tset, hset, hinv, winOpen and
winClose. -/
def Obligations.PredicatesTilesWindows : Prop :=
  ∀ (s : State) (n : CoreId) (c : CtxId) (w : W64), Issues s n c w 0 →
    (let f := fieldsOf w
     let x := s.ctxs[c]
     let p := x.getP (Fin.ofNat 8 f.a.val)
     let q := x.getP (Fin.ofNat 8 f.b.val)
     let h := f.imm % 256
     let j := f.imm % 4
     let k : Fin 8 := Fin.ofNat 8 f.imm
     let i := [n.val, k.val]
     let pc := x.pc + 8
     let gives (v : W64) (lat : Nat) (g : Instr) : Prop := Results s c lat 1 (.s f.d v) pc (exec g s)
     (f.op = 0x38 → f.fn ≤ 5 → ∃ v, Results s c 1 1 (.p (Fin.ofNat 8 f.d.val) (BitVec.allOnes 64) v) pc (exec (.pop n w) s) ∧ ∀ i < 64, v.getLsbD i =
       (match f.fn with
        | 0 => p.getLsbD i && q.getLsbD i
        | 1 => p.getLsbD i || q.getLsbD i
        | 2 => p.getLsbD i != q.getLsbD i
        | 3 => p.getLsbD i && !q.getLsbD i
        | 4 => !p.getLsbD i
        | _ => (x.getS f.a).getLsbD i)) ∧
     (f.op = 0x38 → f.fn = 6 → gives p 1 (.pop n w)) ∧
     (f.op = 0x38 → f.fn = 7 → ∃ v : W64, gives v 1 (.pop n w) ∧ v.toNat ≤ 64 ∧
       (∀ b < v.toNat, p.getLsbD b = false) ∧ (v.toNat < 64 → p.getLsbD v.toNat = true)) ∧
     (f.op = 0x38 → f.fn = 8 → ∃ v : W64, gives v 1 (.pop n w) ∧
       v.toNat = (List.range 64).countP fun b => p.getLsbD b) ∧
     (f.op = 0x40 → f.fn = 2 → ∃ m v : BitVec 256, Results s c 1 1 (.t (tReg f.d) m v) pc (exec (.tset n w) s) ∧
       ∀ b < 256, m.getLsbD b = decide (b / 64 = j) ∧ (b / 64 = j → v.getLsbD b = (x.getS f.a).getLsbD (b % 64))) ∧
     (f.op = 0x40 → f.fn = 3 → ∃ v : W64, gives v 1 (.tget n w) ∧
       ∀ b < 64, v.getLsbD b = (x.t[tReg f.a]).getLsbD (64 * j + b)) ∧
     (f.op = 0x41 → f.fn = 1 → ∃ v : W64, gives v 2 (.hget n w) ∧
       ∀ b < 64, v.getLsbD b = (x.handles[Fin.ofNat 256 h]).getLsbD (64 * f.a.val + b)) ∧
     (f.op = 0x41 → f.fn = 0 → (let v := x.getS f.b ++ x.getS f.a
       (v.getLsbD 127 = false → exec (.hset n w) s = .next ((((s.closeOn n c h).putHandle c h v).nextPc c 8).pass c 1)) ∧
       (v.getLsbD 127 = true → s.handleOk n c v = true →
         exec (.hset n w) s = .next (((((s.closeOn n c h).makeBuffer n c v).putHandle c h v).nextPc c 8).pass c 1)) ∧
       (v.getLsbD 127 = true → s.handleOk n c v = false → ∃ b : Nat, b < 256 ∧
         exec (.hset n w) s = .next (({ s with free := s.free + 1 }).stopped c 0x04 (256 * b))))) ∧
     (f.op = 0x41 → f.fn = 2 → ∃ t, exec (.hinv n w) s = .next t ∧ hValid (t.handle c h) = false ∧
       (∀ b < 127, (t.handle c h).getLsbD b = (s.handle c h).getLsbD b) ∧ t.ctxs[c].pc = x.pc + 8 ∧
       ∀ b : Fin 8, s.reg SPM_WIN.open [n.val, b.val] = 1 → s.cores[n].winOwner[b] = c → s.reg SPM_WIN.handle [n.val, b.val] = h →
         t.reg SPM_WIN.open [n.val, b.val] = 0) ∧
     (f.op = 0x42 → f.fn = 0 → s.reg SPM_WIN.open i = 0 → hValid (s.handle c (f.imm / 256 % 256)) = true →
       s.winOverlap n (s.handle c (f.imm / 256 % 256)) = false → s.ctrAllowed n c (Fin.ofNat 64 (f.imm / 65536 % 64)) = true →
       ∃ t, exec (.winOpen n w) s = .next t ∧ t.reg SPM_WIN.open i = 1 ∧ t.reg SPM_WIN.core_mask i = (x.getS f.a).toNat % 2 ^ 32 ∧
         t.reg SPM_WIN.handle i = f.imm / 256 % 256 ∧ t.reg SPM_WIN.counter i = f.imm / 65536 % 64 ∧
         t.reg SPM_WIN.rd i = f.imm / 2 ^ 24 % 2 ∧ t.reg SPM_WIN.wr i = f.imm / 2 ^ 25 % 2 ∧ t.reg SPM_WIN.ext i = f.imm / 2 ^ 26 % 2 ∧
         t.reg SPM_WIN.part_mask i = f.imm / 2 ^ 28 % 16 ∧ t.reg SPM_WIN.slot i = s.reg SO_CTX_STATE.slot [c.val] % 4 ∧ t.cores[n].winOwner[k] = c ∧
         SameRegsBut s t [(SPM_WIN.open, i), (SPM_WIN.core_mask, i), (SPM_WIN.handle, i), (SPM_WIN.counter, i), (SPM_WIN.rd, i),
           (SPM_WIN.wr, i), (SPM_WIN.ext, i), (SPM_WIN.part_mask, i), (SPM_WIN.slot, i)] ∧
         t = { s with
           csr := t.csr, cores := s.cores.set n { s.cores[n] with winOwner := s.cores[n].winOwner.set k c }
           ctxs := s.ctxs.set c (({ x with pc := pc, late := x.late ++ [⟨4, .window k⟩] } : Ctx).pass 1) }) ∧
     (f.op = 0x42 → f.fn = 1 → s.reg SPM_WIN.open i = 0 → exec (.winClose n w) s = .next (s.wentTo c (x.pc + 8))) ∧
     (f.op = 0x42 → f.fn = 1 → s.reg SPM_WIN.open i ≠ 0 → s.cores[n].winOwner[k] = c → ∃ t, exec (.winClose n w) s = .next t ∧
       t.reg SPM_WIN.open i = 0 ∧ t.ctxs[c].pc = x.pc + 8))

/-- R297 to R299, R338, R339: object instructions join the operations under way, and with d ≠ 0 the context waits for the result; a wait is registered
with its target and expiry; a wait on a counter that is met goes on with s[d] = 0; a counter takes or gives its value. A denied object raises SO
denied, and a number of 16,384 or more is an invalid operand. Completion: under the conditions on state and operands that its clauses name, exec
answers a next state, which they give, for soRead, soAdd, soSig, waitSo, waitCtr, ctrSet and ctrRead. -/
def Obligations.SyncIssue : Prop :=
  ∀ (s : State) (n : CoreId) (c : CtxId) (w : W64), Issues s n c w 0 → s.ctxState c = 3 →
    (let f := fieldsOf w
     let x := s.ctxs[c]
     let o := (x.getS f.a).toNat + f.imm % 16384
     let us := f.imm / 16384 % 2 ^ 18
     let e : Option Nat := if us = 0 then none else some (s.clk.tclk + 250 * us)
     let k : CtrId := Fin.ofNat 64 f.imm
     let i := [n.val, k.val]
     let pc := x.pc + 8
     let sync (j : Fin 3) : Instr := if j.val = 0 then .soRead n w else if j.val = 1 then .soAdd n w else .soSig n w
     let kind (j : Fin 3) : SoKind := if j.val = 0 then .read else if j.val = 1 then .add else .signal
     (∀ j : Fin 3, f.op = 0x48 → f.fn = j.val → ∀ h : o < 16384, s.soPermits (s.partOf (.ctx c)) o = true →
       (if f.d.val = 0 ∨ j.val = 2 then
         exec (sync j) s = .next (if j.val = 0 then s.wentTo c (x.pc + 8)
           else s.sent n c (.so (kind j) ⟨o, h⟩ (x.getS f.b)))
       else
         ∃ t, exec (sync j) s = .next t ∧ t.ctxState c = 4 ∧ t.ctxs[c].stop = .result s.stamp f.d none ∧ t.ctxs[c].pc = pc ∧
           t.flights = s.flights ++ [⟨s.stamp, c, n, x.pc, .so (kind j) ⟨o, h⟩ (if j.val = 0 then 0 else x.getS f.b), s.fclk⟩] ∧
           (x.late = [] → t.ctxs[c].s = x.s) ∧ t.mem = s.mem)) ∧
     (f.op = 0x49 → ∀ h : o < 16384, s.soPermits (s.partOf (.ctx c)) o = true → exec (.waitSo n w) s =
       .next ((s.sent n c (.register ⟨o, h⟩) 0).setCtx c fun r =>
         ({ r with stop := .object ⟨o, h⟩ (x.getS f.b) f.d e (.sent s.stamp) } : Ctx).pass 1)) ∧
     (∀ g ∈ [Instr.soRead n w, .soAdd n w, .soSig n w, .waitSo n w], o < 16384 → s.soPermits (s.partOf (.ctx c)) o = false →
       ((g = .waitSo n w → f.op = 0x49) ∧ (g = .soRead n w → f.op = 0x48 ∧ f.fn = 0) ∧ (g = .soAdd n w → f.op = 0x48 ∧ f.fn = 1) ∧
         (g = .soSig n w → f.op = 0x48 ∧ f.fn = 2)) → exec g s = .next (s.stopped c 0x0A o)) ∧
     (f.op = 0x4A → s.ctrAllowed n c k = true →
       (let d := (s.reg SPM_ARRIVAL.count i + 2 ^ 32 - (x.getS f.b).toNat % 2 ^ 32) % 2 ^ 32
        (d < 2 ^ 31 → Results s c 1 2 (.s f.d 0) pc (exec (.waitCtr n w) s)) ∧
        (2 ^ 31 ≤ d → ∃ t, exec (.waitCtr n w) s = .next t ∧ t.ctxState c = 4 ∧
          t.ctxs[c].stop = .counter k ((x.getS f.b).setWidth 32) f.d e ∧ t.ctxs[c].pc = pc ∧ (x.late = [] → t.ctxs[c].s = x.s) ∧ t.mem = s.mem))) ∧
     (f.op = 0x4B → f.fn = 0 → s.ctrAllowed n c k = true → exec (.ctrSet n w) s =
       .next ((((s.setReg SPM_ARRIVAL.count i (x.getS f.b).toNat).judgeCtrs n k).nextPc c 8).pass c 1)) ∧
     (f.op = 0x4B → f.fn = 1 → s.ctrAllowed n c k = true →
       Results s c 1 1 (.s f.d (BitVec.ofNat 64 (s.reg SPM_ARRIVAL.count i))) pc (exec (.ctrRead n w) s)) ∧
     (s.ctrAllowed n c k = false → ∀ g ∈ [Instr.waitCtr n w, .ctrSet n w, .ctrRead n w],
       ((g = .waitCtr n w → f.op = 0x4A) ∧ (g = .ctrSet n w → f.op = 0x4B ∧ f.fn = 0) ∧ (g = .ctrRead n w → f.op = 0x4B ∧ f.fn = 1)) →
       BadOperand s c 0 (exec g s)))

/-! ### Contexts, scheduling and objects by command (chapters 2 and 11) -/

/-- R290, R292, R294, R309: the registers that bind, kill and resume contexts and allot counter groups, written whole by an agent that may write them. A
context's state follows Table 11-3, and a command in a state that does not take it changes no state. Completion: under the conditions on state and
operands that its clauses name, exec answers a next state, which they give, for ctxCfgWrite, ctxBind, ctxKill, ctxResume and ctrGrpWrite. -/
def Obligations.ContextCommands : Prop :=
  (∀ (s : State) (a : Agent) (c : CtxId) (v : W64), P0Agent s a → NotRunning s c →
    (let i := [c.val]
     let st := s.ctxState c
     let n := s.coreOf c
     ∃ t, exec (.ctxCfgWrite a c .whole v) s = .next t ∧ (s.slotOf n c = none ∨ v.toNat % 32 = n.val → t.mem = s.mem) ∧
       (st = 0 ∨ st = 1 ∨ st = 6 → v.toNat % 32 ≠ n.val → ∀ k, s.slotOf n c = some k → t.cores[n].slots[k] = none ∧ t.ctxs[c].swapped = true) ∧
       (st = 0 ∨ st = 1 ∨ st = 6 →
         t.reg SO_CTX_CFG.core i = v.toNat % 32 ∧ t.reg SO_CTX_CFG.part i = v.toNat / 2 ^ 8 % 4 ∧
         t.reg SO_CTX_CFG.en i = v.toNat / 2 ^ 12 % 2 ∧ t.reg SO_CTX_CFG.save_off i = v.toNat / 2 ^ 14 % 2 ^ 12 ∧
         t.ctxState c = if v.toNat / 2 ^ 12 % 2 = 0 then 0 else if st = 0 then 1 else st) ∧
       (st ≠ 0 → st ≠ 1 → st ≠ 6 → t = { s with halves := t.halves }))) ∧
  (∀ (s : State) (a : Agent) (c : CtxId) (v : W64), OwnerAgent s a c → Quiet s → v.getLsbD 63 = true →
    (let i := [c.val]
     let st := s.ctxState c
     ∃ t, exec (.ctxBind a c .whole v) s = .next t ∧
       (st = 1 ∨ st = 5 ∨ st = 6 →
         t.ctxs[c].pc.toNat = v.toNat / 8 % 2 ^ 45 * 8 ∧ t.ctxs[c].prio = v.toNat / 2 ^ 48 % 8 ∧ t.ctxs[c].stop = .clear ∧
         t.ctxs[c].ending = .none ∧ (∀ r : Fin 32, t.ctxs[c].s[r] = 0) ∧ (∀ r : Fin 8, t.ctxs[c].p[r] = 0) ∧
         (∀ r : Fin 16, t.ctxs[c].t[r] = 0) ∧ t.reg SO_CTX_EXC.code i = 0 ∧ (t.ctxState c = 2 ∨ t.ctxState c = 3) ∧
         ∀ h : Fin 256, hPin s.ctxs[c].handles[h] = false → hValid t.ctxs[c].handles[h] = false) ∧
       (st ≠ 1 → st ≠ 5 → st ≠ 6 → t.reg SO_CTX_STATE.bind_err i = 1 ∧ t.ctxState c = st ∧ t.ctxs = s.ctxs ∧ t.mem = s.mem ∧
         SameRegsBut s t [(SO_CTX_STATE.bind_err, i), (SO_CTX_BIND.prog, i), (SO_CTX_BIND.prio, i)]))) ∧
  (∀ (s : State) (a : Agent) (c : CtxId) (v : W64), OwnerAgent s a c → s.ctxs[c].owed = 0 →
    (let st := s.ctxState c
     ∃ t, exec (.ctxKill a c .whole v) s = .next t ∧ t.mem = s.mem ∧
       (st = 5 → t.ctxState c = 6) ∧ (st = 0 ∨ st = 1 ∨ st = 6 → t.ctxState c = st ∧ t.ctxs = s.ctxs) ∧
       (st = 2 ∨ st = 3 ∨ st = 4 → if s.busyCtx c = true then t.ctxs[c].ending = .halting ∧ t.ctxState c = st else t.ctxState c = 6))) ∧
  (∀ (s : State) (a : Agent) (c : CtxId) (v : W64), OwnerAgent s a c → v.getLsbD 62 = false →
    (let i := [c.val]
     let st := s.ctxState c
     ∃ t, exec (.ctxResume a c .whole v) s = .next t ∧ t.mem = s.mem ∧
       (st = 5 → t.ctxs[c].pc.toNat = s.reg SO_CTX_EXC.pc_next i % 2 ^ 48 ∧ t.reg SO_CTX_EXC.code i = 0 ∧
         (t.ctxState c = 2 ∨ t.ctxState c = 3) ∧ t.ctxs[c].s = s.ctxs[c].s ∧ t.ctxs[c].handles = s.ctxs[c].handles) ∧
       (st ≠ 5 → t.ctxs = s.ctxs ∧ t.ctxState c = st ∧ t.reg SO_CTX_EXC.code i = s.reg SO_CTX_EXC.code i))) ∧
  ∀ (s : State) (a : Agent) (n : CoreId) (g : Fin 8) (v : BitVec 32), P0Agent s a → s.corePowered n = true →
    (let i := [n.val, g.val]
     ∃ t, exec (.ctrGrpWrite a n g v) s = .next t ∧ t = { s with csr := t.csr, halves := t.halves } ∧
       ((∀ k : Fin 8, s.reg SPM_WIN.open [n.val, k.val] ≠ 0 → s.reg SPM_WIN.counter [n.val, k.val] / 8 ≠ g.val) →
         t.reg CORE_CTR_GRP.assigned i = v.toNat / 2 ^ 15 % 2 ∧ t.reg CORE_CTR_GRP.shared i = v.toNat / 2 ^ 14 % 2 ∧
         t.reg CORE_CTR_GRP.ctx i = v.toNat % 256) ∧
       (∀ k : Fin 8, s.reg SPM_WIN.open [n.val, k.val] ≠ 0 → s.reg SPM_WIN.counter [n.val, k.val] / 8 = g.val →
         v.getLsbD 15 = false → t.csr = s.csr) ∧
       SameRegsBut s t [(CORE_CTR_GRP.assigned, i), (CORE_CTR_GRP.shared, i), (CORE_CTR_GRP.ctx, i)])

/-- R55 to R57: a core runs a ready resident context of the highest priority; a used quantum rotates among equals; a higher priority takes the core; a
ready context without a slot becomes resident in the lowest free one, and is otherwise left where none of the core's contexts makes room. Cores on
which the model's time passes are advanced first. Completion: under the conditions on state and operands that its clauses name, exec answers a next
state, which they give, for quantumExpiry, contextSwitch and contextSwap. -/
def Obligations.Scheduling : Prop :=
  (∀ (s : State) (dt : Nat) (n : CoreId) (c : CtxId), (s.advance dt).runningOn n = some c →
    (let u := s.advance dt
     let q := max 100 (u.reg CORE_SCHED.quantum_us [n.val]) * 900 * 10
     (q ≤ u.ctxs[c].quantum → exec (.quantumExpiry dt n) s = .next (u.rotate n c)) ∧
     (u.ctxs[c].quantum < q → exec (.quantumExpiry dt n) s = .next u))) ∧
  (∀ (s : State) (n : CoreId) (c : CtxId), s.runningOn n = some c →
    (let up := (s.readyOn n).filter fun d => decide (s.ctxs[c].prio < s.ctxs[d].prio)
     ∃ t, exec (.contextSwitch n) s = .next t ∧ t.mem = s.mem ∧ (up = [] → t = s) ∧
       (up ≠ [] → ∃ d ∈ up, t.runningOn n = some d ∧ t.ctxState d = 3 ∧ t.ctxState c = 2 ∧ ∀ e ∈ up, s.ctxs[e].prio ≤ s.ctxs[d].prio))) ∧
  (∀ (s : State) (n : CoreId), s.cores[n].run = none →
    ∃ t, exec (.contextSwitch n) s = .next t ∧ (s.readyOn n = [] → t = s) ∧
      (s.readyOn n ≠ [] → ∃ d ∈ s.readyOn n, t.runningOn n = some d ∧ t.ctxState d = 3 ∧ ∀ e ∈ s.readyOn n, s.ctxs[e].prio ≤ s.ctxs[d].prio)) ∧
  ∀ (s : State) (c : CtxId), s.ctxState c = 2 → s.slotOf (s.coreOf c) c = none → s.corePowered (s.coreOf c) = true →
    (let n := s.coreOf c
     (∀ k : Fin 4, s.cores[n].slots[k] = none → (∀ j : Fin 4, j < k → s.cores[n].slots[j] ≠ none) → s.ctxs[c].swapped = false →
       ∃ t, exec (.contextSwap c) s = .next t ∧ t.cores[n].slots = s.cores[n].slots.set k (some c) ∧ t.ctxs[c].spm = n ∧
         t.reg SO_CTX_STATE.resident [c.val] = 1 ∧ t.reg SO_CTX_STATE.slot [c.val] = k.val ∧
         ((∀ h : Fin 256, s.pinFails n c s.ctxs[c].handles[h] = false) → t.mem = s.mem ∧ t.ctxs[c].handles = s.ctxs[c].handles) ∧
         ∀ h : Fin 256, s.pinFails n c s.ctxs[c].handles[h] = true →
           hValid t.ctxs[c].handles[h] = false ∧ t.reg SPM_STATUS.swapin_drop [n.val] = 1) ∧
     ((∀ k : Fin 4, s.cores[n].slots[k] ≠ none) → s.victimFor n c = none → exec (.contextSwap c) s = .next s) ∧
     ∀ d k, (∀ k : Fin 4, s.cores[n].slots[k] ≠ none) → s.victimFor n c = some d → s.slotOf n d = some k →
       exec (.contextSwap c) s = .next (((s.swapOut n k).swapIn n k c).pickNext n) ∧
       (s.ctxs[d].prio < s.ctxs[c].prio ∨ (s.ctxState d ≠ 2 ∧ s.ctxState d ≠ 3 ∧ s.ctxState d ≠ 4)))

/-- R295, R296, R300, R312: objects written, read, reset and attributed by CSR access. A permitted write signals, so that the value becomes the greater; a
denied access or reset is counted and does nothing else; a permitted reset clears value and arm unless a wait is registered; P0 alone changes owner
and share, the owner alone arm, vector and sat. Completion: under the conditions on state and operands that its clauses name, exec answers a next
state, which they give, for soValueWrite, soValueRead, soReset and soAttrWrite. -/
def Obligations.ObjectRegisters : Prop :=
  (∀ (s : State) (a : Agent) (o : SoId) (v : W64), s.agentLive a = true → s.reg SO_VALUE.value [o.val] < 2 ^ 64 →
    (∀ f ∈ s.flights, f.slice ≠ some (o.val % 32)) →
    (let i := [o.val]
     ∃ t, exec (.soValueWrite a o .whole v) s = .next t ∧
       (s.soPermits (s.partOf a) o.val = true → t.reg SO_VALUE.value i = max (s.reg SO_VALUE.value i) v.toNat) ∧
       (s.soPermits (s.partOf a) o.val = false → SameRegsBut s t [(SO_CTRL.denied_count, [])] ∧
         t.reg SO_CTRL.denied_count = min (s.reg SO_CTRL.denied_count + 1) (2 ^ 32 - 1) ∧
         t = { s with csr := t.csr, halves := t.halves }))) ∧
  (∀ (s : State) (a : Agent) (o : SoId), s.agentLive a = true → s.reg SO_VALUE.value [o.val] < 2 ^ 64 →
    (∀ f ∈ s.flights, f.slice ≠ some (o.val % 32)) →
    ∃ t, exec (.soValueRead a o .whole) s = .next t ∧
      (s.soPermits (s.partOf a) o.val = true → t.reg SO_VALUE.value [o.val] = s.reg SO_VALUE.value [o.val] ∧
        t.out.head? = some (.data a (s.reg SO_VALUE.value [o.val]))) ∧
      (s.soPermits (s.partOf a) o.val = false → t.out = .data a 0 :: s.out ∧ SameRegsBut s t [(SO_CTRL.denied_count, [])] ∧
        t.reg SO_CTRL.denied_count = min (s.reg SO_CTRL.denied_count + 1) (2 ^ 32 - 1))) ∧
  (∀ (s : State) (a : Agent) (v : W64), s.agentLive a = true →
    (let o := v.toNat % 16384
     let may := s.partOf a = 0 ∨ (s.reg SO_ATTR.own_valid [o] ≠ 0 ∧ s.reg SO_ATTR.owner [o] = (s.partOf a).val)
     ∃ t, exec (.soReset a .whole v) s = .next t ∧ t = { s with csr := t.csr, halves := t.halves } ∧
       (may → s.waitedOn o = false → t.reg SO_VALUE.value [o] = 0 ∧ t.reg SO_ATTR.arm [o] = 0) ∧
       (may → s.waitedOn o = true → t.reg SO_VALUE.value [o] = s.reg SO_VALUE.value [o] ∧ t.reg SO_CTRL.reset_err = 1) ∧
       (¬ may → SameRegsBut s t [(SO_CTRL.denied_count, [])] ∧
         t.reg SO_CTRL.denied_count = min (s.reg SO_CTRL.denied_count + 1) (2 ^ 32 - 1)) ∧
       SameRegsBut s t [(SO_VALUE.value, [o]), (SO_ATTR.arm, [o]), (SO_CTRL.reset_err, []), (SO_CTRL.object, []), (SO_CTRL.denied_count, [])])) ∧
  ∀ (s : State) (a : Agent) (o : SoId) (v : BitVec 32), s.agentLive a = true →
    (let i := [o.val]
     let own := s.reg SO_ATTR.own_valid i ≠ 0 ∧ s.reg SO_ATTR.owner i = (s.partOf a).val
     ∃ t, exec (.soAttrWrite a o v) s = .next t ∧
       (s.partOf a = 0 → t.reg SO_ATTR.own_valid i = v.toNat / 2 ^ 31 ∧ t.reg SO_ATTR.owner i = v.toNat / 2 ^ 28 % 4 ∧
         t.reg SO_ATTR.share i = v.toNat / 2 ^ 24 % 16) ∧
       (s.partOf a ≠ 0 → ¬ own → t.csr = s.csr) ∧
       (own → t.reg SO_ATTR.vector i = v.toNat % 64 ∧ (v.getLsbD 15 = false → t.reg SO_ATTR.arm i = 0)) ∧
       SameRegsBut s t [(SO_ATTR.own_valid, i), (SO_ATTR.owner, i), (SO_ATTR.share, i), (SO_ATTR.arm, i), (SO_ATTR.sat, i), (SO_ATTR.vector, i)])

/-- R277, R295, R297 to R299, R303, R339: an object operation under way executes at the home, in its turn, an add or signal only after the context's
earlier stores; its result reaches the context, which goes on; a registered wait is answered by the value it meets, and one that is not met waits; a
wait that expires ends with 1. Completion: under the conditions on state and operands that its clauses name, exec answers a next state, which they
give, for soOpExecute, soResultArrive, soWaitRegister, soWaitAnswer and waitTimeout. -/
def Obligations.ObjectOperations : Prop :=
  (∀ (s : State) (j : Nat) (f : Flight) (kind : SoKind) (o : SoId) (x : W64), s.flights[j]? = some f → f.op = .so kind o x →
    s.reg SO_VALUE.value [o.val] < 2 ^ 64 →
    (let v := s.reg SO_VALUE.value [o.val]
     (s.behind f = false → kind = .read ∨ (∀ g ∈ s.flights, g.ctx = f.ctx → g.seq < f.seq → g.isStore = false) →
       ∃ t, exec (.soOpExecute j) s = .next t ∧ t.flights = s.flights.filter (fun g => decide (g.seq ≠ f.seq)) ∧
         t.reg SO_VALUE.value [o.val] = (match kind with
           | .read => v
           | .add => min (v + x.toNat) (2 ^ 64 - 1)
           | .signal => max v x.toNat) ∧ t.mem = s.mem) ∧
     (kind ≠ .read → (∃ g ∈ s.flights, g.ctx = f.ctx ∧ g.seq < f.seq ∧ g.isStore = true) → exec (.soOpExecute j) s = .next s) ∧
     (s.behind f = true → exec (.soOpExecute j) s = .next s))) ∧
  (∀ (s : State) (c : CtxId) (q : Nat) (d : Fin 32) (v : W64), s.ctxs[c].stop = .result q d (some v) →
    s.clashes c (Effect.s d v).namedBy = false →
    ∃ t, exec (.soResultArrive c) s = .next t ∧ t.ctxs[c].getS d = (if d.val = 0 then 0 else v) ∧ t.ctxs[c].stop = .clear ∧ t.mem = s.mem ∧
      (s.ctxState c = 4 → t.ctxState c = 2 ∨ t.ctxState c = 3)) ∧
  (∀ (s : State) (c : CtxId) (f : Flight) (o : SoId) (x : W64) (d : Fin 32) (e : Option Nat), s.registration c = some f →
    s.ctxs[c].stop = .object o x d e (.sent f.seq) → f.op = .register o →
    (s.behind f = true → exec (.soWaitRegister c) s = .next s) ∧
    (s.behind f = false → ∃ t, exec (.soWaitRegister c) s = .next t ∧ t.flights = s.flights.filter (fun g => decide (g.seq ≠ f.seq)) ∧
      t.ctxs[c].stop = .object o x d e (.answered (decide (x.toNat ≤ s.reg SO_VALUE.value [o.val]))) ∧ t.mem = s.mem)) ∧
  (∀ (s : State) (c : CtxId) (o : SoId) (x : W64) (d : Fin 32) (e : Option Nat), s.clashes c (Effect.s d 0).namedBy = false →
    (s.ctxs[c].stop = .object o x d e (.answered true) → ∃ t, exec (.soWaitAnswer c) s = .next t ∧ t.ctxs[c].getS d = 0 ∧
      t.ctxs[c].stop = .clear ∧ t.mem = s.mem) ∧
    (s.ctxs[c].stop = .object o x d e (.answered false) → ∃ t, exec (.soWaitAnswer c) s = .next t ∧
      t.ctxs[c].stop = .object o x d e .held ∧ t.ctxState c = 4 ∧ (s.ctxs[c].late = [] → t.ctxs[c].s = s.ctxs[c].s) ∧ t.mem = s.mem)) ∧
  ∀ (s : State) (dt : Nat) (c : CtxId) (e : Nat) (d : Fin 32), (s.advance dt).ctxs[c].stop.expiry = some (e, d) →
    (s.advance dt).clashes c (Effect.s d 1).namedBy = false →
    (let u := s.advance dt
     (e ≤ u.clk.tclk → ∃ t, exec (.waitTimeout dt c) s = .next t ∧ t.ctxs[c].getS d = (if d.val = 0 then 0 else 1) ∧ t.ctxs[c].stop = .clear ∧
       t.mem = u.mem) ∧
     (u.clk.tclk < e → exec (.waitTimeout dt c) s = .next u))

/-- R23 to R25, R27, R301, R329, R331, R337: an operation under way is performed once its packets have left the mesh and none that goes first is under
way: an earlier one of its core to the same destination in the same class, or, at an object's slice, one that reached it earlier or in the same FCLK
from a lower router. A permitted load of sound memory takes the bytes, a permitted store leaves them, a denied one writes nothing and a denied load
gives 0; the counter that the instruction names advances either way. A fence completes once nothing issued before it is under way. A packet's route
goes along x to the destination column, then along y; an output sends the highest class, and a C2 packet that has waited 256 FCLK first. R23 to R25: a
packet travels along x to the destination column and then along y, one router at a time; of the packets that wait at an output one of the highest
class goes first, in one class by turns of the input ports, but before them a C2 packet that has waited 256 FCLK; the one sent is at the next router 3
FCLK later. Completion: under the conditions on state and operands that its clauses name, exec answers a next state, which they give, for
globalAccessComplete, fenceComplete and csrAccessComplete. -/
def Obligations.GlobalCompletion : Prop :=
  ((∀ (s : State) (j : Nat) (host : BitVec 2048) (f : Flight), s.flights[j]? = some f → s.flightHeld f = false → s.behind f = false →
     (let p := s.partOf (.ctx f.ctx)
      let src : Src := .core f.core
      let c := f.ctx
      let u := s.dropFlight f.seq
      let spot (a : W64) : Prop := ∀ n o, regionOf u a.toNat = .spm n o → o < 0x300000
      (∀ a k sgn d ctr, f.op = .load a k sgn d ctr → u.denialAt src p false a.toNat = none → u.settleRange a.toNat k = u →
        u.poisonedIn a.toNat k = false → exec (.globalAccessComplete j host) s =
          .next (((u.give c (.s d (extend k sgn (u.readAt a.toNat k host.toNat)))).advanceCtr f.core ctr).settle c)) ∧
      (∀ a k sgn d ctr r, f.op = .load a k sgn d ctr → u.denialAt src p false a.toNat = some r →
        exec (.globalAccessComplete j host) s = .next (((((u.recordDenial src p r).give c (.s d 0)).advanceCtr f.core ctr).completion
          c (denialExc r a.toNat).1 (denialExc r a.toNat).2 f.pc).settle c)) ∧
      (∀ a k v ctr, f.op = .store a k v false (some ctr) → spot a →
        (let w := u.overwriteAt c a.toNat
         (w.denial src p true a.toNat = none → exec (.globalAccessComplete j host) s =
           .next (((w.writeAt p a.toNat (bytesOf k v.toNat)).advanceCtr f.core ctr).settle c)) ∧
         ∀ r, w.denial src p true a.toNat = some r → exec (.globalAccessComplete j host) s =
           .next ((((w.recordDenial src p r).advanceCtr f.core ctr).completion
             c (denialExc r a.toNat).1 (denialExc r a.toNat).2 f.pc).settle c))) ∧
      (∀ a d m ctr v t, f.op = .vload a d m ctr → u.readLines src p host.toNat (vecLines a.toNat m) = (v, none, none, t) →
        exec (.globalAccessComplete j host) s =
          .next (((t.give c (.v d (maskBits m) (BitVec.ofNat 2048 v))).advanceCtr f.core ctr).settle c)))) ∧
   (∀ (s : State) (j : Nat) (host : BitVec 2048) (f : Flight), s.flights[j]? = some f → s.behind f = true →
     exec (.globalAccessComplete j host) s = .next s) ∧
   (∀ (s : State) (f g : Flight) (d : Nat), g ∈ s.flights → g.seq ≠ f.seq → g.traffic = f.traffic → s.releaseHeld g = false →
     d ∈ s.places g → d ∈ s.places f →
     (g.core = f.core ∧ g.seq < f.seq) ∨
       (300 ≤ d ∧ s.through g.seq = true ∧ (g.since < f.since ∨ (g.since = f.since ∧ g.core < f.core))) → s.behind f = true) ∧
   (∀ (s : State) (j : Nat) (f : Flight) (k : CtrId), s.flights[j]? = some f → f.op = .fence k →
     (s.fenceHeld f.ctx f.seq = true → exec (.fenceComplete j) s = .next s) ∧
     (s.fenceHeld f.ctx f.seq = false → exec (.fenceComplete j) s = .next (((s.dropFlight f.seq).advanceCtr f.core k).settle f.ctx))) ∧
   (∀ (s : State) (j : Nat) (f : Flight), s.flights[j]? = some f → s.behind f = false → s.releaseHeld f = false →
     (∀ off n d k, f.op = .csrRead off n d k →
       (let r := (s.dropFlight f.seq).csrRead (.ctx f.ctx) off n
        exec (.csrAccessComplete j) s = .next (((r.2.give f.ctx (.s d (BitVec.ofNat 64 r.1))).advanceCtr f.core k).settle f.ctx))) ∧
     (∀ off n v k, f.op = .csrWrite off n v k → exec (.csrAccessComplete j) s =
       .next ((((s.dropFlight f.seq).csrWrite (.ctx f.ctx) off n v.toNat).advanceCtr f.core k).settle f.ctx))) ∧
   (∀ (s : State) (n : CoreId) (k : CtrId),
     (s.advanceCtr n k).reg SPM_ARRIVAL.count [n.val, k.val] = (s.reg SPM_ARRIVAL.count [n.val, k.val] + 1) % 2 ^ 32) ∧
   (∀ m n : CoreId, (meshRoute m n).length = meshHops m n + 1 ∧ (meshRoute m n).getLast? = some n ∧
     ∀ r ∈ meshRoute m n, meshY r = meshY m ∨ meshX r = meshX n) ∧
   ∀ (t last : Nat) (l : List Packet) (p : Packet), meshPick t last l = some p →
     p ∈ l ∧ ((p.cls = .c2 ∧ p.due + 256 ≤ t) ∨
       ((∀ q ∈ l, q.cls = .c2 → t < q.due + 256) ∧ (∀ q ∈ l, q.cls = .c0 → p.cls = .c0) ∧ (∀ q ∈ l, q.cls = .c1 → p.cls ≠ .c2)))) ∧
  ((∀ m n : CoreId,
     (let away (a b : Nat) : Nat := (a - b) + (b - a)
      let dx := away (meshX m) (meshX n)
      let dy := away (meshY m) (meshY n)
      let l := meshRoute m n
      l.length = dx + dy + 1 ∧ l.head? = some m ∧ l.getLast? = some n ∧
        ∀ k < l.length, ∃ r, l[k]? = some r ∧ away (meshX r) (meshX n) = dx - k ∧ away (meshY r) (meshY n) = dy - (k - dx))) ∧
   (∀ (t last : Nat) (l : List Packet), last < 6 → l ≠ [] →
     (let rank (c : Traffic) : Nat := match c with
        | .c0 => 0
        | .c1 => 1
        | .c2 => 2
      let turn (p : Packet) : Nat := (portNo p.port + 5 - last) % 6
      let old (p : Packet) : Prop := p.cls = .c2 ∧ p.due + 256 ≤ t
      ∃ p, meshPick t last l = some p ∧ p ∈ l ∧ ((∃ q ∈ l, old q) → old p) ∧
        ((∀ q ∈ l, ¬ old q) → ∀ q ∈ l, rank p.cls ≤ rank q.cls ∧ (q.cls = p.cls → turn p ≤ turn q)))) ∧
   ∀ (s : State) (t : Nat) (p : Packet), s.mesh = [p] → p.due ≤ t → p.loc ≠ p.dst →
     (s.meshCycle t).mesh = [{ p with loc := meshNext p.loc p.out, port := meshCame p.out, due := t + 3 }])

/-! ### Memories (chapters 10 and 15) -/

/-- R379, R386, R392, R399, R401, R403, R404, R406, R53: memory configuration takes only the five configurations; a clear waits for the reads
under recovery in its blocks and takes their valid bits and contents; remap entries; a scrub visit that finds one flipped bit corrects it, in memory and in SRAM that no address reaches, and a parity
copy whose CRC fails is rewritten; bucket leak and maintenance. That firmware's training is an operand of the command is the model's choice (log entry
12). R385: a column of 128 data symbols and its two parity symbols is a codeword; with no erasure named it decodes to itself and so does it with any
one symbol changed; with one or two places named as erasures it decodes to itself whatever stands there. Completion: under the conditions on state and
operands that its clauses name, exec answers a next state, which they give, for memCfgWrite, memZeroStart, memZeroDone, remapWrite, scrubVisit,
bucketLeak, zqLatchDue, retrainDue, maintPauseStart and maintPauseEnd. -/
def Obligations.MemoryMaintenance : Prop :=
  ((∀ (s : State) (a : Agent) (v : BitVec 32) (tr : BitVec 16), P0Agent s a → s.locked = false →
     (let ranks := v.toNat / 64 % 2
      let dens := v.toNat / 16 % 4
      let ok := dens < 3 ∧ ¬ (ranks = 1 ∧ dens = 2) ∧ v.toNat % 8 ≤ 4
      ∃ t, exec (.memCfgWrite a v tr) s = .next t ∧ t.reg MEM_CFG.trained = tr.toNat ∧
        (ok → t.reg MEM_CFG.ranks = ranks ∧ t.reg MEM_CFG.density = dens ∧ t.reg MEM_CFG.rate = v.toNat % 8 ∧
          t.reg MEM_CFG.installed_gib = 16 * (ranks + 1) * 2 ^ dens) ∧
        (¬ ok → t.reg MEM_CFG.ranks = s.reg MEM_CFG.ranks ∧ t.reg MEM_CFG.density = s.reg MEM_CFG.density ∧
          t.reg MEM_CFG.rate = s.reg MEM_CFG.rate ∧ t.reg MEM_CFG.installed_gib = s.reg MEM_CFG.installed_gib ∧
          t.reg MEM_CFG.cfg_err = 1) ∧
        t = { s with csr := t.csr, halves := t.halves })) ∧
   (∀ (s : State) (a : Agent) (v : W64), P0Agent s a → v.getLsbD 63 = true → s.reg MEM_ZERO.busy = 0 →
     ∃ t, exec (.memZeroStart a .whole v) s = .next t ∧ t.reg MEM_ZERO.busy = 1 ∧
       t.zeroing = some (v.toNat % 2 ^ 24, v.toNat / 2 ^ 32 % 2 ^ 24) ∧ t.mem = s.mem) ∧
   (∀ (s : State) (dt b n : Nat), (s.advance dt).zeroing = some (b, n) → (s.advance dt).dataBytes ≤ vaultBase →
     (let u := s.advance dt
      let under := ∃ e ∈ u.recov, 8192 * b ≤ e.2.1 ∧ e.2.1 < 8192 * (b + n)
      (under → exec (.memZeroDone dt) s = .next u) ∧
      (¬ under → ∃ t, exec (.memZeroDone dt) s = .next t ∧ t.reg MEM_ZERO.busy = 0 ∧ t.zeroing = none ∧
        (∀ x, 8192 * b ≤ x → x < 8192 * (b + n) → x < u.dataBytes → t.byteAt x = 0) ∧
        (∀ k, b ≤ k → k < b + n → k ∉ t.valid) ∧
        ∀ x, (x < 8192 * b ∨ 8192 * (b + n) ≤ x) → x < u.dataBytes → t.byteAt x = u.byteAt x))) ∧
   (∀ (s : State) (a : Agent) (g : Fin 16) (i : Fin 32) (v : W64), P0Agent s a → s.flips = [] →
     ∃ t, exec (.remapWrite a true (Fin.ofNat 613 g.val) i .whole v) s = .next t ∧
       t.reg ECC_REMAP_DRAM.valid [g.val, i.val] = v.toNat / 2 ^ 63 ∧ t.reg ECC_REMAP_DRAM.page [g.val, i.val] = v.toNat % 2 ^ 24 ∧
       SameRegsBut s t [(ECC_REMAP_DRAM.valid, [g.val, i.val]), (ECC_REMAP_DRAM.page, [g.val, i.val])] ∧ t.mem = s.mem) ∧
   (∀ (s : State) (a : Agent) (g : Fin 613) (i : Fin 16) (v : W64), P0Agent s a → s.flips = [] →
     ∃ t, exec (.remapWrite a false g (Fin.ofNat 32 i.val) .whole v) s = .next t ∧
       t.reg ECC_REMAP_SRAM.valid [g.val, i.val] = v.toNat / 2 ^ 63 ∧ t.reg ECC_REMAP_SRAM.line [g.val, i.val] = v.toNat % 2 ^ 17 ∧ t.mem = s.mem) ∧
   (∀ (s : State) (dt : Nat) (addr : BitVec 48) (f g : Bool), Quiet (s.advance dt) →
     (let q := s.advance dt
      let w := addr.toNat / 32
      (q.pageFull w = false → exec (.scrubVisit dt (.device addr) ⟨0, f⟩ g) s = .next q) ∧
      (q.pageFull w = true → ∃ t, exec (.scrubVisit dt (.device addr) ⟨0, f⟩ g) s = .next t ∧
        t.mem = q.mem ∧ t.flips = [] ∧ t.poison = [] ∧
        (q.reg ECC_CTRL.scrub_dram_h ≠ 0 → q.wordLive w = true → q.dramHeld (32 * w) = false → q.reg ECC_CTRL.so_en = 0 →
          (q.slot (q.pageSlot (w / 256 * 256))).crcA = true → (q.slot (q.pageSlot (w / 256 * 256))).crcB = false →
          (t.slot (t.pageSlot (w / 256 * 256))).crcB = true)))) ∧
   (∀ (s : State) (dt : Nat) (addr : BitVec 48) (u : BitVec 272), Quiet (s.advance dt) →
     (let q := s.advance dt
      let w := addr.toNat / 32
      (if 32 * w < q.dataBytes then q.reg ECC_CTRL.scrub_dram_h ≠ 0 ∧ q.dramHeld (32 * w) = false ∧ q.pageFull w = false
       else q.reg ECC_CTRL.scrub_sram_min ≠ 0) → q.wordLive w = true → q.diagHeld w = false → q.reg ECC_CTRL.so_en = 0 →
      popCount 272 u.toNat = 1 →
      ∃ t, exec (.scrubVisit dt (.device addr) ⟨u, false⟩ false) s = .next t ∧ t.flips = [] ∧ t.poison = [] ∧ ∀ x, t.byteAt x = q.byteAt x)) ∧
   (∀ (s : State) (dt : Nat) (k : Sram) (u : BitVec 272), Quiet (s.advance dt) → (s.advance dt).sramIsBad k = false →
     (s.advance dt).reg ECC_CTRL.scrub_sram_min ≠ 0 → popCount 272 u.toNat ≤ 1 →
     ∃ t, exec (.scrubVisit dt (.sram k) ⟨u, false⟩ false) s = .next t ∧ t.sram = [] ∧ t.sramBad = [] ∧ t.mem = (s.advance dt).mem) ∧
   (∀ (s : State) (dt : Nat) (u : Fin 128),
     (let q := s.advance dt
      let due := q.leakT + max 1 (q.reg ECC_CTRL.leak_ms) * 250000
      ∃ t, exec (.bucketLeak dt) s = .next t ∧
        (due ≤ q.clk.tclk → t.reg ECC_BUCKET.count [u.val] = (q.reg ECC_BUCKET.count [u.val] - 1) % 256 ∨
          (q.reg ECC_BUCKET.count [u.val] = 0 ∧ t.reg ECC_BUCKET.count [u.val] = 0)) ∧ (q.clk.tclk < due → t = q) ∧ t.mem = q.mem)) ∧
   (∀ (s : State) (dt : Nat),
     (let q := s.advance dt
      (q.zqT + max 1 (q.reg MEM_MAINT.zq_ms) * 250000 ≤ q.clk.tclk → ∃ t, exec (.zqLatchDue dt) s = .next t ∧
        t.reg MEM_STATUS.pending = 0xFFFF ∧ SameRegsBut q t [(MEM_STATUS.pending, [])] ∧ t = { q with csr := t.csr, zqT := t.zqT }) ∧
      (q.trainT + max 1 (q.reg MEM_MAINT.retrain_ms) * 250000 ≤ q.clk.tclk → ∃ t, exec (.retrainDue dt) s = .next t ∧
        t.reg MEM_STATUS.pending = 0xFFFF ∧ SameRegsBut q t [(MEM_STATUS.pending, [])] ∧ t = { q with csr := t.csr, trainT := t.trainT }))) ∧
   ∀ (s : State) (dt : Nat) (c : Fin 16),
     (let q := s.advance dt
      (q.awake = true → bitOf (q.reg MEM_STATUS.pending) c.val = true → bitOf (q.reg MEM_STATUS.paused) c.val = false →
        q.pauseAllowed = true → q.channelBusy c = false → q.reg MEM_STATUS.pending < 65536 → q.reg MEM_STATUS.paused < 65536 →
        ∃ t, exec (.maintPauseStart dt c) s = .next t ∧ bitOf (t.reg MEM_STATUS.paused) c.val = true ∧
          bitOf (t.reg MEM_STATUS.pending) c.val = false ∧
          (∀ d : Fin 16, d ≠ c → bitOf (t.reg MEM_STATUS.paused) d.val = bitOf (q.reg MEM_STATUS.paused) d.val) ∧
          t.reg MEM_STATUS.pause_count = min (q.reg MEM_STATUS.pause_count + 1) (2 ^ 32 - 1)) ∧
      (q.reg MEM_STATUS.paused < 65536 → ∃ t, exec (.maintPauseEnd dt c) s = .next t ∧ bitOf (t.reg MEM_STATUS.paused) c.val = false ∧
        SameRegsBut q t [(MEM_STATUS.paused, [])] ∧ t = { q with csr := t.csr }))) ∧
  (∀ d : List Nat, d.length = 128 → (∀ x ∈ d, x < 256) →
     (let c := d ++ [(parityPair d).1, (parityPair d).2]
      atOne c = 0 ∧ atAlpha c = 0 ∧ (∀ x ∈ c, x < 256) ∧ mendColumn c [] = some c ∧
      ∀ i e : Nat, i < 130 → e < 256 →
        mendColumn (mendAt c i e) [] = some c ∧ mendColumn (mendAt c i e) [i] = some c ∧
        ∀ k f : Nat, k < 130 → k ≠ i → f < 256 → mendColumn (mendAt (mendAt c i e) k f) [i, k] = some c))

/-- R29, R270, R271, R364, R394: a write within one line changes what exactly its bytes read, whether it enters a merge buffer, fills an entry or goes
past it, and whether or not the line is dirty in the L2; the buffer's entries stay in form; writing an old entry back changes what no byte reads.
R261, R268 to R270, R274 to R276: an agent's access to a scratchpad that no window permits writes nothing, reads zero and is recorded; a permitted
write stores its bytes and is counted; a doorbell that passes advances its window's counter; a transfer's end advances the counter; entries held for
64 CCLK are written back; a steal stall is counted; a chunk is not taken from a resident context that holds a handle on it; a window closes.
Completion: under the conditions on state and operands that its clauses name, exec answers a next state, which they give, for remoteAccess,
doorbellWrite, remoteTransferEnd, stealStall, gatherWriteback, chunkOwnWrite and windowCloseWrite. -/
def Obligations.ScratchpadCommands : Prop :=
  ((∀ (s : State) (a : Nat) (bs : List Byte) (b : BufId), Quiet s → s.reg ECC_DIAG.arm = 0 → bufOf s a = some b → BufOk s b → L2Ok s →
     a % 32 + bs.length ≤ 32 →
     (∀ x, (s.writePart a bs).byteAt x = if a ≤ x ∧ x < a + bs.length then bs.getD (x - a) 0 else s.byteAt x) ∧
       BufOk (s.writePart a bs) b ∧ (s.writePart a bs).ctxs = s.ctxs ∧ (s.writePart a bs).out = s.out) ∧
   ∀ (s : State) (b : BufId) (g : Gather), Quiet s → BufOk s b → (s.buf b).getLast? = some g →
     ∀ x, ((s.writeBack b g).setBuf b (s.buf b).dropLast).byteAt x = s.byteAt x) ∧
  ((∀ (s : State) (a : Agent) (n : CoreId) (off : BitVec 22) (k : Nat) (bs : List Byte), s.agentLive a = true → s.dataBytes ≤ vaultBase →
     (let d := spmBase + n.val * 0x400000 + off.toNat
      let i := [n.val]
      (∀ w, s.denialAt (s.srcOf a) (s.partOf a) (decide (bs ≠ [])) d = some (.window n w) →
        ∃ t, exec (.remoteAccess a n off k bs) s = .next t ∧ t.mem = s.mem ∧ t.cores = s.cores ∧
          t.out = (if bs = [] then .data a 0 :: s.out else s.out) ∧ t.reg SPM_STATUS.denied i = 1 ∧
          t.reg SPM_STATUS.denied_count i = min (s.reg SPM_STATUS.denied_count i + 1) (2 ^ 32 - 1) ∧
          t.reg SPM_STATUS.last_src i = srcCode (s.srcOf a) ∧ t.reg SPM_STATUS.last_part i = (s.partOf a).val ∧
          t.reg SPM_STATUS.last_nowin i = (if w = none then 1 else 0)) ∧
      (s.denialAt (s.srcOf a) (s.partOf a) true d = none → bs ≠ [] → off.toNat < 0x300000 →
        exec (.remoteAccess a n off k bs) s =
          .next ((s.writeBytes d (bs.take (inWord d bs.length))).bump SPM_PERF.count [n.val, 3])) ∧
      (s.denialAt (s.srcOf a) (s.partOf a) false d = none → bs = [] → Quiet s →
        exec (.remoteAccess a n off k bs) s = .next (s.emit (.data a (s.readNat d (inWord d k))))))) ∧
   (∀ (s : State) (a : Agent) (n : CoreId) (w : Fin 8) (v : W64), s.agentLive a = true → s.dataBytes ≤ vaultBase →
     (s.winOpen n w = true → s.reg SPM_WIN.wr [n.val, w.val] ≠ 0 → s.winPasses n w (s.srcOf a) (s.partOf a) = true →
       exec (.doorbellWrite a n w v) s = .next (s.advanceCtr n (Fin.ofNat 64 (s.reg SPM_WIN.counter [n.val, w.val])))) ∧
     (s.winOpen n w = false → ∃ t, exec (.doorbellWrite a n w v) s = .next t ∧ t = { s with csr := t.csr } ∧
       t.reg SPM_STATUS.denied [n.val] = 1 ∧ t.reg SPM_STATUS.last_nowin [n.val] = 1 ∧
       ∀ c : CtrId, t.reg SPM_ARRIVAL.count [n.val, c.val] = s.reg SPM_ARRIVAL.count [n.val, c.val])) ∧
   (∀ (s : State) (n : CoreId) (k : CtrId) (l : List (CoreId × CtrId)), s.ends = (n, k) :: l →
     exec .remoteTransferEnd s = .next (({ s with ends := l }).advanceCtr n k)) ∧
   (∀ (s : State) (n : CoreId), exec (.stealStall n) s = .next (s.bump SPM_PERF.count [n.val, 0])) ∧
   (∀ (s : State) (dt : Nat) (n : CoreId),
     (let u := s.advance dt
      ∃ t, exec (.gatherWriteback dt n) s = .next t ∧
        t.buf (.spm n) = (u.buf (.spm n)).filter (fun g => decide (u.cycles n < g.since + 64)) ∧
        (Quiet u → BufOk u (.spm n) → ∀ x, t.byteAt x = u.byteAt x))) ∧
   (∀ (s : State) (a : Agent) (n : CoreId) (c : Fin 48) (v : BitVec 32), P0Agent s a → s.corePowered n = true →
     (let i := [n.val, c.val]
      ∃ t, exec (.chunkOwnWrite a n c v) s = .next t ∧ t = { s with csr := t.csr, halves := t.halves } ∧
        ((∀ x : CtxId, some x ∈ s.cores[n].slots.toList → ∀ h ∈ s.ctxs[x].handles.toList, hValid h = true →
            c.val ∉ chunksOf (hBase h) (hLines h)) →
          t.reg SPM_CHUNK_OWN.assigned i = v.toNat / 2 ^ 15 % 2 ∧ t.reg SPM_CHUNK_OWN.shared i = v.toNat / 2 ^ 14 % 2 ∧
          t.reg SPM_CHUNK_OWN.ctx i = v.toNat % 256) ∧
        ((∃ x : CtxId, some x ∈ s.cores[n].slots.toList ∧ ∃ h ∈ s.ctxs[x].handles.toList, hValid h = true ∧
            c.val ∈ chunksOf (hBase h) (hLines h)) → v.getLsbD 15 = false →
          t.reg SPM_STATUS.own_err [n.val] = 1 ∧ SameRegsBut s t [(SPM_STATUS.own_err, [n.val])]))) ∧
   ∀ (s : State) (a : Agent) (n : CoreId) (w : Fin 8) (v : W64), P0Agent s a → s.corePowered n = true →
     ∃ t, exec (.windowCloseWrite a n w .whole v) s = .next t ∧ t.reg SPM_WIN.open [n.val, w.val] = 0 ∧
       (s.reg SPM_WIN.open [n.val, w.val] = 0 → t = { s with halves := t.halves }))

/-- R29, R278, R279, R380, R384, R388, R389, R391, R395, R396, R412, R478: a denied access of an agent, or one where there is no memory, writes nothing
and is answered with an access fault or Completer Abort, in the table region with zero; a read of sound memory answers the bytes; a single flipped bit
is corrected, and an uncorrectable DRAM word holds the page until its recovery ends; a write stores exactly its bytes, of a hart through the L2.
Completion: under the conditions on state and operands that its clauses name, exec answers a next state, which they give, for vaultAccess, dramRead,
dramWrite, dramRecovery and mergeBufferWriteback. -/
def Obligations.VaultAndDram : Prop :=
  (∀ (s : State) (a : Agent) (off : BitVec 26) (n : Nat) (bs : List Byte) (u : BitVec 272), s.agentLive a = true →
    (let d := vaultBase + off.toNat
     (∀ r, s.agentDenial a (decide (bs ≠ [])) d = some r →
       exec (.vaultAccess a off n bs u) s = .next (s.refuseAccess a (decide (bs ≠ [])) r)) ∧
     (bs = [] → s.agentDenial a false d = none → u = 0 → Quiet s →
       exec (.vaultAccess a off n bs u) s = .next (s.emit (.data a (s.readNat d (inWord d n))))) ∧
     (bs ≠ [] → s.agentDenial a true d = none → u = 0 →
       exec (.vaultAccess a off n bs u) s = .next (s.writeBytes d (bs.take (inWord d bs.length)))))) ∧
  (∀ (s : State) (a : Agent) (addr : BitVec 48) (n : Nat), s.agentLive a = true → addr.toNat < s.dataBytes →
    s.agentDenial a false addr.toNat = none → s.dramHeld addr.toNat = false → Quiet s →
    (let d := addr.toNat
     exec (.dramRead a addr n 0 false) s = .next (s.emit (.data a (s.readNat d (inWord d n)))) ∧
     ∀ u : BitVec 272, s.wordLive (d / 32) = true → s.l2Holds d (inWord d n) = false →
       (popCount 272 u.toNat = 1 → s.reg ECC_CTRL.so_en = 0 → s.diagHeld (d / 32) = false →
         ∃ t, exec (.dramRead a addr n u false) s = .next t ∧ t.out = .data a (s.readNat d (inWord d n)) :: s.out ∧ t.flips = [] ∧
           t.reg ECC_LOG_PTR.next = (s.reg ECC_LOG_PTR.next + 1) % 32 ∧ ∀ x, t.byteAt x = s.byteAt x) ∧
       (popCount 272 u.toNat = 2 →
         ∃ t, exec (.dramRead a addr n u false) s = .next t ∧ t.recov = s.recov ++ [(a, d, inWord d n)] ∧ t.out = s.out ∧ t.csr = s.csr))) ∧
  (∀ (s : State) (a : Agent) (addr : BitVec 48) (bs : List Byte), s.agentLive a = true → addr.toNat < s.dataBytes →
    (s.agentDenial a true addr.toNat = none → s.dramHeld addr.toNat = false →
      (let d := addr.toNat
       let b := bs.take (inWord d bs.length)
       (isHart a = false → exec (.dramWrite a addr bs 0) s = .next (s.writeBytes d b)) ∧
       ∃ t, exec (.dramWrite a addr bs 0) s = .next t ∧
         (Quiet s → s.reg ECC_DIAG.arm = 0 → (∀ i : BufId, BufOk s i) → L2Ok s → ∀ x,
           t.byteAt x = if d ≤ x ∧ x < d + b.length then b.getD (x - d) 0 else s.byteAt x))) ∧
    (∀ r, s.agentDenial a true addr.toNat = some r → exec (.dramWrite a addr bs 0) s = .next (s.refuseAccess a true r)) ∧
    (s.agentDenial a true addr.toNat = none → s.dramHeld addr.toNat = true → exec (.dramWrite a addr bs 0) s = .next s)) ∧
  (∀ (s : State) (a : Agent) (addr : BitVec 48) (n : Nat) (bs : List Byte), s.agentLive a = true → regionOf s addr.toNat = .unmapped →
    exec (.dramRead a addr n 0 false) s = .next (s.refuseAccess a false .unmapped) ∧
      exec (.dramWrite a addr bs 0) s = .next (s.refuseAccess a true .unmapped)) ∧
  (∀ (s : State) (a : Agent) (d n : Nat) (l : List (Agent × Nat × Nat)) (x y z : Bool), s.recov = (a, d, n) :: l →
    exec (.dramRecovery x y z) s =
      .next ((({ s with recov := l }).recover (d / 32) x y z false).deliver a d n)) ∧
  (∀ (s : State) (a : Agent) (wr : Bool) (r : Denial),
    (let t := s.refuseAccess a wr r
     t.mem = s.mem ∧ t.ctxs = s.ctxs ∧ t.cores = s.cores ∧
       t.out = (match a, r with
         | _, .table => if wr = true then s.out else .data a 0 :: s.out
         | .fn _, _ => if wr = true then s.out else .abort a :: s.out
         | _, _ => .abort a :: s.out) ∧
       (r = .map → t.reg HOST_PART_STATUS.map_denied [(s.partOf a).val] =
         min (s.reg HOST_PART_STATUS.map_denied [(s.partOf a).val] + 1) (2 ^ 32 - 1)) ∧
       (r = .table → t.reg TBL_PERF.count [8] = min (s.reg TBL_PERF.count [8] + 1) (2 ^ 64 - 1)) ∧ (r = .unmapped → t.csr = s.csr))) ∧
  ∀ (s : State) (dt : Nat) (b : Fin 48),
    (let u := s.advance dt
     let id : BufId := if b.val < 16 then .chan (Fin.ofNat 16 b.val) else .bank (Fin.ofNat 32 (b.val - 16))
     ∃ t, exec (.mergeBufferWriteback dt b) s = .next t ∧
       t.buf id = (u.buf id).filter (fun g => decide (u.fclk < g.since + 64)) ∧
       (Quiet u → BufOk u id → ∀ x, t.byteAt x = u.byteAt x))

/-! ### Compute instructions at issue (chapters 5 to 9 and 13) -/

/-- R288, R289, R331, R342, R347, R352: wld, wswap and strip join the array class where their tile descriptor and operands are in order, the held records
then naming what R347 says; else they raise invalid operand of unit 1. R155, R160, R163, R289, R342, R347 to R350: mm, mv and mm.g join the array
class where what their checks ask holds, else raise invalid operand of unit 1; mm and mm.g with acc_in raise accumulator lost (0x06) where the
context's accumulators were lost. A form that replaces the stationary matrix empties the held records. Completion: under the conditions on state and
operands that its clauses name, exec answers a next state, which they give, for wld, wswap, strip, mm, mv and mmG. -/
def Obligations.MatrixCommands : Prop :=
  (∀ (s : State) (n : CoreId) (c : CtxId) (w : W64), Issues s n c w 0 →
     (let f := fieldsOf w
      let x := s.ctxs[c]
      let v := (x.t[tReg f.a]).toNat
      let t := tileFields v
      let ctr := s.ctrAllowed n c (Fin.ofNat 64 f.imm) = true
      let mat := tileOk v = true ∧ s.tileHolds n c t = true
      let j := s.joined n c .array w 0
      let elem := (s.tileMat n c t).elem
      (f.op = 0x80 →
        (let ok := ctr ∧ mat ∧ modeOf elem t.xFmt t.transpose ≠ none
         (ok → exec (.wld n w) s = .next ((j.setCtx c fun q => { q with heldS := some x.t[tReg f.a] }).pass c 1)) ∧
         (¬ ok → BadOperand s c 1 (exec (.wld n w) s)))) ∧
      (f.op = 0x81 →
        (ctr ∧ x.heldS ≠ none → exec (.wswap n w) s = .next ((j.setCtx c fun q => { q with heldA := x.heldS, heldS := x.heldA }).pass c 1)) ∧
        (¬ (ctr ∧ x.heldS ≠ none) → BadOperand s c 1 (exec (.wswap n w) s))) ∧
      (f.op = 0x85 →
        (let ok := ctr ∧ mat ∧ elem = 0 ∧ (t.xFmt = 0 ∨ t.xFmt = 3) ∧ t.xPlane = true ∧ t.transpose = false ∧
           s.spanOk c t.xh t.xo (opBytes true t.m t.k (numOf t.xFmt).width) = true ∧ s.spanOk c t.maskH 0 ((t.m + 7) / 8) = true ∧
           (t.sbEn = true → s.spanOk c t.sbH 0 (8 * t.n) = true) ∧ (t.stripCopy = true → t.yFmt = 0 ∧ t.yPlane = true)
         (ok → exec (.strip n w) s = .next ((j.setCtx c fun q => { q with heldA := none, heldS := none }).pass c 1)) ∧
         (¬ ok → BadOperand s c 1 (exec (.strip n w) s)))))) ∧
  (∀ (s : State) (n : CoreId) (c : CtxId) (w : W64), Issues s n c w 0 →
     (let f := fieldsOf w
      let x := s.ctxs[c]
      let v := (x.t[tReg f.a]).toNat
      let t := tileFields v
      let ctr := s.ctrAllowed n c (Fin.ofNat 64 f.imm) = true
      let held := f.fn % 2 = 1
      let j := s.joined n c .array w 0
      let join : Host.Outcome State Fault Refusal := .next (j.pass c 1)
      let none' : Host.Outcome State Fault Refusal := .next ((j.setCtx c fun q => { q with heldA := none, heldS := none }).pass c 1)
      let gone := tileOk v = true ∧ s.accGone n c t = true
      let lost : Host.Outcome State Fault Refusal := .next (s.stopped c 0x06 (s.slotNow n c).val)
      (f.op = 0x82 → f.fn < 2 →
        (let ok := ctr ∧ tileOk v = true ∧ ∀ e ∈ s.matrixChecks n c 0x82 (decide held) t, e.1 = false
         (gone → exec (.mm n w) s = lost) ∧
         (¬ gone → (ok → exec (.mm n w) s = if held ∨ s.onMv n 0x82 (decide held) t = true then join else none') ∧
           (¬ ok → BadOperand s c 1 (exec (.mm n w) s))))) ∧
      (f.op = 0x82 → 2 ≤ f.fn →
        (let ok := ctr ∧ tileOk v = true ∧ ∀ e ∈ s.wgradChecks n c (decide held) t (x.getS f.b), e.1 = false
         (ok → exec (.mm n w) s = none') ∧ (¬ ok → BadOperand s c 1 (exec (.mm n w) s)))) ∧
      (f.op = 0x83 → f.fn = 0 →
        (let ok := ctr ∧ tileOk v = true ∧ ∀ e ∈ s.matrixChecks n c 0x83 false t, e.1 = false
         (ok → exec (.mv n w) s = join) ∧ (¬ ok → BadOperand s c 1 (exec (.mv n w) s)))) ∧
      (f.op = 0x83 → f.fn = 1 →
        (let ok := ctr ∧ tileOk v = true ∧ s.tileHolds n c t = true ∧ modeOf (s.tileMat n c t).elem t.xFmt t.transpose ≠ none ∧
           t.m = 1 ∧ t.cin * (numOf t.xFmt).width ≤ 2048 ∧ t.cout ≤ 64 ∧ 6 ≤ t.yFmt ∧
           (t.sbEn = true → s.spanOk c t.sbH 0 (8 * t.cout) = true) ∧ (t.stripCopy = true → t.yFmt = 0 ∧ t.yPlane = true)
         (ok → ∃ y : VecReg, exec (.mv n w) s =
           .next (({ j with free := s.free + 1 }.setCtx c fun q => { q with v := q.v.set f.d y }).pass c 1)) ∧
         (¬ ok → BadOperand s c 1 (exec (.mv n w) s)))) ∧
      (f.op = 0x84 →
        (let m := bitsOf (x.getS f.b).toNat 7 0
         let o := 32 * bitsOf (x.getS f.b).toNat 31 8
         let k := bitsOf (x.getS f.b).toNat 38 32
         let ks := s.peekNat n c m (o + 4) 2
         let nc := s.peekNat n c m (o + 16) 4
         let ck := s.peekNat n c m (o + (if ks < 2 then 68 else 72)) 4
         let ok := ctr ∧ tileOk v = true ∧ (if held then x.heldA ≠ none else s.tileHolds n c t = true) ∧
           t.xPlane = false ∧ t.yPlane = false ∧ t.siteBase % 256 = 0 ∧ (x.getS f.b).toNat < 2 ^ 39 ∧ s.spanOk c m o 64 = true ∧
           k < ks ∧ s.spanOk c m o (mapEntries ks nc + 8 * ks * ck) = true ∧
           s.spanOk c (f.imm / 256 % 256) 0 ((ck * t.cin * (numOf t.xFmt).width + 7) / 8) = true ∧
           s.spanOk c t.xh t.xo 1 = true ∧ (∀ e ∈ s.outChecks c t (t.siteBase + t.m), e.1 = false) ∧
           ∃ p, s.issueMode n c (decide held) t = some p ∧ (s.regionCheck n c t p true).1 = false
         (gone → exec (.mmG n w) s = lost) ∧
         (¬ gone → (ok → exec (.mmG n w) s = if held then join else none') ∧ (¬ ok → BadOperand s c 1 (exec (.mmG n w) s)))))))

/-- R341, R342, R353 to R357: the Developer's and the grid unit's instructions join their class where each operand reference lies in its handle and names
enough elements (a capacity may be 0), and raise invalid operand of unit 2 or 3 where one does not. Completion: under the conditions on state and
operands that its clauses name, exec answers a next state, which they give, for dun, dint, gridClear, gridIns, gridLook, gridAge, haloExp, haloImp,
morton, mortonTab, rankw, kmap, ball and sample. -/
def Obligations.GridCommands : Prop :=
  ∀ (s : State) (n : CoreId) (c : CtxId) (w x : W64), Issues s n c w x →
    (let f := fieldsOf w
     let ra := s.ctxs[c].getS f.a
     let rb := s.ctxs[c].getS f.b
     let rc := s.ctxs[c].getS f.c
     let a := refOf ra
     let b := refOf rb
     let o := refOf rc
     let d := refOf (s.ctxs[c].getS f.d)
     let ctr := s.ctrAllowed n c (Fin.ofNat 64 x.toNat) = true
     let desc := s.descRef n c ra ≠ none
     let has (r : Ref) (z : Nat) : Prop := s.refOk c r z = true
     let m := s.matAt n c a.h a.off
     (f.op = 0x88 → JoinsS s n c .array 2 w x (ctr ∧ s.matHolds c m = true ∧
       rb.toNat < (m.n + (if m.elem = 3 then 16 else 8) - 1) / (if m.elem = 3 then 16 else 8) ∧ s.refHolds c o (2 * o.n) = true) (exec (.dun n w x) s)) ∧
     (f.op = 0x89 → JoinsS s n c .array 2 w x (ctr ∧ has a 8 ∧ has b 8) (exec (.dint n w x) s)) ∧
     (f.op = 0x90 → f.fn = 0 → Joins s n c .grid 3 w x (ctr ∧ desc) (exec (.gridClear n w x) s)) ∧
     (f.op = 0x90 → f.fn = 1 → Joins s n c .grid 3 w x (ctr ∧ has b 16 ∧
       ∀ l < 4, x.getLsbD (8 + l) = true → s.levelOn l = true → ∃ g, s.desc n c a.h (a.off + 64 * l) = some g ∧ g.level = l)
       (exec (.gridIns n w x) s)) ∧
     (f.op = 0x90 → f.fn = 2 → Joins s n c .grid 3 w x (ctr ∧ desc ∧ has b 8 ∧ has o 4 ∧ b.n ≤ o.n) (exec (.gridLook n w x) s)) ∧
     (f.op = 0x90 → f.fn = 3 → Joins s n c .grid 3 w x
       (ctr ∧ ∃ p q, s.descRef n c ra = some p ∧ s.descRef n c rb = some q ∧ p.level = q.level ∧ p.mode = q.mode)
       (exec (.gridAge n w x) s)) ∧
     (f.op = 0x91 → f.fn = 0 → Joins s n c .grid 3 w x (ctr ∧ desc) (exec (.haloExp n w x) s)) ∧
     (f.op = 0x91 → f.fn = 1 → Joins s n c .grid 3 w x (ctr ∧ desc ∧ s.refHolds c b 32 = true) (exec (.haloImp n w x) s)) ∧
     (f.op = 0x92 → f.fn = 0 → Joins s n c .grid 3 w x (ctr ∧ has a 8 ∧ has b 8 ∧ a.n ≤ b.n) (exec (.morton n w x) s)) ∧
     (f.op = 0x92 → f.fn = 1 →
       (let cells := s.peekNat n c a.h (a.off + 16) 4
        JoinsS s n c .grid 3 w x (ctr ∧ desc ∧ has b 8 ∧ cells ≤ b.n ∧ has o 4 ∧ cells ≤ o.n) (exec (.mortonTab n w x) s))) ∧
     (f.op = 0x92 → f.fn = 2 → Joins s n c .grid 3 w x (ctr ∧ desc ∧ has b 4) (exec (.rankw n w x) s)) ∧
     (f.op = 0x93 →
       (let k := if f.fn = 0 then 27 else if f.fn = 1 then 125 else 8
        Joins s n c .grid 3 w x (ctr ∧ has d 4 ∧
          s.refHolds c o (mapEntries k ((d.n + 255) / 256) + 8 * k * (x.toNat / 2 ^ 16 % 2 ^ 16)) = true ∧
          ∃ p q, s.descRef n c ra = some p ∧ s.descRef n c rb = some q ∧ (f.fn = 2 → s.sh p.level = s.sh q.level + 1) ∧
            (f.fn = 3 → s.sh q.level = s.sh p.level + 1)) (exec (.kmap n w x) s))) ∧
     (f.op = 0x94 →
       (let k := x.toNat / 2 ^ 8 % 2 ^ 7
        Joins s n c .grid 3 w x (ctr ∧ has b 16 ∧ 1 ≤ k ∧ k ≤ 64 ∧ s.refHolds c o (b.n * listBytes k) = true ∧
          ∃ g, s.descRef n c ra = some g ∧ s.ballReach g.level (x.toNat / 2 ^ 32) ≤ 2) (exec (.ball n w x) s))) ∧
     (f.op = 0x95 → JoinsS s n c .grid 3 w x
       (ctr ∧ x.toNat / 2 ^ 16 % 2 ^ 17 ≤ 65536 ∧ has a (4 * 2 ^ f.fn) ∧ s.refHolds c b (4 * 2 ^ f.fn * b.n) = true) (exec (.sample n w x) s)))

/-- R205 to R207, R212, R215, R222, R341, R342: the selection and sort instructions join their class where their operands hold the elements that they
name, and raise invalid operand of unit 4 or 5 where they do not. The list that merge sends is judged when the merge starts (log entry 118). R340,
R372: dma starts a channel of its core that is not busy: the channel's registers hold what the instruction names; a busy channel, a counter the
context may not name and what R372 refuses raise invalid operand of unit 7. Completion: under the conditions on state and operands that its clauses
name, exec answers a next state, which they give, for topk, thr, merge, sort and dma. -/
def Obligations.SelectAndChannel : Prop :=
  (∀ (s : State) (n : CoreId) (c : CtxId) (w x : W64), Issues s n c w x →
     (let f := fieldsOf w
      let rb := s.ctxs[c].getS f.b
      let a := refOf (s.ctxs[c].getS f.a)
      let b := refOf rb
      let o := refOf (s.ctxs[c].getS f.c)
      let d := refOf (s.ctxs[c].getS f.d)
      let ctr := s.ctrAllowed n c (Fin.ofNat 64 x.toNat) = true
      let t := x.toNat / 2 ^ 8 % 16
      let elems (most : Nat) : Prop := t ≤ 4 ∧ s.refOk c a (typeBytes t) = true ∧ a.n ≤ most ∧ rb.toNat % 2 ^ 32 + a.n - 1 ≤ 0xFFFFFFFE ∧
        (x.getLsbD 14 = true → s.refHolds c o ((a.n + 7) / 8) = true)
      let holds (r : Ref) (z : Nat) : Prop := s.refHolds c r z = true
      (f.op = 0x98 →
        (let k := x.toNat / 2 ^ 16 % 2 ^ 7
         Joins s n c .select 4 w x (ctr ∧ elems 65536 ∧ 1 ≤ k ∧ k ≤ 64 ∧ (x.getLsbD 13 = true → holds d (listBytes k)))
           (exec (.topk n w x) s))) ∧
      (f.op = 0x99 → Joins s n c .select 4 w x (ctr ∧ elems (2 ^ 32) ∧
         (typeVal t (if t < 3 then x.toNat / 2 ^ 32 else x.toNat / 2 ^ 32 % 2 ^ 16)).isNan = false ∧ (2 < t → x.toNat / 2 ^ 48 = 0) ∧
         1 ≤ d.n ∧ d.n ≤ 131072 ∧ holds d (listBytes d.n)) (exec (.thr n w x) s)) ∧
      (f.op = 0x9A →
        (let m := rb.toNat % 2 ^ 32
         Joins s n c .select 4 w x (ctr ∧ holds a (listBytes 1) ∧ 2 ≤ (participants m).length ∧ m.testBit n.val = true ∧
           ((∀ k < n.val, m.testBit k = false) → holds o (listBytes 1))) (exec (.merge n w x) s))) ∧
      (f.op = 0x9B →
        (let mode := f.fn % 4
         let z := if mode = 1 ∨ mode = 2 then 4 else 8
         Joins s n c .sort 5 w x (ctr ∧ s.refOk c a z = true ∧ a.n ≤ 131072 ∧
           (if mode = 3 then f.b.val = 0 ∧ f.d.val = 0 ∧ holds o 8192
            else holds b (4 * a.n) ∧ holds o (z * a.n) ∧ holds d (4 * a.n) ∧ holds ⟨0, 0, x.toNat / 2 ^ 8 % 256⟩ (z * a.n) ∧
              holds ⟨0, 0, x.toNat / 2 ^ 16 % 256⟩ (4 * a.n))) (exec (.sort n w x) s))))) ∧
  (∀ (s : State) (n : CoreId) (c : CtxId) (w x : W64), Issues s n c w x → (fieldsOf w).op = 0x4C →
     (let f := fieldsOf w
      let k := f.fn % 8
      let a := (s.ctxs[c].getS f.a).toNat
      let b := (s.ctxs[c].getS f.b).toNat
      let r := (s.ctxs[c].getS f.c).toNat
      let i := [n.val, k]
      let ok := s.chan (some n) k = none ∧ s.ctrAllowed n c (Fin.ofNat 64 x.toNat) = true ∧
        s.dRefused false (s.partOf (.ctx c)) a b r x.toNat = false
      (¬ ok → BadOperand s c 7 (exec (.dma n w x) s)) ∧
      (ok → ∃ t, exec (.dma n w x) s = .next t ∧ t.mem = s.mem ∧ t.ctxs = (s.wentTo c (s.ctxs[c].pc + 16)).ctxs ∧ t.stamp = s.stamp + 1 ∧
        t.out = s.out ∧ t.reg CDMA_SRC.value i = a ∧ t.reg CDMA_DST.value i = b ∧ t.reg CDMA_CNT.value i = r ∧
        t.reg CDMA_CTRL.mode i = x.toNat / 2 ^ 53 % 8 ∧ t.reg CDMA_CTRL.swap i = x.toNat / 2 ^ 56 % 8 ∧
        t.reg CDMA_CTRL.counter i = x.toNat % 64 ∧ t.reg CDMA_STATUS.busy i = 1 ∧ t.reg CDMA_STATUS.halted i = 0 ∧
        t.reg CDMA_STATUS.cause i = 0 ∧ t.reg CDMA_STATUS.ctx i = c.val ∧
        ∃ q, t.chan (some n) k = some q ∧ q.ctx = c ∧ q.seq = s.stamp ∧ q.pc = s.ctxs[c].pc ∧ q.row = 0 ∧ q.pos = 0 ∧ q.stage = [] ∧
          (x.toNat / 2 ^ 53 % 8 ≠ 3 → q.phase = .reading))))

/-- R234, R240, R242, R248, R249, R256, R359: the table instructions join their class where their operands are in order and the tables they name are
enabled; a gradient or replace instruction reads its whole source before the next one issues; tstep checks its object first. Completion: under the
conditions on state and operands that its clauses name, exec answers a next state, which they give, for tgrad, trepl, tlook, tstep and tpf. -/
def Obligations.TableCommands : Prop :=
  (∀ (s : State) (n : CoreId) (c : CtxId) (w x : W64), Issues s n c w x →
    (let f := fieldsOf w
     let m := (s.ctxs[c].getS f.b).toNat % 65536
     let t := m % 16
     let a := refOf (s.ctxs[c].getS f.a)
     let o := refOf (s.ctxs[c].getS f.c)
     let ctr := s.ctrAllowed n c (Fin.ofNat 64 x.toNat) = true
     (f.op = 0xA0 → Joins s n c .table 6 w x (ctr ∧ a.n ≤ 65536 ∧ s.refOk c a (s.maskKeyBytes m) = true ∧ s.maskOff m = false ∧
        s.maskMixed m = false ∧ s.refHolds c o (64 * a.n * (maskTabs m).length) = true) (exec (.tlook n w x) s)) ∧
     ∀ (op z : Nat) (i : Instr), (op = 0xA1 ∧ z = 128 ∧ i = .tgrad n w x) ∨ (op = 0xA3 ∧ z = 64 ∧ i = .trepl n w x) → f.op = op →
       (let k := s.keyBytes t
        let ok := ctr ∧ a.n ≤ 65536 ∧ s.refOk c a k = true ∧ s.tabOn t = true ∧ s.refHolds c o (z * a.n) = true
        (¬ ok → BadOperand s c 6 (exec i s)) ∧
        (ok → ∃ u keys rows, exec i s = .next u ∧ u.tbl.srcs = s.tbl.srcs ++ [⟨s.stamp, keys, rows, false, none⟩] ∧
          keys.length = a.n ∧ rows.length = a.n ∧
          (Quiet s → u = { (s.joined n c .table w x).pass c 1 with tbl := u.tbl } ∧
            keys = (List.range a.n).map (fun e => s.peekNat n c a.h (a.off + k * e) k) ∧
            rows = (List.range a.n).map (fun e => some (s.peekNat n c o.h (o.off + z * e) z))))))) ∧
  ∀ (s : State) (n : CoreId) (c : CtxId) (w : W64), Issues s n c w 0 →
    (let f := fieldsOf w
     let m := (s.ctxs[c].getS f.a).toNat % 65536
     let o := (s.ctxs[c].getS f.b).toNat % 16384
     let ctr := s.ctrAllowed n c (Fin.ofNat 64 f.imm) = true
     let may := s.soPermits (s.partOf (.ctx c)) o = true
     (f.op = 0xA2 → (ctr → s.maskOff m = false → ¬ may →
          exec (.tstep n w) s = .next (s.stopped c 0x0A o)) ∧
        (¬ (ctr ∧ s.maskOff m = false ∧ ¬ may) → Joins s n c .table 6 w 0 (ctr ∧ s.maskOff m = false) (exec (.tstep n w) s))) ∧
     (f.op = 0xA4 → Joins s n c .table 6 w 0 (ctr ∧ (s.ctxs[c].getS f.a).toNat / 256 ≤ 63) (exec (.tpf n w) s)))

/-! ### Classes at work (chapters 5 to 9 and 13) -/

/-- R128, R225, R342, R343: a class's head starts when commanded, unless it has started or the class is empty; a core's sorts and grid operations go one
at a time in issue order; only an instruction that has started completes. The end of one takes it from its class, advances its counter where it
counts, and raises its completion exceptions at its pc; a matrix instruction whose context has lost the core stays, and lets the array instructions of
other contexts pass. Completion: under the conditions on state and operands that its clauses name, exec answers a next state, which they give, for
computeStart, arrayClassComplete, gridClassComplete, sortComplete and selectionClassComplete. -/
def Obligations.ClassSteps : Prop :=
  (∀ (s : State) (dt : Nat) (n : CoreId) (u : UnitClass), u ≠ .table →
    (let q := if u = .array then (s.advance dt).promote n else s.advance dt
     let behind (i : Issued) : Prop := (u = .grid ∧ ∃ x ∈ q.cores[n].sort, x.seq ≤ i.seq) ∨ (u = .sort ∧ ∃ x ∈ q.cores[n].grid, x.seq ≤ i.seq)
     (q.cores[n].cls u = [] → exec (.computeStart dt n u) s = .next q) ∧
     ∀ i l, q.cores[n].cls u = i :: l →
       (let merge := u = .select ∧ (fieldsOf i.w).op = 0x9A
        let v := { i with started := true, since := q.cycles n }
        (i.started = true ∨ behind i → exec (.computeStart dt n u) s = .next q) ∧
        (i.started = false → ¬ behind i → ¬ merge → ∃ t w, exec (.computeStart dt n u) s = .next t ∧ t.mem = q.mem ∧ t.ctxs = q.ctxs ∧
          t.flights = q.flights ∧ t.cores[n].cls u = { v with will := w } :: l ∧ (u = .sort → t.reg SRT_STATUS.busy [n.val] = 1)) ∧
        (i.started = false → merge → ∃ w, exec (.computeStart dt n u) s =
          .next (((q.setHead n .select fun _ => v).mergeStart n v).setHead n .select fun x => { x with will := w }))))) ∧
  (∀ (s : State) (dt : Nat) (n : CoreId),
    (let q := s.advance dt
     let p := q.promote n
     exec (.computeStart dt n .table) s = .next (q.tableStart n) ∧
     (p.headOf n .array = none → exec (.arrayClassComplete dt n) s = .next p) ∧
     (∀ i, p.headOf n .array = some i → p.arrayHeld i = true → exec (.arrayClassComplete dt n) s = .next p) ∧
     (∀ i, p.headOf n .array = some i → p.arrayHeld i = false → exec (.arrayClassComplete dt n) s = .next (p.doArrayClass n i)) ∧
     (q.headOf n .grid = none → exec (.gridClassComplete dt n) s = .next q) ∧
     (∀ i, q.headOf n .grid = some i → exec (.gridClassComplete dt n) s = .next (q.doGrid n i)) ∧
     (q.headOf n .sort = none → exec (.sortComplete dt n) s = .next q) ∧
     (∀ i, q.headOf n .sort = some i → exec (.sortComplete dt n) s = .next (q.doSort n i)) ∧
     (q.headOf n .select = none → exec (.selectionClassComplete dt n) s = .next q) ∧
     (∀ i, q.headOf n .select = some i →
       (let t := q.bump SEL_PERF.count [n.val, 1] (q.cycles n - i.since)
        ((fieldsOf i.w).op = 0x98 → exec (.selectionClassComplete dt n) s = .next (t.doTopk n i)) ∧
        ((fieldsOf i.w).op = 0x99 → exec (.selectionClassComplete dt n) s = .next (t.doThr n i)) ∧
        ((fieldsOf i.w).op = 0x9A → ∀ c, q.cores[n].climb = some c → exec (.selectionClassComplete dt n) s =
          .next (if c.sent = true ∨ mergeLevels (participants (mergeMask i)).length < c.level then t.doMerge n i c else q)) ∧
        ((fieldsOf i.w).op = 0x9A → q.cores[n].climb = none → ∃ x, (x = 1 ∨ x = 3) ∧ exec (.selectionClassComplete dt n) s =
          .next (t.retire n .select i false [(0x04, 4 + 256 * x)])))))) ∧
  (∀ (s : State) (n : CoreId) (u : UnitClass) (i : Issued) (counts : Bool) (exc : List (Nat × Nat)),
    (let t := s.retire n u i counts exc
     t.cores[n].cls u = (s.cores[n].cls u).tail ∧ t.mem = s.mem ∧
       (exc = [] → t = ((if counts = true then (s.popHead n u).advanceCtr n (ctrOf (fieldsOf i.w) i.x) else s.popHead n u).settle i.ctx)))) ∧
  (∀ (s : State) (i : Issued), s.arrayHeld i = true ↔
    (0x82 ≤ (fieldsOf i.w).op ∧ (fieldsOf i.w).op ≤ 0x85 ∧ s.ctxs[i.ctx].ending = .none ∧
      (((s.ctxState i.ctx = 2 ∨ s.ctxState i.ctx = 4) ∧ s.slotOf (s.coreOf i.ctx) i.ctx = none) ∨
        (s.ctxState i.ctx = 2 ∧ ∃ d, s.runningOn (s.coreOf i.ctx) = some d)))) ∧
  ∀ (s : State) (n : CoreId), (s.cores[n].array.Pairwise fun i j => i.seq ≠ j.seq) →
    (let l := s.cores[n].array
     let m := (s.promote n).cores[n].array
     m.Perm l ∧ (∀ c : CtxId, m.filter (fun i => decide (i.ctx = c)) = l.filter fun i => decide (i.ctx = c)) ∧
       ((∃ i ∈ l, ∀ j ∈ l, j.ctx = i.ctx → s.arrayHeld j = false) → ∃ i, m.head? = some i ∧ s.arrayHeld i = false))

/-- R151, R152, R160, R162, R165, R166: where a pass is due, its image moves into the cells: the one the Developer prepared for it, or else the one it
prepares now; no pass of a held instruction begins. The ramp moves one step in ramp_step cycles, up to 8 and down to 0; an integer accumulator
saturates at 32 bits and counts it. Completion: under the conditions on state and operands that its clauses name, exec answers a next state, which
they give, for arrayPassLimit, weightSwap and rampStep. -/
def Obligations.ArrayEvents : Prop :=
  (∀ (s : State) (dt : Nat) (n : CoreId),
    (let q := s.advance dt
     let p := q.promote n
     let i := [n.val]
     (q.headOf n .array = none → exec (.arrayPassLimit dt n) s = .next q) ∧
     (∀ h, q.headOf n .array = some h → exec (.arrayPassLimit dt n) s = .next (q.preempt n)) ∧
     (p.headOf n .array = none → exec (.weightSwap dt n) s = .next p) ∧
     (∀ h, p.headOf n .array = some h →
       (p.arrayHeld h = true ∨ p.accMissing h = true ∨ p.hasPasses n h = false → exec (.weightSwap dt n) s = .next p) ∧
       (∀ pr e r, p.prepOf n h = (some pr, e, r) → pr.jobs.length ≤ h.done → exec (.weightSwap dt n) s = .next p) ∧
       (p.arrayHeld h = false → p.accMissing h = false → p.hasPasses n h = true → ∀ pr e r b, p.prepOf n h = (some pr, e, r) →
         pr.jobs[h.done]? = some b →
         ∃ t x l, exec (.weightSwap dt n) s = .next t ∧ t.cores[n].array = x :: l ∧ x.seq = h.seq ∧ x.done = h.done + 1 ∧
           (∀ img cost, Quiet p → b.image = some (img, cost) → p.readyFor n h h.done = none → t.cores[n].active = img) ∧
           (∀ y, Quiet p → b.image.isSome = true → p.readyFor n h h.done = some y → t.cores[n].active = y.image) ∧
           (b.image.isSome = true ∨ b.lanes.sum ≠ 0 → t.reg ARR_STATUS.transpose i = if b.turned = true then 1 else 0))) ∧
     (let level := q.reg ARR_STATUS.ramp_level i
      let dir := q.reg ARR_STATUS.ramp_dir i
      let step := min 16 (max 2 (q.reg ARR_CTRL.ramp_step i))
      (q.cycles n - q.cores[n].rampC < step ∨ dir = 0 → exec (.rampStep dt n) s = .next q) ∧
      (step ≤ q.cycles n - q.cores[n].rampC → dir ≠ 0 →
        ∃ t, exec (.rampStep dt n) s = .next t ∧ t.cores[n].rampC = q.cycles n ∧ t.mem = q.mem ∧ t.ctxs = q.ctxs ∧
          SameRegsBut q t [(ARR_STATUS.ramp_level, i), (ARR_STATUS.ramp_dir, i), (ARR_PERF.count, [n.val, 4])] ∧
          (dir ≠ 1 → t.reg ARR_PERF.count [n.val, 4] = q.reg ARR_PERF.count [n.val, 4]) ∧
          (dir = 1 → level < 8 → t.reg ARR_STATUS.ramp_level i = level + 1 ∧ t.reg ARR_STATUS.ramp_dir i = 1) ∧
          (dir = 1 → 8 ≤ level → t.reg ARR_STATUS.ramp_level i = level ∧ t.reg ARR_STATUS.ramp_dir i = 0) ∧
          (dir ≠ 1 → 1 < level → level < 9 → t.reg ARR_STATUS.ramp_level i = level - 1 ∧ t.reg ARR_STATUS.ramp_dir i = dir) ∧
          (dir ≠ 1 → level ≤ 1 → t.reg ARR_STATUS.ramp_level i = 0 ∧ t.reg ARR_STATUS.ramp_dir i = 0))))) ∧
  (∀ x y : Int, -(2 ^ 31) ≤ x → x < 2 ^ 31 →
    (let r := accAdd true (Val.ofInt x) (Val.ofInt y)
     r.1.toInt = some (max (-(2 ^ 31)) (min (2 ^ 31 - 1) (x + y))) ∧
       r.2 = (if -(2 ^ 31) ≤ x + y ∧ x + y < 2 ^ 31 then Tally.zero else { Tally.zero with sat := 1 })))

/-- R147, Table 6-2: in an image each weight of a set of at most as many positions as the mode holds stands in bits of its own, so that the weight of
position i and column j is the value that was placed there. R121, R124, Table 5-1, R136, R222 to R224: the level-0 index of a coordinate is the floor
of its distance from the origin in edges; a cell key holds its fields apart; a Morton key interleaves x, y and z; a sort orders its entries by their
sort value, keeps every entry, and keeps equal ones in order; a histogram counts each digit. R211, R212: a live list of integers that has taken some
valid elements holds the k greatest, equal ones in the order of arrival, and counts those it has seen. R217, R218, R220, R358: a participant of a
merge goes up a level alone where it has no partner, waits for its partner's list, merges it where it came in time, or sends its own; a wait that has
lasted merge_timeout_us goes on without the partner, marks the list incomplete and is counted. Completion: under the conditions on state and operands
that its clauses name, exec answers a next state, which they give, for mergeLevel and mergeTimeout. -/
def Obligations.SelectionData : Prop :=
  (∀ (k : WKind) (val : Nat → Nat → Nat) (n0 : Nat) (set : List Nat),
     (let w := match k with
        | .w8 => 8
        | .w16 => 8
        | _ => 16
      let cap := match k with
        | .w4a4 => 256
        | _ => 128
      set.length ≤ cap → ∀ i j, i < cap → j < w →
        imageAt k (imageOf k w val n0 set) i j =
          if h : i < set.length then val set[i] (n0 + j) % 2 ^ (imageBit k i j).2 else 0)) ∧
  ((∀ (s : State) (axis : Nat) (a : Int), 0 < s.edge →
     (s.index0 axis a) * s.edge ≤ a - s.org axis ∧ a - s.org axis < (s.index0 axis a + 1) * s.edge) ∧
   (∀ l x y z : Nat, l < 4 → x < 2 ^ 20 → y < 2 ^ 20 → z < 2 ^ 20 →
     (let k := cellKey l x y z
      bitsOf k 61 60 = l ∧ bitsOf k 19 0 = x ∧ bitsOf k 39 20 = y ∧ bitsOf k 59 40 = z ∧
        mortonKey k / 2 ^ 60 = l ∧ ∀ i < 20, (mortonKey k).testBit (3 * i) = x.testBit i ∧
          (mortonKey k).testBit (3 * i + 1) = y.testBit i ∧ (mortonKey k).testBit (3 * i + 2) = z.testBit i)) ∧
   (∀ l : List (Nat × Nat × Nat),
     (let r := sortEntries l
      r.Perm l ∧ (r.Pairwise fun e g => e.1 ≤ g.1) ∧ ∀ v : Nat, r.filter (fun e => decide (e.1 = v)) = l.filter (fun e => decide (e.1 = v)))) ∧
   (∀ (l : List Nat) (d v : Nat), d < 8 → v < 256 →
     (histogram l)[256 * d + v]? = some (l.countP fun u => decide (u / 256 ^ d % 256 = v))) ∧
   ∀ (u v : Nat), u < 2 ^ 32 → v < 2 ^ 32 →
     (sortKey 0 true u < sortKey 0 true v ↔ v < u) ∧
       (u / 2 ^ 31 = 1 → v / 2 ^ 31 = 0 → sortKey 2 false u < sortKey 2 false v)) ∧
  (∀ (t k : Nat) (l : List (Nat × Nat)), t ≤ 1 → 1 ≤ k → (∀ e ∈ l, e.1 < 2 ^ 32) → l.length < 2 ^ 32 →
     (let q := l.foldl (fun q e => q.feed e.1 e.2) (Live.fresh t k)
      q.entries.length = min k l.length ∧ q.seen = l.length ∧ q.type = t ∧ q.k = k ∧ q.nans = 0 ∧
        q.entries = (l.foldl (fun r e => insertEntry t e r) []).take k ∧
        (q.entries.Pairwise fun e g => (typeVal t e.1).lt (typeVal t g.1) = false) ∧
        ∀ e ∈ l, e ∉ q.entries → ∀ g ∈ q.entries, (typeVal t g.1).lt (typeVal t e.1) = false)) ∧
  (∀ (s : State) (dt : Nat) (n : CoreId),
     (let u := s.advance dt
      (u.mergeHead n = none → exec (.mergeLevel dt n) s = .next u ∧ exec (.mergeTimeout dt n) s = .next u) ∧
      ∀ i q, u.mergeHead n = some (i, q) →
        (let p := (participants (mergeMask i)).length
         let o := ordinalOf (mergeMask i) n
         let j := q.level
         let past := q.sent = true ∨ mergeLevels p < j
         let us := u.reg SEL_CTRL.merge_timeout_us [n.val]
         let target := BitVec.ofNat 32 (i.rd.toNat + q.got + 1)
         let inTime := ∃ t, (us = 0 ∨ t < q.sinceT + 250 * us) ∧
           ((ctrMeets q.base target = true ∧ t = 0) ∨ (ctrMeets q.base target = false ∧ q.times[(target - q.base).toNat - 1]? = some t))
         let late := us ≠ 0 ∧ 250 * us ≤ u.clk.tclk - q.sinceT
         let waits := ¬ past ∧ o % 2 ^ j = 0 ∧ o + 2 ^ (j - 1) < p
         let shows (v : State) : Prop := ∃ w, exec (.mergeLevel dt n) s = .next (v.setHead n .select fun x => { x with will := w })
         let alone (t : State) : Prop := ∃ r, t.cores[n].climb = some r ∧ r.level = j + 1 ∧ r.got = q.got ∧ t.mem = u.mem ∧
           r.list = (q.rlist.mark 4).bytes ∧ t.reg SEL_STATUS.merge_timeouts [n.val] = min (u.reg SEL_STATUS.merge_timeouts [n.val] + 1) (2 ^ 8 - 1)
         (past → shows u) ∧
         (¬ past → o % 2 ^ j = 0 → p ≤ o + 2 ^ (j - 1) → shows (u.setClimb n (some (q.up u n q.rlist)))) ∧
         (¬ past → o % 2 ^ j ≠ 0 → ∃ t d, exec (.mergeLevel dt n) s = .next t ∧ t.cores[n].climb = some { q with sent := true, denied := d }) ∧
         (waits → ¬ inTime → ¬ late → shows u) ∧
         (waits → ¬ inTime → late → ∃ t, exec (.mergeLevel dt n) s = .next t ∧ alone t) ∧
         (waits → inTime → ∃ t r, exec (.mergeLevel dt n) s = .next t ∧ t.cores[n].climb = some r ∧ r.level = j + 1 ∧ r.got = q.got + 1 ∧
           r.sent = false ∧ (Quiet u → t.mem = u.mem)) ∧
         (waits → late → ¬ inTime → ∃ t, exec (.mergeTimeout dt n) s = .next t ∧ alone t) ∧
         (¬ (waits ∧ late ∧ ¬ inTime) → exec (.mergeTimeout dt n) s = .next u))))

/-! ### Map tables (chapter 9) -/

/-- R228, R231, R236, R243: the row of a hashed cell key and of a direct index; an entry's 32 bits hold its fields; keys that are not valid name no row.
R234, R235, R236, R238, R248, R256: a table port forms the next request of the instruction it is at; a lookup with an invalid key leaves a zero row
and is counted; a hit in a replica takes its row; otherwise the directory line is awaited or the row resolved. Pairs and replaces of invalid keys or
frozen tables change no row. Completion: under the conditions on state and operands that its clauses name, exec answers a next state, which they give,
for tableRequest, tableGradientPair, tableReplaceRequest and rowCacheFill. -/
def Obligations.TableRequests : Prop :=
  ((∀ (s : State) (t b key : Nat), s.direct t b = true →
     s.rowOf t b key = if key % 2 ^ 32 < s.tabRows t b then some (key % 2 ^ 32) else none) ∧
   (∀ (s : State) (t b l x y z : Nat), s.direct t b = false → l < 4 → x < 2 ^ 20 → y < 2 ^ 20 → z < 2 ^ 20 →
     s.tabCfg TBL_TAB_CFG.rows_log2 t b ≤ 64 → s.reg TBL_TAB_HASH.tab_seed [t, b] < 2 ^ 64 →
     (let k := s.tabCfg TBL_TAB_CFG.res_shift t b - s.levelShift l
      let c := z / 2 ^ k * 2 ^ 40 + y / 2 ^ k * 2 ^ 20 + x / 2 ^ k
      ∃ r, s.rowOf t b (cellKey l x y z) = some r ∧ r < s.tabRows t b ∧
        r = ((c ^^^ s.reg TBL_TAB_HASH.tab_seed [t, b]) * 0xA24BAED4963EE407) % 2 ^ 64 / 2 ^ (64 - s.tabCfg TBL_TAB_CFG.rows_log2 t b))) ∧
   (∀ (s : State) (t b key : Nat), s.direct t b = false → 2 ^ 62 ≤ key → s.rowOf t b key = none) ∧
   (∀ e : Entry, e.tier < 4 → e.acc < 16 → e.slot < 2 ^ 24 → e.bits < 2 ^ 32 ∧ entryOf e.bits = e) ∧
   ∀ v : Nat, v < 2 ^ 32 → (entryOf v).bits = v) ∧
  ((∀ (s : State) (dt : Nat) (n : CoreId) (d r : Bool),
     (let u := s.advance dt
      (u.portHead n = none → exec (.tableRequest dt n d r) s = .next u ∧ exec (.tableGradientPair dt n) s = .next u ∧
        exec (.tableReplaceRequest dt n) s = .next u) ∧
      ∀ i x, u.portHead n = some i → u.srcOfSeq i.seq = some x →
        (let op := (fieldsOf i.w).op
         let v := u.setTabInstr n i.seq fun j => { j with done := j.done + 1 }
         let q := v.bump TBL_PERF.count [0]
         let key := (i.request x.keys i.done).1
         let t := (i.request x.keys i.done).2
         let b := u.bankOf t
         let a : TblRead := ⟨n, i.ctx, i.seq, (refOf i.rc).h, (refOf i.rc).off + 64 * i.done, t, b, 0, none⟩
         let put := i.rb.toNat % 16
         (op ≠ 0xA0 ∨ ((d && r) = false ∧ 64 ≤ u.tbl.reads.length) → exec (.tableRequest dt n d r) s = .next u) ∧
         (op = 0xA0 → (d && r) = true ∨ u.tbl.reads.length < 64 →
           (u.rowOf t b key = none → exec (.tableRequest dt n d r) s = .next ((q.deliverRow a 0 false).bump TBL_TAB_STATUS.dropped [t])) ∧
           (∀ row, u.rowOf t b key = some row → (u.tabCfg TBL_TAB_CFG.replicate t b ≠ 1 ∨ u.repOf t b row = none) →
             (d = false → ∃ y, exec (.tableRequest dt n d r) s = .next y ∧ y = { q with tbl := y.tbl } ∧
               y.tbl = { q.tbl with reads := q.tbl.reads ++ [{ a with row := row }] }) ∧
             (d = true → exec (.tableRequest dt n d r) s = .next (q.resolve { a with row := row } r))) ∧
           (∀ row p, u.rowOf t b key = some row → u.tabCfg TBL_TAB_CFG.replicate t b = 1 → u.repOf t b row = some p →
             ∃ y, exec (.tableRequest dt n d r) s = .next y ∧ (Quiet u →
               y = (((q.setRep t b row fun e => { e with hits := e.hits.set! (n.val / 4) (min 15 (e.hits[n.val / 4]! + 1)) }).bump
                 TBL_PERF.count [1]).deliverRow { a with row := row } p.val false)))) ∧
         (op = 0xA1 → exec (.tableGradientPair dt n) s = .next (v.pair put (x.keys.getD i.done 0) (x.rows.getD i.done none))) ∧
         (op ≠ 0xA1 → exec (.tableGradientPair dt n) s = .next u) ∧
         (op = 0xA3 → exec (.tableReplaceRequest dt n) s = .next (v.replace put (x.keys.getD i.done 0) (i.rb.toNat / 16 % 4)
           (i.rb.getLsbD 6) (x.rows.getD i.done none))) ∧
         (op ≠ 0xA3 → exec (.tableReplaceRequest dt n) s = .next u)))) ∧
   (∀ (s : State) (dt j : Nat) (h : Bool),
     (let u := s.advance dt
      (u.tbl.reads[j]? = none → exec (.rowCacheFill dt j h) s = .next u) ∧
      ∀ q, u.tbl.reads[j]? = some q →
        (let v := { u with tbl := { u.tbl with reads := u.tbl.reads.eraseIdx j } }
         (∀ tier slot, q.at' = some (tier, slot) → exec (.rowCacheFill dt j h) s = .next (v.lookupRow q tier slot)) ∧
         (q.at' = none → exec (.rowCacheFill dt j h) s = .next (v.resolve q h))))) ∧
   (∀ (s : State) (t key : Nat) (g : Option Nat), s.rowOf t (s.bankOf t) key = none ∨ g = none ∨ s.frozen t (s.bankOf t) = true →
     (let z := s.pair t key g
      z = { s with csr := z.csr } ∧ z.reg TBL_STATUS.upd_dropped [] = min (s.reg TBL_STATUS.upd_dropped [] + 1) (2 ^ 8 - 1))) ∧
   ∀ (s : State) (t key tier : Nat) (cl : Bool) (v : Option Nat),
     (s.rowOf t (s.bankOf t) key = none ∨ v = none →
       (let z := s.replace t key tier cl v
        z = { s with csr := z.csr } ∧ z.reg TBL_STATUS.upd_dropped [] = min (s.reg TBL_STATUS.upd_dropped [] + 1) (2 ^ 8 - 1))) ∧
     (s.rowOf t (s.bankOf t) key ≠ none → v ≠ none → s.frozen t (s.bankOf t) = true → s.replace t key tier cl v = s))

/-- R248 to R250: pairs of one row are summed in one entry of the open half, a new row takes an entry where the half has room and is counted as overflow
where it has none; a step exchanges the halves when none runs, and its end counts steps, takes the entries of its tables and advances its object by 1.
Completion: under the conditions on state and operands that its clauses name, exec answers a next state, which they give, for tableStepStart and
tableStepDone. -/
def Obligations.TableSteps : Prop :=
  (∀ (s : State) (t b row : Nat) (g : List Nat),
    (let z := s.pairPut t b row g
     let same (e : TblSum) : Prop := e.tab = t ∧ e.bank = b ∧ e.row = row
     ((∃ e ∈ s.tbl.opened, same e) → Quiet s → z = { s with tbl := z.tbl } ∧ z.tbl.opened.length = s.tbl.opened.length ∧
       ∀ (k : Nat) (e : TblSum), s.tbl.opened[k]? = some e →
         (same e → z.tbl.opened[k]? = some { e with sums := addSums e.sums g }) ∧ (¬ same e → z.tbl.opened[k]? = some e)) ∧
     ((∀ e ∈ s.tbl.opened, ¬ same e) → s.tbl.opened.length < 2 ^ (s.reg TBL_VAULT.upd_log2 - 1) →
       z = { s with tbl := { s.tbl with opened := s.tbl.opened ++ [⟨t, b, row, g⟩] } }) ∧
     ((∀ e ∈ s.tbl.opened, ¬ same e) → 2 ^ (s.reg TBL_VAULT.upd_log2 - 1) ≤ s.tbl.opened.length →
       z = { s with csr := z.csr } ∧ z.reg TBL_STATUS.upd_overflow [] = min (s.reg TBL_STATUS.upd_overflow [] + 1) (2 ^ 16 - 1)))) ∧
  (∀ (s : State) (dt : Nat),
    (let u := s.advance dt
     (u.tbl.run ≠ none ∨ u.tbl.steps = [] → exec (.tableStepStart dt) s = .next u) ∧
     (∀ q l, u.tbl.run = none → u.tbl.steps = q :: l →
       ∃ t, exec (.tableStepStart dt) s = .next t ∧ t.mem = u.mem ∧ t.ctxs = u.ctxs ∧ t.tbl.steps = l ∧ t.tbl.run = some (q, u.csr) ∧
         t.reg TBL_STATUS.step_busy [] = 1 ∧ (u.tbl.closed = [] → t.tbl.closed = u.tbl.opened ∧ t.tbl.opened = []) ∧
         (∀ e ∈ t.tbl.opened, e ∈ u.tbl.closed ∧ q.mask.testBit e.tab = false)) ∧
     (u.tbl.run = none → exec (.tableStepDone dt) s = .next u) ∧
     (∀ q c, u.tbl.run = some (q, c) →
       ∃ v : State, exec (.tableStepDone dt) s = .next ((v.setReg TBL_STATUS.step_busy [] 0).soCome q.obj.val .add 1) ∧ v.tbl.run = none ∧
         v.tbl.closed = u.tbl.closed.filter (fun e => !q.mask.testBit e.tab) ∧
         ∀ t < 16, v.reg TBL_TAB_STEPS.steps [t] =
           if q.mask.testBit t = true then min (u.reg TBL_TAB_STEPS.steps [t] + 1) (2 ^ 64 - 1) else u.reg TBL_TAB_STEPS.steps [t]))) ∧
  ∀ (h : Hyper) (t : Nat) (w m v g : Val),
    stepFeature 0 h t w m v g = (fSub w (fMul h.eta (fAdd g (fMul h.lam w))), m, v) ∧
      (stepFeature 1 h t w m v g).2.1 = fAdd (fMul h.b1 m) g ∧ (stepFeature 1 h t w m v g).2.2 = v ∧
      (stepFeature 2 h t w m v g).2.1 = fAdd (fMul h.b1 m) (fMul (fSub (.ofInt 1) h.b1) g) ∧
      (stepFeature 2 h t w m v g).2.2 = fAdd (fMul h.b2 v) (fMul (fSub (.ofInt 1) h.b2) (fMul g g))

/-- R245 to R247: the sweep is paced; a visit halves acc and leaves the memory of absent rows; a migration's copy, flip and slot release take their steps
in order, the old slot returning only when no lookup awaits it. A row that cannot be read gives its migration up. Completion: under the conditions on
state and operands that its clauses name, exec answers a next state, which they give, for sweepVisit, migrationCopyDone, migrationFlip and
migrationSlotRelease. -/
def Obligations.TableSweep : Prop :=
  (∀ (s : State) (dt : Nat),
    (let u := s.advance dt
     let early := (u.clk.tclk - u.tbl.sweepT) * u.reg TBL_CTRL.sweep_rate < 250
     (early ∨ u.sweepNext = none → exec (.sweepVisit dt) s = .next u) ∧
     ∀ t row, ¬ early → u.sweepNext = some (t, row) →
       (let v := { u with tbl := { u.tbl with sweep := (t, row + 1), sweepT := u.clk.tclk } }
        exec (.sweepVisit dt) s = .next (v.visit t row) ∧
          ((v.getEntry t (v.bankOf t) row).1.tier = 0 → v.visit t row = (v.getEntry t (v.bankOf t) row).2.2)))) ∧
  (∀ (s : State) (dt j : Nat),
    (let u := s.advance dt
     (u.tbl.migs[j]? = none → exec (.migrationCopyDone dt j) s = .next u ∧ exec (.migrationFlip dt j) s = .next u) ∧
     (∀ m, u.tbl.migs[j]? = some m →
       (m.copied = true ∨ u.through m.seq = false → exec (.migrationCopyDone dt j) s = .next u) ∧
       (m.copied = false → exec (.migrationFlip dt j) s = .next u) ∧
       (∀ v, m.copied = false → u.through m.seq = true → m.val = some v →
         (let e := u.encodeRow m.y (ofFp32 v)
          exec (.migrationCopyDone dt j) s =
            .next ((e.2.putSlot m.tab m.bank m.y m.b e.1).setMig m.tab m.bank m.row fun x => { x with copied := true }))) ∧
       (m.copied = false → u.through m.seq = true → m.val = none →
         ∃ t, exec (.migrationCopyDone dt j) s = .next t ∧ t.tbl.migs = u.tbl.migs.eraseIdx j ∧
           t.top m.tab m.bank m.y = u.top m.tab m.bank m.y + 1) ∧
       (m.copied = true → ∃ t, exec (.migrationFlip dt j) s = .next t ∧ t.tbl.migs = u.tbl.migs.eraseIdx j ∧
         t.tbl.drains = u.tbl.drains ++ [⟨m.tab, m.bank, m.x, m.a, true⟩] ∧ t.repOf m.tab m.bank m.row = none ∧
         t.tbl.reads = u.tbl.reads)) ∧
     (u.tbl.drains[j]? = none → exec (.migrationSlotRelease dt j) s = .next u) ∧
     ∀ d, u.tbl.drains[j]? = some d →
       (let held := ∃ q ∈ u.tbl.reads, q.tab = d.tab ∧ q.bank = d.bank ∧ q.at' = some (d.tier, d.slot)
        (held → exec (.migrationSlotRelease dt j) s = .next u) ∧
        (¬ held → ∃ t, exec (.migrationSlotRelease dt j) s = .next t ∧ t.tbl.drains = u.tbl.drains.eraseIdx j ∧
          t.top d.tab d.bank d.tier = u.top d.tab d.bank d.tier + 1)))) ∧
  ∀ (s : State) (t : Nat) (e : Entry),
    (let p := s.reg TBL_TAB_CTL.prom_thr [t]
     (e.mig = true → s.moveTo t e = none) ∧
     (e.mig = false → 1 < e.tier → p ≤ e.acc → s.moveTo t e = some (e.tier - 1)) ∧
     (e.mig = false → e.tier < 3 → (e.tier ≤ 1 ∨ e.acc < p) → e.acc ≤ s.reg TBL_TAB_CTL.dem_thr [t] → s.moveTo t e = some (e.tier + 1)) ∧
     (e.mig = false → (e.tier ≤ 1 ∨ e.acc < p) → (3 ≤ e.tier ∨ s.reg TBL_TAB_CTL.dem_thr [t] < e.acc) → s.moveTo t e = none))

/-- R254, R255, R257, R258, R260: a draining bank retires once nothing is bound to it; a rebuild starts where its arrangement holds and is refused with
rb_err where it does not; it copies one row after another, ends after the last, and stop ends its mirroring. R242, R342, Table 13-5: a table
instruction completes where every request has been formed and every row written, or its keys failed R228; it leaves its class and advances its
counter, or raises invalid operand of unit 6. Completion: under the conditions on state and operands that its clauses name, exec answers a next state,
which they give, for bankRetire, rebuildStart, rebuildStop, tblPerfClr, rebuildRowCopy, rebuildDone and tableClassComplete. -/
def Obligations.TableVersions : Prop :=
  ((∀ (s : State) (dt : Nat) (t : Fin 16),
     (let u := s.advance dt
      let i := [t.val]
      let b := 1 - u.bankOf t.val
      let go := u.reg TBL_TAB_STATUS.draining i = 1 ∧ u.bankBusy t.val b = false
      (¬ go → u.reg TBL_TAB_STATUS.draining i < 2 → exec (.bankRetire dt t) s = .next u) ∧
      (go → ∃ v, exec (.bankRetire dt t) s = .next v ∧ v.reg TBL_TAB_STATUS.draining i = 0 ∧ v.mem = u.mem ∧
        v.reg TBL_TAB_STATUS.ver i = (u.reg TBL_TAB_STATUS.ver i + 1) % 256 ∧
        SameRegsBut u v [(TBL_TAB_STATUS.draining, i), (TBL_TAB_STATUS.ver, i)] ∧
        (∀ r ∈ v.tbl.reps, ¬ (r.tab = t.val ∧ r.bank = b)) ∧
        ∀ r ∈ u.tbl.reps, ¬ (r.tab = t.val ∧ r.bank = b) → r ∈ v.tbl.reps))) ∧
   (∀ (s : State) (a : Agent) (v : BitVec 32), P0Agent s a →
     (let t := v.toNat % 16
      (v.getLsbD 30 = false → ∃ z, exec (.rebuildStart a v) s = .next z ∧ z.mem = s.mem ∧ z.reg TBL_REBUILD.table [] = t ∧
        (s.rebuildOk t = false → z.reg TBL_STATUS.rb_err [] = 1 ∧ z.tbl = s.tbl) ∧
        (s.rebuildOk t = true → z.reg TBL_STATUS.rb_busy [] = 1 ∧ z.reg TBL_STATUS.rb_done [] = 0 ∧ z.reg TBL_STATUS.rb_table [] = t ∧
          (∃ k, ⟨t, s.bankOf t, 0, true, true, k⟩ ∈ z.tbl.rebs) ∧
          (asorted s.tbl.tops = true → ∀ k < 3, z.top t (1 - s.bankOf t) (k + 1) = s.reg TBL_TAB_POOL.free_init [t, 1 - s.bankOf t, k]))) ∧
      (v.getLsbD 31 = false → ∃ z, exec (.rebuildStop a v) s = .next z ∧ z.mem = s.mem ∧ z.reg TBL_REBUILD.table [] = t ∧
        ∀ r ∈ z.tbl.rebs, r.tab = t → r.mirror = false ∧ r.busy = true))) ∧
   (∀ (s : State) (a : Agent) (v : BitVec 32), s.agentLive a = true → s.partOf a ≠ 0 →
     exec (.rebuildStart a v) s = .next s ∧ exec (.rebuildStop a v) s = .next s ∧ exec (.tblPerfClr a v) s = .next s) ∧
   ∀ (s : State) (dt : Nat),
     (let u := s.advance dt
      (∀ r, u.tbl.rebs.find? (fun r => r.busy && decide (r.next < u.tabRows r.tab r.src)) = some r →
        (u.through r.seq = false → exec (.rebuildRowCopy dt) s = .next u) ∧
        (u.through r.seq = true → u.tabRows r.tab r.src ≤ r.next + 1 →
          exec (.rebuildRowCopy dt) s = .next ((u.copyRow r).setReb fun x => { x with next := x.next + 1 })) ∧
        (u.through r.seq = true → r.next + 1 < u.tabRows r.tab r.src →
          (let w := (u.copyRow r).sendCopy (u.entryAddr r.tab r.src (r.next + 1))
           exec (.rebuildRowCopy dt) s = .next (w.2.setReb fun x => { x with next := x.next + 1, seq := w.1 })))) ∧
      (u.tbl.rebs.find? (fun r => r.busy && decide (r.next < u.tabRows r.tab r.src)) = none → exec (.rebuildRowCopy dt) s = .next u) ∧
      (let past := ∃ r ∈ u.tbl.rebs, r.busy = true ∧ u.tabRows r.tab r.src ≤ r.next
       (¬ past → exec (.rebuildDone dt) s = .next u) ∧
       (past → ∃ v, exec (.rebuildDone dt) s = .next v ∧ v.reg TBL_STATUS.rb_done [] = 1 ∧ v.reg TBL_STATUS.rb_busy [] = 0 ∧ v.mem = u.mem ∧
         (∀ r ∈ v.tbl.rebs, r.busy = false ∧ r.mirror = true) ∧
         ∀ r ∈ u.tbl.rebs, r.mirror = true → { r with busy := false } ∈ v.tbl.rebs)))) ∧
  (∀ (s : State) (dt : Nat) (n : CoreId) (j : Nat),
     (let u := s.advance dt
      (u.cores[n].table[j]? = none → exec (.tableClassComplete dt n j) s = .next u) ∧
      ∀ i, u.cores[n].table[j]? = some i →
        (u.tableDone i = false → exec (.tableClassComplete dt n j) s = .next u) ∧
        (u.tableDone i = true → ∃ t, exec (.tableClassComplete dt n j) s = .next t ∧ t.cores[n].table = u.cores[n].table.eraseIdx j) ∧
        (u.tableDone i = true → (fieldsOf i.w).op ≠ 0xA4 → i.spoilt = false → (∀ l ∈ i.laid, l ∉ i.wrote) →
          (let v := { u with
             tbl := { u.tbl with srcs := u.tbl.srcs.filter fun y => decide (y.seq ≠ i.seq) }
             cores := u.cores.set n { u.cores[n] with table := u.cores[n].table.eraseIdx j } }
           (u.keysBad i = true → exec (.tableClassComplete dt n j) s = .next ((v.completion i.ctx 0x04 (6 + 256) i.pc).settle i.ctx)) ∧
           (u.keysBad i = false → (∀ x, u.srcOfSeq i.seq = some x → x.poison = none) →
             exec (.tableClassComplete dt n j) s = .next ((v.advanceCtr n (ctrOf (fieldsOf i.w) i.x)).settle i.ctx)))) ∧
        (u.tableDone i = true → (fieldsOf i.w).op = 0xA4 → i.spoilt = false → i.laid = [] → u.keysBad i = false → u.srcOfSeq i.seq = none →
          ∃ v : State, exec (.tableClassComplete dt n j) s = .next ((v.advanceCtr n (ctrOf (fieldsOf i.w) i.x)).settle i.ctx) ∧
            (Quiet u → v.cores = u.cores.set n { u.cores[n] with table := u.cores[n].table.eraseIdx j } ∧ v.ctxs = u.ctxs ∧ v.mem = u.mem))))

/-! ### DMA engines and Prints (chapters 2 and 14) -/

/-- R361, R372, R377: the owner of an idle fabric channel starts it; a start that R372 refuses or that finds the channel busy sets cfg_err and starts
nothing; P0 names the owner while the channel is idle. Completion: under the conditions on state and operands that its clauses name, exec answers a
next state, which they give, for fabricDmaStart, dmaOwnWrite, printRingWrite and printRingTailWrite. -/
def Obligations.FabricChannels : Prop :=
  (∀ (s : State) (a : Agent) (k : Fin 32) (v : W64), s.agentLive a = true → v.getLsbD 63 = true →
    (let i := [k.val]
     let mine := s.reg DMA_OWN.part i = (s.partOf a).val
     let refused := s.dRefused true (Fin.ofNat 4 (s.reg DMA_OWN.part i)) (s.reg DMA_SRC.value i) (s.reg DMA_DST.value i)
       (s.reg DMA_CNT.value i) (v.toNat / 2 ^ 53 % 64 * 2 ^ 53)
     (¬ mine → exec (.fabricDmaStart a k .whole v) s = .next s) ∧
     (mine → ∃ t, exec (.fabricDmaStart a k .whole v) s = .next t ∧ t.mem = s.mem ∧ t.ctxs = s.ctxs ∧
       t.reg DMA_CTRL.mode i = v.toNat / 2 ^ 53 % 8 ∧ t.reg DMA_CTRL.done_so i = v.toNat / 2 ^ 29 % 2 ^ 14 ∧
       (s.chan none k.val ≠ none ∨ refused = true → t.reg DMA_STATUS.cfg_err i = 1 ∧ t.fabric = s.fabric) ∧
       (s.chan none k.val = none → refused = false → t.reg DMA_STATUS.busy i = 1 ∧ t.reg DMA_STATUS.halted i = 0 ∧
         t.reg DMA_STATUS.cause i = 0 ∧ (∃ d, t.chan none k.val = some d ∧ d.pos = 0 ∧ d.row = 0 ∧ d.credit = 8192) ∧
         ∀ j : Fin 32, j ≠ k → t.chan none j.val = s.chan none j.val)))) ∧
  (∀ (s : State) (a : Agent) (k : Fin 32) (v : BitVec 32), P0Agent s a →
    ∃ t, exec (.dmaOwnWrite a k v) s = .next t ∧ t = { s with csr := t.csr, halves := t.halves } ∧
      t.reg DMA_OWN.part [k.val] = (if s.reg DMA_STATUS.busy [k.val] = 0 then v.toNat % 4 else s.reg DMA_OWN.part [k.val]) ∧
      SameRegsBut s t [(DMA_OWN.part, [k.val])]) ∧
  (∀ (s : State) (a : Agent) (p : PartId) (v : W64), P0Agent s a →
    (let i := [p.val]
     ∃ t, exec (.printRingWrite a p .whole v) s = .next t ∧ t = { s with csr := t.csr, halves := t.halves } ∧
       t.reg DMA_PRINT_RING.en i = v.toNat / 2 ^ 63 ∧
       (s.reg DMA_PRINT_RING.en i = 0 → t.reg DMA_PRINT_RING.base i = v.toNat / 2 ^ 12 % 2 ^ 36 ∧
         t.reg DMA_PRINT_RING.slot_log2 i = v.toNat / 2 ^ 8 % 16 ∧ t.reg DMA_PRINT_RING.size_log2 i = v.toNat % 32) ∧
       (s.reg DMA_PRINT_RING.en i ≠ 0 → SameRegsBut s t [(DMA_PRINT_RING.en, i)]))) ∧
  ∀ (s : State) (a : Agent) (p : PartId) (v : W64), s.agentLive a = true →
    ((s.partOf a = 0 ∨ s.partOf a = p) → ∃ t, exec (.printRingTailWrite a p .whole v) s = .next t ∧
      t = { s with csr := t.csr, halves := t.halves } ∧ t.reg DMA_PRINT_PTR.tail [p.val] = v.toNat % 2 ^ 32 ∧
      SameRegsBut s t [(DMA_PRINT_PTR.tail, [p.val])]) ∧
    (s.partOf a ≠ 0 → s.partOf a ≠ p → exec (.printRingTailWrite a p .whole v) s = .next s)

/-- R360, R363 to R365, R369, R370: a read of a linear or 2D channel whose source bytes its partition may reach stages exactly the bytes of the next
destination line; writing a staged beat changes what exactly its bytes read; a cycle goes to a channel of the highest priority that has a beat staged
and may write, whose burst takes its credit as it begins; a swap code is its own inverse. R371, R373, R374: a channel that has beats left to write
does not complete; one that has none leaves its engine, its counter and its object advance, or its doorbell is written; a halted fabric channel
records cause and address and runs no more. Completion: under the conditions on state and operands that its clauses name, exec answers a next state,
which they give, for dmaBurst and dmaChannelComplete. -/
def Obligations.ChannelRuns : Prop :=
  ((∀ (s : State) (e : Option CoreId) (k : Nat) (d : Chan) (host : List Byte),
     (let r := rowsOf (s.dMode e k) (s.dCnt e k)
      let from' := s.dSrc e k + d.rrow * r.2.2.1 + d.rpos
      let tgt := s.dDst e k + d.rrow * r.2.2.2 + d.rpos
      let m := min (r.1 - d.rpos) (32 - tgt % 32)
      let ends := d.rpos + m = r.1
      s.dMode e k < 2 → s.dreg e k CDMA_CTRL.swap DMA_CTRL.swap = 0 → d.carry = [] → d.rpos < r.1 → d.rrow < r.2.1 → Quiet s →
      from' + m ≤ s.dataBytes → (∀ x, from' ≤ x → x < from' + m → s.dDenial e k d false x = none) →
      s.dFetch e k d host =
        ({ d with
           stage := d.stage ++ [.data tgt (s.readBytes from' m) (decide (ends ∧ d.rrow + 1 = r.2.1))]
           rrow := if ends then d.rrow + 1 else d.rrow
           rpos := if ends then 0 else d.rpos + m }, host, s))) ∧
   (∀ (s : State) (e : Option CoreId) (k : Nat) (d : Chan) (a : Nat) (bs : List Byte) (b : BufId), Quiet s → s.reg ECC_DIAG.arm = 0 →
     s.dataBytes ≤ vaultBase → bs ≠ [] → a % 32 + bs.length ≤ 32 → a + bs.length ≤ s.dataBytes → s.dDenial e k d true a = none →
     bufOf s a = some b → BufOk s b → L2Ok s →
     ∃ t, s.dWrite e k d a bs = (none, t) ∧ t.ctxs = s.ctxs ∧
       ∀ x, t.byteAt x = if a ≤ x ∧ x < a + bs.length then bs.getD (x - a) 0 else s.byteAt x) ∧
   (∀ (s : State) (dt : Nat) (e : Option CoreId) (run : Fin 33),
     (let u := s.advance dt
      let n := if e = none then 32 else 8
      ((∀ k < n, u.dMay e k = false) → exec (.dmaBurst dt e [] run) s = .next u) ∧
      (∀ k, u.dGrant e = some k → k < n ∧ u.dMay e k = true ∧ ∀ j < n, u.dMay e j = true → u.dPrio e j ≤ u.dPrio e k) ∧
      ((∃ k < n, u.dMay e k = true) → ∃ k, u.dGrant e = some k) ∧
      ∀ k d a bs last l, u.dGrant e = some k → u.chan e k = some d → u.dMode e k < 2 → d.stage = .data a bs last :: l →
        (let q := u.dBegin e k d
         let v := (u.setLast e (u.dPrio e k) k).setChan e k (some q)
         let w := v.dWrite e k q a bs
         (d.burst = 0 → q.burst = max 1 (min 32 (u.dLeft e k d)) ∧
           (u.dreg e k CDMA_CTRL.share DMA_CTRL.share ≠ 0 → q.credit = u.dCredit e k d - 256 * q.burst)) ∧
         (d.burst ≠ 0 → q = d) ∧
         (w.1 = none → exec (.dmaBurst dt e [] 1) s = .next
           ((if e.isSome = true ∧ ownLine w.2 e a = false then w.2.lastMark last a else w.2).setChan e k
             (some (v.dPast e k q bs.length))))))) ∧
   ∀ (w j : Nat), w < 5 → swapByte w (swapByte w j) = j ∧ swapByte w j / swapUnit w = j / swapUnit w) ∧
  ((∀ (s : State) (dt : Nat) (e : Option CoreId) (k : Fin 32),
     (let u := s.advance dt
      (u.chan e k.val = none → exec (.dmaChannelComplete dt e k) s = .next u) ∧
      ∀ d, u.chan e k.val = some d →
        (u.dMode e k.val = 3 → u.dWritten e k.val d = false) ∧
        (u.dMode e k.val < 2 → (u.dWritten e k.val d = true ↔ (rowsOf (u.dMode e k.val) (u.dCnt e k.val)).2.1 ≤ d.row)) ∧
        (u.dWritten e k.val d = false → exec (.dmaChannelComplete dt e k) s = .next u) ∧
        (u.dWritten e k.val d = true →
          (∀ n, e = some n → (∀ r, u.dArrival e k.val = some r → u.ends.contains r = false) →
            (let v := u.dRelease e k.val
             let x := v.advanceCtr n (Fin.ofNat 64 (v.reg CDMA_CTRL.counter [n.val, k.val]))
             exec (.dmaChannelComplete dt e k) s = .next ((x.hwAdd (decide (x.reg CDMA_CTRL.so_en [n.val, k.val] ≠ 0))
               (x.reg CDMA_CTRL.so [n.val, k.val])).settle d.ctx))) ∧
          (∀ n r, e = some n → u.dArrival e k.val = some r → u.ends.contains r = true → exec (.dmaChannelComplete dt e k) s = .next u) ∧
          (e = none → u.dBell k.val = none → exec (.dmaChannelComplete dt e k) s =
            .next ((u.dRelease none k.val).hwAdd (decide (u.reg DMA_CTRL.so_en [k.val] ≠ 0)) (u.reg DMA_CTRL.done_so [k.val]))) ∧
          (∀ n w, e = none → u.dBell k.val = some (n, w) → u.bellDenial n w .fabric (u.dWho none k.val d).2 = none →
            (let v := u.advanceCtr n (Fin.ofNat 64 (u.reg SPM_WIN.counter [n.val, w.val]))
             exec (.dmaChannelComplete dt e k) s =
               .next ((v.dRelease none k.val).hwAdd (decide (v.reg DMA_CTRL.so_en [k.val] ≠ 0)) (v.reg DMA_CTRL.done_so [k.val]))))))) ∧
   (∀ (s : State) (e : Option CoreId) (k : Nat), k < (if e = none then 32 else 8) →
     (let t := s.dRelease e k
      t.chan e k = none ∧ t.mem = s.mem ∧ t.ctxs = s.ctxs ∧ t.dreg e k CDMA_STATUS.busy DMA_STATUS.busy = 0 ∧
        t.dreg e k CDMA_STATUS.waiting DMA_STATUS.waiting = 0)) ∧
   ∀ (s : State) (k : Fin 32) (d : Chan) (f : Failure), f.addr < 2 ^ 48 → f.cause < 16 → s.reg DMA_CTRL.so_on_halt [k.val] = 0 →
     (let t := s.dHalt none k.val d f
      let i := [k.val]
      t.chan none k.val = none ∧ t.mem = s.mem ∧ t.reg DMA_STATUS.halted i = 1 ∧ t.reg DMA_STATUS.cause i = f.cause ∧
        t.reg DMA_STATUS.fail_addr i = f.addr ∧ t.reg DMA_STATUS.busy i = 0 ∧
        (s.dMode none k.val = 0 → d.row = 0 → t.reg DMA_SRC.value i = (s.reg DMA_SRC.value i + d.pos) % 2 ^ 64 ∧
          t.reg DMA_DST.value i = (s.reg DMA_DST.value i + d.pos) % 2 ^ 64 ∧ t.reg DMA_CNT.value i = (s.reg DMA_CNT.value i - d.pos) % 2 ^ 64) ∧
        (s.dMode none k.val = 1 → d.row < (rowsOf 1 (s.reg DMA_CNT.value i)).2.1 →
          t.reg DMA_SRC.value i = (s.reg DMA_SRC.value i + d.row * (rowsOf 1 (s.reg DMA_CNT.value i)).2.2.1) % 2 ^ 64 ∧
          t.reg DMA_DST.value i = (s.reg DMA_DST.value i + d.row * (rowsOf 1 (s.reg DMA_CNT.value i)).2.2.2) % 2 ^ 64 ∧
          t.reg DMA_CNT.value i = (s.reg DMA_CNT.value i - 2 ^ 16 * d.row) % 2 ^ 64) ∧
        (1 < s.dMode none k.val → t.reg DMA_SRC.value i = s.reg DMA_SRC.value i ∧ t.reg DMA_CNT.value i = s.reg DMA_CNT.value i)))

/-- R40, R58 to R61, R118, R367, R368, R439: a Print waits while its ring is full, which counts once; otherwise head, the exposure's count of Prints and
the ring's slot take it, as does a header owed to a ring; a comparison gives its answer to the Print that waits for it, once the descriptor of its
exposure is written. VALID stands outside the safe state in a Print that is no header and no failed comparison's. Completion: under the conditions on
state and operands that its clauses name, exec answers a next state, which they give, for frontEndHeaderPrint, printCommit and checkerCompareEnd. -/
def Obligations.PrintCommits : Prop :=
  (∀ (s : State) (p : PartId), s.ringFree p = true ↔
    (s.reg DMA_PRINT_PTR.head [p.val] + 2 ^ 32 - s.reg DMA_PRINT_PTR.tail [p.val]) % 2 ^ 32 < 2 ^ s.printSlots p) ∧
  (∀ (s : State) (p : PartId) (prod type j : Nat) (last agreed hdr : Bool) (l : List Byte), s.reg DMA_PRINT_SO.so_en [p.val] = 0 → Quiet s →
    s.reg ECC_DIAG.arm = 0 →
    (let t := s.commitPrint p prod type j last agreed hdr l
     t.reg DMA_PRINT_PTR.head [p.val] = (s.reg DMA_PRINT_PTR.head [p.val] + 1) % 2 ^ 32 ∧ t.seqOf j = s.seqOf j + 1 ∧
       t.reg DMA_PRINT_PTR.tail [p.val] = s.reg DMA_PRINT_PTR.tail [p.val] ∧ (∀ q : PartId, q ≠ p →
         t.reg DMA_PRINT_PTR.head [q.val] = s.reg DMA_PRINT_PTR.head [q.val]) ∧
       t.reg DMA_PRINT_SO.stale [p.val] = (if s.recorded j = none then min (s.reg DMA_PRINT_SO.stale [p.val] + 1) 255
         else s.reg DMA_PRINT_SO.stale [p.val]) ∧
       (last = true → ∀ e, s.expRec j = some e → ∃ x, t.expRec j = some x ∧ x.complete = true))) ∧
  (∀ (s : State) (p : PartId) (prod type j : Nat) (last agreed hdr : Bool) (l : List Byte),
    (let h := s.header p prod type j last agreed hdr l
     h.length = 64 ∧ natOfBytes (h.take 2) = type % 2 ^ 16 ∧ natOfBytes ((h.drop 8).take 8) = j % 2 ^ 64 ∧
       natOfBytes ((h.drop 46).take 2) = s.seqOf j % 2 ^ 15 + (if last = true then 2 ^ 15 else 0) ∧
       natOfBytes ((h.drop 56).take 4) = l.length % 2 ^ 32 ∧
       ∀ e, s.recorded j = some e → ((natOfBytes ((h.drop 4).take 2)).testBit 0 = true ↔
         s.reg SAFE_STATUS.state ≠ 0 ∧ hdr = false ∧ ¬ (type = 2 ∧ agreed = false)))) ∧
  (∀ (s : State) (dt : Nat) (p : PartId),
    (let u := s.advance dt
     ((∀ e ∈ u.heads, e.2.1 ≠ p) → exec (.frontEndHeaderPrint dt p) s = .next u) ∧
     ∀ j w, u.heads.find? (fun e => decide (e.2.1 = p)) = some (j, p, w) →
       (u.ringFree p = true → exec (.frontEndHeaderPrint dt p) s =
         .next ({ u with heads := u.heads.filter fun e => !decide (e.1 = j ∧ e.2.1 = p) }.commitPrint p 0x40 0 j true true true [])) ∧
       (u.ringFree p = false → w = true → exec (.frontEndHeaderPrint dt p) s = .next u) ∧
       (u.ringFree p = false → w = false → ∃ t, exec (.frontEndHeaderPrint dt p) s = .next t ∧
         t.reg DMA_PRINT_SO.full_wait [p.val] = min (u.reg DMA_PRINT_SO.full_wait [p.val] + 1) (2 ^ 32 - 1) ∧ t.mem = u.mem ∧
         t.heads.length = u.heads.length))) ∧
  (∀ (s : State) (dt : Nat) (n : CoreId),
    (let u := s.advance dt
     (u.cores[n].printQ = [] → exec (.printCommit dt n) s = .next u ∧ exec (.checkerCompareEnd dt n) s = .next u) ∧
     ∀ k l d, u.cores[n].printQ = k :: l → u.cores[n].dma[k] = some d →
       (let p := u.partOf (.ctx d.ctx)
        let i := [n.val, k.val]
        (∀ g, d.phase = .full g → u.ringFree p = false → exec (.printCommit dt n) s = .next u) ∧
        (∀ g, d.phase = .ready g → u.ringFree p = false → ∃ t, exec (.printCommit dt n) s = .next t ∧ t.mem = u.mem ∧
          t.reg DMA_PRINT_SO.full_wait [p.val] = min (u.reg DMA_PRINT_SO.full_wait [p.val] + 1) (2 ^ 32 - 1) ∧
          t.reg CDMA_STATUS.waiting i = 1 ∧ t.chan (some n) k.val = some { d with phase := .full g }) ∧
        (∀ g, d.phase = .ready g ∨ d.phase = .full g → u.ringFree p = true →
          u.slotDenied n p (u.slotAddr p) (64 + d.payload.length) = none →
          (let v := (u.commitPrint p n.val (bitsOf (u.dCnt (some n) k.val) 31 16) (u.dDst (some n) k.val)
             (bitOf (u.dCnt (some n) k.val) 32) g false d.payload).dRelease (some n) k.val
           exec (.printCommit dt n) s = .next (((v.advanceCtr n (Fin.ofNat 64 (v.reg CDMA_CTRL.counter i))).hwAdd
             (decide ((v.advanceCtr n (Fin.ofNat 64 (v.reg CDMA_CTRL.counter i))).reg CDMA_CTRL.so_en i ≠ 0))
             ((v.advanceCtr n (Fin.ofNat 64 (v.reg CDMA_CTRL.counter i))).reg CDMA_CTRL.so i)).settle d.ctx))) ∧
        (d.phase ≠ .comparing → exec (.checkerCompareEnd dt n) s = .next u) ∧
        (∀ b, d.phase = .comparing → u.printAnswer (u.dDst (some n) k.val) = some b →
          exec (.checkerCompareEnd dt n) s = .next (u.printHold n k.val d b)) ∧
        ∀ e, d.phase = .comparing → u.printAnswer (u.dDst (some n) k.val) = none → u.recorded (u.dDst (some n) k.val) = some e →
          (e.described = false → exec (.checkerCompareEnd dt n) s = .next u) ∧
          (e.described = true → exec (.checkerCompareEnd dt n) s =
            .next ((u.compared e d.payload).2.printHold n k.val d (u.compared e d.payload).1))))) ∧
  ∀ (s : State) (n : CoreId) (k : Fin 8) (d : Chan) (g : Bool), s.ringFree (s.partOf (.ctx d.ctx)) = true →
    (s.printHold n k.val d g).chan (some n) k.val = some { d with phase := .ready g } ∧
      (s.printHold n k.val d g).reg CDMA_STATUS.waiting [n.val, k.val] = 0

/-- R172, R206, R226, R260, R281: a write with perf_clr 1 by P0 clears the unit's counters and no other counter, and the register takes the rest of the
value; from other partitions it does nothing. Completion: under the conditions on state and operands that its clauses name, exec answers a next state,
which they give, for arrPerfClr, dvlPerfClr, selPerfClr, srtPerfClr, spmPerfClr and tblPerfClr. -/
def Obligations.PerformanceClears : Prop :=
  (∀ (s : State) (a : Agent) (n : CoreId) (v : BitVec 32), P0Agent s a → s.corePowered n = true →
    (let i := [n.val]
     let only (t : State) : Prop := t = { s with csr := t.csr, halves := t.halves }
     (∃ t, exec (.arrPerfClr a n v) s = .next t ∧ only t ∧ (∀ c < 5, t.reg ARR_PERF.count [n.val, c] = 0) ∧
       t.reg ACC_STATUS.int_sat i = 0 ∧ t.reg ACC_STATUS.fp_inf i = 0 ∧ t.reg ACC_STATUS.nan i = 0 ∧ t.reg ACC_STATUS.cvt_sat i = 0 ∧
       t.reg ACC_STATUS.lost i = s.reg ACC_STATUS.lost i ∧ t.reg DVL_STATUS.scatter_oob i = s.reg DVL_STATUS.scatter_oob i) ∧
     (∃ t, exec (.dvlPerfClr a n v) s = .next t ∧ only t ∧ (∀ c < 6, t.reg DVL_PERF.count [n.val, c] = 0) ∧
       t.reg DVL_STRIP_CNT.sites_kept i = 0 ∧ t.reg DVL_STRIP_CNT.sites_tested i = 0 ∧ t.reg DVL_STRIP_MISS.strip_miss i = 0 ∧
       t.reg DVL_STATUS.scatter_oob i = 0 ∧ t.reg DVL_STATUS.err i = s.reg DVL_STATUS.err i) ∧
     (∃ t, exec (.selPerfClr a n v) s = .next t ∧ only t ∧ (∀ c < 4, t.reg SEL_PERF.count [n.val, c] = 0) ∧
       t.reg SEL_STATUS.nan_total i = 0 ∧ t.reg SEL_STATUS.tie_events i = 0 ∧ t.reg SEL_STATUS.overflow_events i = 0 ∧
       t.reg SEL_STATUS.merge_timeouts i = 0) ∧
     (∃ t, exec (.srtPerfClr a n v) s = .next t ∧ only t ∧ (∀ c < 3, t.reg SRT_PERF.count [n.val, c] = 0) ∧
       t.reg SRT_STATUS.nan_keys i = 0 ∧ t.reg SRT_STATUS.last_q i = s.reg SRT_STATUS.last_q i) ∧
     (∃ t, exec (.spmPerfClr a n v) s = .next t ∧ only t ∧ (∀ c < 4, t.reg SPM_PERF.count [n.val, c] = 0) ∧
       t.reg SPM_STATUS.denied_count i = 0 ∧ t.reg SPM_STATUS.denied i = s.reg SPM_STATUS.denied i) ∧
     ∃ t, exec (.tblPerfClr a v) s = .next t ∧ only t ∧ (∀ c < 9, t.reg TBL_PERF.count [c] = 0) ∧ t.reg TBL_STATUS.upd_dropped [] = 0 ∧
       t.reg TBL_STATUS.rb_lost [] = 0 ∧ t.reg TBL_STATUS.rb_busy [] = s.reg TBL_STATUS.rb_busy [] ∧
       t.reg TBL_CTRL.sweep_rate [] = v.toNat % 256)) ∧
  ∀ (s : State) (a : Agent) (n : CoreId) (v : BitVec 32), s.partOf a ≠ 0 →
    exec (.arrPerfClr a n v) s = .next s ∧ exec (.dvlPerfClr a n v) s = .next s ∧ exec (.selPerfClr a n v) s = .next s ∧
      exec (.srtPerfClr a n v) s = .next s ∧ exec (.spmPerfClr a n v) s = .next s ∧ exec (.tblPerfClr a v) s = .next s

/-! ### Hosts, partitions and transactions (chapter 16) -/

/-- R416: a reset of P1 to P3 discards its open transaction with status 12, halts its fabric channels and clears the arm of its objects, and keeps
ownership and maps; stopped reads 1 until it ends. A reset event of a function resets the partition it is bound to; P0 is not reset. R409, R410, R412,
R418: an access through BAR2 that no entry permits is dropped, a read of it completes with Completer Abort, and it is counted; one that an entry
permits reaches its device address; a vector that nothing masks any more is sent. Completion: under the conditions on state and operands that its
clauses name, exec answers a next state, which they give, for partitionResetWrite, partitionResetEnd, pcieResetEvent, pcieInboundRequest and
msixUnmask. -/
def Obligations.PartitionsAndPcie : Prop :=
  ((∀ (s : State) (a : Agent) (p : PartId) (v : BitVec 32), P0Agent s a → p ≠ 0 →
     (let sh (q : Nat) := if q = p.val then v.toNat % 64 else s.reg HOST_PART_CTRL.share [q]
      sh 0 + sh 1 + sh 2 + sh 3 ≤ 64) →
     (let i := [p.val]
      ∃ t, exec (.partitionResetWrite a p v) s = .next t ∧ t.mem = s.mem ∧ t.reg HOST_PART_CTRL.stopped i = 1 ∧
        t.reg HOST_PART_STATUS.resets i = min (s.reg HOST_PART_STATUS.resets i + 1) (2 ^ 16 - 1) ∧ t.txns[p].opened = false ∧
        (s.txns[p].opened = true → t.reg CFG_TXN_STATUS.status i = 12) ∧
        (∀ k : Fin 32, s.reg DMA_OWN.part [k.val] = p.val → t.chan none k.val = none) ∧
        (∀ k : Fin 32, s.reg DMA_OWN.part [k.val] ≠ p.val → t.chan none k.val = s.chan none k.val) ∧
        (∀ o : SoId, s.reg SO_ATTR.own_valid [o.val] ≠ 0 → s.reg SO_ATTR.owner [o.val] = p.val → t.reg SO_ATTR.arm [o.val] = 0) ∧
        (∀ k : Fin 32, t.reg DMA_OWN.part [k.val] = s.reg DMA_OWN.part [k.val]) ∧
        (∀ (q : PartId) (k : BitVec 12), t.reg HOST_MAP.page [q.val, k.toNat] = s.reg HOST_MAP.page [q.val, k.toNat]) ∧
        ∀ q : PartId, q ≠ p → t.txns[q] = s.txns[q])) ∧
   (∀ s : State, s.startReset 0 = s) ∧
   (∀ (s : State) (dt : Nat) (p : PartId),
     (let u := s.advance dt
      ((∀ e ∈ u.presets, e.1 ≠ p) → exec (.partitionResetEnd dt p) s = .next u) ∧
      ((∃ e ∈ u.presets, e.1 = p) → ∃ t, exec (.partitionResetEnd dt p) s = .next t ∧ t.reg HOST_PART_CTRL.stopped [p.val] = 0 ∧
        (∀ e ∈ t.presets, e.1 ≠ p) ∧ SameRegsBut u t [(HOST_PART_CTRL.stopped, [p.val])] ∧ t = { u with csr := t.csr, presets := t.presets }))) ∧
   ∀ (s : State) (dt : Nat),
     (let u := s.advance dt
      (u.awake = false → ∀ e, exec (.pcieResetEvent dt e) s = .next u) ∧
      (u.awake = true →
        (∀ f : Fin 8, (let v := { u with msix := u.msix.set f Msix.fresh }
          exec (.pcieResetEvent dt (.flr f)) s =
            .next (if u.fnPresent f = true then v.startReset (Fin.ofNat 4 (u.reg HOST_FN_BIND.part [f.val])) else v))) ∧
        ∀ port : Fin 2, ∃ t, exec (.pcieResetEvent dt (.linkDown port)) s = .next t ∧ exec (.pcieResetEvent dt (.hot port)) s = .next t ∧
          t.links[port] = false ∧ t.mem = u.mem ∧ ∀ f : Fin 8, f.val / 4 = port.val → t.msix[f] = Msix.fresh))) ∧
  ((∀ (s : State) (f : Fin 8) (t : PcieTarget) (n : Nat) (bs : List Byte) (host : BitVec 256), s.agentLive (.fn f) = false →
     exec (.pcieInboundRequest f t n bs host) s = .next s) ∧
   (∀ (s : State) (f : Fin 8) (o : BitVec 33) (n : Nat) (bs : List Byte) (host : BitVec 256), s.agentLive (.fn f) = true →
     (let k := if bs = [] then n else bs.length
      let p := s.partOf (.fn f)
      let i := [p.val, o.toNat / 2 ^ 21]
      let wr := decide (bs ≠ [])
      let d := s.reg HOST_MAP.page i * 2 ^ 21 + o.toNat % 2 ^ 21
      let open' := s.reg HOST_MAP.valid i ≠ 0 ∧ s.reg (if wr = true then HOST_MAP.wr else HOST_MAP.rd) i ≠ 0
      0 < k → o.toNat % 32 + k ≤ 32 →
        (¬ open' → exec (.pcieInboundRequest f (.bar2 o) n bs host) s = .next (s.refuseAccess (.fn f) wr .map)) ∧
        (open' → d + k ≤ s.dataBytes → s.dataBytes ≤ vaultBase → s.agentDenial (.fn f) wr d = none → s.dramHeld d = false → Quiet s →
          (bs = [] → exec (.pcieInboundRequest f (.bar2 o) n bs host) s = .next (s.emit (.data (.fn f) (s.readNat d (inWord d k))))) ∧
          (bs ≠ [] → exec (.pcieInboundRequest f (.bar2 o) n bs host) s = .next (s.writeBytes d (bs.take (inWord d k))))))) ∧
   (∀ (s : State) (f : Fin 8) (v : BitVec 16) (n : Nat) (bs : List Byte) (host : BitVec 256), s.agentLive (.fn f) = true →
     ∃ t, exec (.pcieInboundRequest f (.control v) n bs host) s = .next t ∧ t.msix[f].enabled = v.getLsbD 15 ∧
       t.msix[f].masked = v.getLsbD 14 ∧ t.msix[f].mask = s.msix[f].mask ∧ t.csr = s.csr ∧ t.mem = s.mem) ∧
   ∀ (s : State) (f : Fin 8) (v : Fin 64),
     (s.agentLive (.fn f) = false → exec (.msixUnmask f v) s = .next s) ∧
     (s.agentLive (.fn f) = true → ∃ t, exec (.msixUnmask f v) s = .next t ∧ t.msix[f].mask.getLsbD v.val = false ∧ t.csr = s.csr ∧
       (∀ w : Fin 64, w ≠ v → t.msix[f].mask.getLsbD w.val = s.msix[f].mask.getLsbD w.val) ∧
       (s.msix[f].enabled = true → s.msix[f].masked = false → s.fnLink f = true → s.msix[f].pba.getLsbD v.val = true →
         t.msix[f].pba.getLsbD v.val = false ∧ .msix f v.val ∈ t.out) ∧
       (s.msix[f].enabled = false ∨ s.msix[f].masked = true ∨ s.fnLink f = false → t.out = s.out ∧ t.msix[f].pba = s.msix[f].pba)))

/-- R410, R413, R415: a map entry takes a page that its partition may name and refuses another; a binding that would give a partition two functions and
shares above 64 are ignored and recorded; the shares renew each period; a link that comes up shows in the bound partition. Completion: under the
conditions on state and operands that its clauses name, exec answers a next state, which they give, for hostMapWrite, partShareWrite, fnBindWrite,
sharePeriod and pcieLinkUp. -/
def Obligations.MapsAndShares : Prop :=
  (∀ (s : State) (a : Agent) (p : PartId) (k : BitVec 12) (v : W64), P0Agent s a →
    (let i := [p.val, k.toNat]
     let page := v.toNat / 2 ^ 21 % 2 ^ 27
     let x := page * 2 ^ 21
     ∃ t, exec (.hostMapWrite a p k .whole v) s = .next t ∧ t = { s with csr := t.csr, halves := t.halves } ∧
       (s.pageAllowed p page = true ↔ (x + 2 ^ 21 ≤ s.dataBytes ∨ (vaultBase ≤ x ∧ x < vaultBase + 0x4000000) ∨
         (spmBase ≤ x ∧ x < spmBase + 0x8000000) ∨ (hostBase + p.val * 2 ^ 40 ≤ x ∧ x < hostBase + (p.val + 1) * 2 ^ 40))) ∧
       (s.pageAllowed p page = true → t.reg HOST_MAP.page i = page ∧ t.reg HOST_MAP.valid i = v.toNat / 2 ^ 63 ∧
         t.reg HOST_MAP.rd i = v.toNat / 2 ^ 62 % 2 ∧ t.reg HOST_MAP.wr i = v.toNat / 2 ^ 61 % 2) ∧
       (s.pageAllowed p page = false → t.reg HOST_PART_STATUS.map_err [p.val] = 1 ∧ SameRegsBut s t [(HOST_PART_STATUS.map_err, [p.val])]))) ∧
  (∀ (s : State) (a : Agent) (p : PartId) (v : BitVec 32), P0Agent s a → v.getLsbD 31 = false →
    (let i := [p.val]
     let sh (q : Nat) := if q = p.val then v.toNat % 64 else s.reg HOST_PART_CTRL.share [q]
     let sum := sh 0 + sh 1 + sh 2 + sh 3
     ∃ t, exec (.partShareWrite a p v) s = .next t ∧ t = { s with csr := t.csr, halves := t.halves } ∧
       (sum ≤ 64 → t.reg HOST_PART_CTRL.share i = v.toNat % 64 ∧ SameRegsBut s t [(HOST_PART_CTRL.share, i)]) ∧
       (64 < sum → t.reg HOST_PART_STATUS.share_err i = 1 ∧ SameRegsBut s t [(HOST_PART_STATUS.share_err, i)]))) ∧
  (∀ (s : State) (a : Agent) (f : Fin 8) (v : BitVec 32), P0Agent s a → s.locked = false →
    (let q : Nat := v.toNat % 4
     let others := ∀ g : Fin 8, g ≠ f → s.fnPresent g = true → s.reg HOST_FN_BIND.part [g.val] ≠ q
     let clean := ∀ g h : Fin 8, g ≠ h → g ≠ f → h ≠ f → s.fnPresent g = true → s.fnPresent h = true →
       s.reg HOST_FN_BIND.part [g.val] ≠ s.reg HOST_FN_BIND.part [h.val]
     ∃ t, exec (.fnBindWrite a f v) s = .next t ∧ t = { s with csr := t.csr, halves := t.halves } ∧
       (others ∨ s.fnPresent f = false → clean → t.reg HOST_FN_BIND.part [f.val] = q) ∧
       (¬ others → s.fnPresent f = true → t.reg HOST_FN_BIND.part [f.val] = s.reg HOST_FN_BIND.part [f.val] ∧
         t.reg HOST_PART_STATUS.bind_err [q] = 1))) ∧
  (∀ (s : State) (dt : Nat),
    (let u := s.advance dt
     (u.clk.tclk < u.shareT + 250000 → exec (.sharePeriod dt) s = .next u) ∧
     (u.shareT + 250000 ≤ u.clk.tclk → ∃ t, exec (.sharePeriod dt) s = .next t ∧ t.shareT = u.shareT + 250000 ∧ t.csr = u.csr ∧ t.mem = u.mem ∧
       ∀ (n : CoreId) (p : PartId), t.cores[n].used[p] = 0 ∧ t.cores[n].slots = u.cores[n].slots))) ∧
  ∀ (s : State) (dt : Nat) (port : Fin 2),
    (let u := s.advance dt
     let may := u.awake = true ∧ (port = 0 ∨ (u.reg HOST_PCIE_CFG.x8 = 0 ∧ u.minimal = false))
     (¬ may → exec (.pcieLinkUp dt port) s = .next u) ∧
     (may → ∃ t, exec (.pcieLinkUp dt port) s = .next t ∧ t.links = u.links.set port true ∧ t = { u with csr := t.csr, links := t.links } ∧
       ∀ (p : PartId) (f : Fin 8), u.boundFn p = some f → f.val / 4 = port.val → t.reg HOST_PART_STATUS.link_up [p.val] = 1))

/-- R419 to R422, R424: begin, commit and rollback of a partition's transaction: begin opens one, or sets status 6 where one is open; commit hands it to
validation; rollback discards it with status 4; commit and rollback without one set status 5. A begin, commit or rollback while the commit is
validated (status 1) starts nothing and ends nothing. Completion: under the conditions on state and operands that its clauses name, exec answers a
next state, which they give, for cfgBegin, cfgCommit and cfgRollback. -/
def Obligations.TransactionActions : Prop :=
  ∀ (s : State) (a : Agent) (v : BitVec 32), s.agentLive a = true →
    (let p := s.partOf a
     let i := [p.val]
     let x := s.txns[p]
     (v.getLsbD 30 = false → v.getLsbD 29 = false → x.validating = false →
       ∃ t, exec (.cfgBegin a v) s = .next t ∧ t = { s with csr := t.csr, halves := t.halves, txns := t.txns } ∧
         (x.opened = true → t.txns = s.txns ∧ t.reg CFG_TXN_STATUS.status i = 6) ∧
         (x.opened = false → t.txns = s.txns.set p { Txn.fresh with opened := true } ∧ t.reg CFG_TXN_STATUS.status i = 2 ∧
           t.reg CFG_TXN.staged i = 0)) ∧
     (v.getLsbD 31 = false → v.getLsbD 29 = false → x.validating = false →
       ∃ t, exec (.cfgCommit a v) s = .next t ∧ t = { s with csr := t.csr, halves := t.halves, txns := t.txns } ∧
         (x.opened = false → t.txns = s.txns ∧ t.reg CFG_TXN_STATUS.status i = 5) ∧
         (x.opened = true → t.txns[p].opened = false ∧ t.txns[p].validating = true ∧ t.txns[p].entries = x.entries ∧
           t.txns[p].boundary = v.getLsbD 28 ∧ t.reg CFG_TXN_STATUS.status i = 1)) ∧
     (v.getLsbD 31 = false → v.getLsbD 30 = false → x.validating = false →
       ∃ t, exec (.cfgRollback a v) s = .next t ∧ t = { s with csr := t.csr, halves := t.halves, txns := t.txns } ∧
         (x.opened = false → t.txns = s.txns ∧ t.reg CFG_TXN_STATUS.status i = 5) ∧
         (x.opened = true → t.txns = s.txns.set p Txn.fresh ∧ t.reg CFG_TXN_STATUS.status i = 4 ∧ t.reg CFG_TXN.staged i = 0)) ∧
     (v.getLsbD 30 = true → ∃ t, exec (.cfgBegin a v) s = .next t ∧ t = { s with halves := t.halves }) ∧
     (x.validating = true → ∀ c ∈ [Instr.cfgBegin a v, Instr.cfgCommit a v, Instr.cfgRollback a v], ∃ t, exec c s = .next t ∧
       SameRegsBut s t [(CFG_TXN.when, i)] ∧ t = { s with csr := t.csr, halves := t.halves }))

/-- R13, R15, R420 to R423: a write of an RWT register is discarded and counted with no transaction open, recorded with one, and marks it where it is the
first that is not permitted or exceeds 256 entries; a write at an unaligned place is not performed. A field that spans the halves of its register
takes its value with the upper half, by example of FE_PBUF_BASE. The end of a validation reports a mark, a conflict, the pending limit or a broken
rule, applies nothing then, and otherwise takes the next seq and applies or holds the entries. Completion: under the conditions on state and operands
that its clauses name, exec answers a next state, which they give, for cfgStageWrite and cfgValidateEnd. -/
def Obligations.TransactionStages : Prop :=
  (∀ (s : State) (p : PartId) (may : Bool) (off n v : Nat),
    (let t := s.stageWrite p may off n v
     let x := s.txns[p]
     let rest := x.entries.filter fun e => !decide (e.off = off ∧ e.bytes = n)
     (x.opened = false → t = { s with csr := t.csr } ∧
       t.reg CFG_STATUS.rwt_discard [] = min (s.reg CFG_STATUS.rwt_discard [] + 1) (2 ^ 16 - 1)) ∧
     (x.opened = true → x.mark ≠ none → may = false ∨ 256 ≤ rest.length → t = s) ∧
     (x.opened = true → x.mark = none → may = false → t = { s with txns := s.txns.set p { x with mark := some (8, off) } }) ∧
     (x.opened = true → x.mark = none → may = true → 256 ≤ rest.length →
       t = { s with txns := s.txns.set p { x with mark := some (7, off) } }) ∧
     (x.opened = true → may = true → rest.length < 256 →
       t.txns = s.txns.set p { x with entries := rest ++ [⟨off, n, v % 2 ^ (8 * n)⟩] } ∧ t.reg CFG_TXN.staged [p.val] = rest.length + 1 ∧
         SameRegsBut s t [(CFG_TXN.staged, [p.val])]))) ∧
  (∀ (s : State) (a : Agent) (off : BitVec 26) (wide : Bool) (v : W64),
    (let n := if wide = true then 8 else 4
     (off.toNat % n = 0 → exec (.cfgStageWrite a off wide v) s = .next (s.csrWrite a off.toNat n v.toNat)) ∧
     (off.toNat % n ≠ 0 → exec (.cfgStageWrite a off wide v) s = .next (s.csrAbort a)))) ∧
  (∀ (c : Csr) (lo hi : Nat) (k : Fin 4), lo < 2 ^ 32 → hi < 2 ^ 32 →
    (let off := 0x700040 + 8 * k.val
     let base (l : List Staged) := csrGet (applyEntries c l) FE_PBUF_BASE.base [k.val]
     applyEntries c [⟨off, 4, lo⟩] = c ∧ base [⟨off, 4, lo⟩, ⟨off + 4, 4, hi⟩] = (hi * 2 ^ 32 + lo) / 2 ^ 21 % 2 ^ 27 ∧
       base [⟨off + 4, 4, hi⟩] = hi % 2 ^ 16 * 2 ^ 11 + csrGet c FE_PBUF_BASE.base [k.val] % 2 ^ 11)) ∧
  (∀ (s : State) (a : Agent) (v : W64), P0Agent s a → s.minimal = false →
    (let p : PartId := 0
     s.txns[p].opened = true → s.txns[p].mark = none → s.txns[p].entries = [] →
       ∃ t, exec (.cfgStageWrite a 0x70000C false v) s = .next t ∧ t.csr = (s.setReg CFG_TXN.staged [0] 1).csr ∧
         t.txns[p].entries = [⟨0x70000C, 4, v.toNat % 2 ^ 32⟩])) ∧
  ∀ (s : State) (dt : Nat) (p : PartId),
    (let u := s.advance dt
     let x := u.txns[p]
     let i := [p.val]
     (x.validating = false → exec (.cfgValidateEnd dt p) s = .next u) ∧
     (x.validating = true → ∃ t, exec (.cfgValidateEnd dt p) s = .next t ∧ t.txns[p].validating = false ∧ t.txns[p].opened = false ∧
       (∀ st off, x.mark = some (st, off) → t.reg CFG_TXN_STATUS.status i = st % 16 ∧ t.reg CFG_TXN_STATUS.fail_off i = off % 2 ^ 26 ∧
         t.seq = u.seq ∧ t.pendTx = u.pendTx) ∧
       (∀ off, x.mark = none → u.conflict p x.entries = some off → t.reg CFG_TXN_STATUS.status i = 10 ∧ t.seq = u.seq ∧
         t.reg CFG_STATUS.conflict_count [] = min (u.reg CFG_STATUS.conflict_count [] + 1) (2 ^ 16 - 1)) ∧
       (x.mark = none → u.conflict p x.entries = none → x.boundary = true → x.idle = false → 8 ≤ u.pendTx.length →
         t.reg CFG_TXN_STATUS.status i = 11 ∧ t.seq = u.seq ∧ t.pendTx = u.pendTx) ∧
       (x.mark = none → u.conflict p x.entries = none → (x.boundary = false ∨ x.idle = true ∨ u.pendTx.length < 8) →
         (let v := (u.setTxn p fun _ => Txn.fresh).setReg CFG_TXN.staged [p.val] 0
          let was := v.pendTx.foldl (fun c q => applyEntries c q.entries) v.csr
          let w : View := ⟨v, applyEntries was x.entries, was, !x.boundary && !v.idle⟩
          (∀ c off, checkAll w = some (c, off) → t.reg CFG_TXN_STATUS.status i = 9 ∧ t.reg CFG_TXN_STATUS.cause i = c % 256 ∧ t.seq = u.seq ∧
            t.pendTx = u.pendTx) ∧
          (checkAll w = none → t.seq = u.seq % 65535 + 1 ∧ t.reg CFG_TXN_STATUS.seq i = (u.seq % 65535 + 1) % 65536 ∧
            (x.boundary = true → x.idle = false → v.idle = false → t.reg CFG_TXN_STATUS.status i = 3 ∧
              t.pendTx = u.pendTx ++ [⟨p, u.seq % 65535 + 1, x.entries⟩]) ∧
            (x.boundary = false → t.pendTx = u.pendTx))))))

/-- R427 to R429: each control command is answered under its completion code and leaves the queue of messages, a command at the front of another row
leaves it, and Set Endpoint ID gives the endpoint its EID; DSP0236's layouts are the model's (log entry 51). R429, R469, R473, R475, Table 16-8: each
Olwirin command at the front is answered with its payload; a payload of another length completes with cc 3; an identity or attestation before the key
pair exists with cc 4; a state-changing command outside minimal mode and the wait for a push with cc 4. Completion: under the conditions on state and
operands that its clauses name, exec answers a next state, which they give, for setEndpointId, getEndpointId, getEndpointUuid, getMctpVersionSupport,
getMessageTypeSupport, getVendorDefinedMsgSupport, unsupportedControlCommand, mctpPacketReceive, getStatus, getLog, getIdentity, getAttest and
pushImage. -/
def Obligations.ControlMessages : Prop :=
  ((∀ (s : State) (c : Instr), (c = .setEndpointId ∨ c = .getEndpointId ∨ c = .getEndpointUuid ∨ c = .getMctpVersionSupport ∨
       c = .getMessageTypeSupport ∨ c = .getVendorDefinedMsgSupport ∨ c = .unsupportedControlCommand ∨ c = .getStatus ∨ c = .getLog ∨
       c = .getIdentity) → s.msgs = [] → exec c s = .next s) ∧
   (∀ (s : State) (m : Msg) (l : List Msg) (k : Nat), s.msgs = m :: l → m.ctrl = some k →
     (let u := { s with msgs := l }
      let d := m.body.drop 3
      let say (cc : Nat) (data : List Byte) : State := u.respond m (ctrlReply m cc data)
      let e := (d.getD 1 0).toNat
      (k = 1 → d.length = 2 → (d.getD 0 0).toNat % 4 < 2 → e ≠ 0 → e ≠ 255 → s.reg HOST_MCTP.eid_static = 0 →
        ∃ t, exec .setEndpointId s = .next t ∧ t.reg HOST_MCTP.eid = e ∧ t.msgs = l ∧ SameRegsBut s t [(HOST_MCTP.eid, [])]) ∧
      (k = 1 → d.length = 2 → (d.getD 0 0).toNat % 4 < 2 → e ≠ 0 → e ≠ 255 → s.reg HOST_MCTP.eid_static ≠ 0 →
        exec .setEndpointId s = .next (say 0 [0x10, BitVec.ofNat 8 (s.reg HOST_MCTP.eid), 0])) ∧
      (k = 2 → d = [] → exec .getEndpointId s = .next (say 0 [BitVec.ofNat 8 (s.reg HOST_MCTP.eid), if s.reg HOST_MCTP.eid_static = 0 then 0 else 2, 0])) ∧
      (k = 3 → d = [] → s.boot.pubkey = [] → exec .getEndpointUuid s = .next (say 4 [])) ∧
      (k = 3 → d = [] → s.boot.pubkey ≠ [] → ∃ b, b.length = 16 ∧ exec .getEndpointUuid s = .next (say 0 b)) ∧
      (k = 4 → d.length = 1 → ∃ cc b, exec .getMctpVersionSupport s = .next (say cc b) ∧
        (cc = 0 ↔ (d.getD 0 0).toNat = 0xFF ∨ (d.getD 0 0).toNat = 0 ∨ (d.getD 0 0).toNat = 0x7E)) ∧
      (k = 5 → d = [] → exec .getMessageTypeSupport s = .next (say 0 [2, 0x00, 0x7E])) ∧
      (k = 6 → d = [0] → ∃ x : BitVec 16, exec .getVendorDefinedMsgSupport s =
        .next (say 0 ([0xFF, 0x00] ++ (bytesOf 2 (s.reg HOST_PCI_ID.vendor_id)).reverse ++ (bytesOf 2 x.toNat).reverse))) ∧
      (k = 0 ∨ 6 < k → exec .unsupportedControlCommand s = .next (say 5 [])) ∧
      (k ≠ 1 → exec .setEndpointId s = .next s) ∧ (k ≠ 2 → exec .getEndpointId s = .next s))) ∧
   (∀ (s : State) (b : MctpBinding) (bs : List Byte), s.bindingOn b = false → exec (.mctpPacketReceive b bs) s = .next s) ∧
   ∀ (s : State) (b : MctpBinding) (src tag : BitVec 8) (op : BitVec 8), s.bindingOn b = true → tag.toNat < 8 → s.msgs = [] →
     (let bs : List Byte := [1, 0, src, 0xC8 ||| tag, 0, 0x80, op]
      ∃ t, exec (.mctpPacketReceive b bs) s = .next t ∧ t.msgs = [⟨.mctp src.toNat tag.toNat, [0, 0x80, op]⟩] ∧ t.out = s.out ∧ t.csr = s.csr)) ∧
  ((∀ (s : State) (m : Msg) (l : List Msg) (b : List Byte), s.msgs = m :: l → m.olw = some b → 6 ≤ b.length →
     (let k := (b.getD 0 0).toNat
      let d := b.drop 6
      let whole := natOfBytes ((b.drop 4).take 2) = d.length
      let u := { s with msgs := l }
      let say (cc : Nat) (data : List Byte) : State := u.respond m (u.olwReply m cc data)
      (k = 1 → whole → d = [] → exec .getStatus s = .next (say 0 u.statusBytes) ∧ u.statusBytes.length = 24) ∧
      (k = 1 → ¬ whole → exec .getStatus s = .next (say 3 [])) ∧
      (k = 3 → whole → d.length = 1 → (d.getD 0 0).toNat < 32 →
        ∃ x, x.length = 32 ∧ exec .getLog s = .next (say 0 x)) ∧
      (k = 3 → whole → d.length = 1 → 32 ≤ (d.getD 0 0).toNat → exec .getLog s = .next (say 2 [])) ∧
      (k = 4 → whole → d.length = 6 → s.boot.pubkey = [] → exec .getIdentity s = .next (say 4 [])) ∧
      (k = 4 → whole → d.length = 6 → natOfBytes (d.take 4) < s.boot.pubkey.length → ∃ x, x <:+: s.boot.pubkey ∧
        exec .getIdentity s = .next (say 0 x)) ∧
      (k ≠ 1 → exec .getStatus s = .next s) ∧ (k ≠ 3 → exec .getLog s = .next s) ∧ (k ≠ 4 → exec .getIdentity s = .next s))) ∧
   ∀ (s : State) (dt : Nat) (m : Msg) (l : List Msg) (b : List Byte), (s.advance dt).msgs = m :: l → m.olw = some b → 6 ≤ b.length →
     natOfBytes ((b.drop 4).take 2) = (b.drop 6).length →
     (let u := { s.advance dt with msgs := l }
      let k := (b.getD 0 0).toNat
      let d := b.drop 6
      (k = 2 → d.length = 38 → u.boot.pubkey = [] → exec (.getAttest dt) s = .next (u.respond m (u.olwReply m 4 []))) ∧
      (k = 2 → d.length = 38 → u.boot.pubkey ≠ [] → natOfBytes ((d.drop 32).take 4) = 0 →
        ∃ t, exec (.getAttest dt) s = .next t ∧ t.boot.report.take (64 + 80 * u.boot.meas.length) = u.reportHead (d.take 32) ∧
          t.boot.report.length = 64 + 80 * u.boot.meas.length + 4627 ∧ t.csr = u.csr ∧ t.mem = u.mem) ∧
      (k = 5 → u.mayPush = false → ∀ tr, ∃ cc, (cc = 3 ∨ cc = 4) ∧ exec (.pushImage dt tr) s = .next (u.respond m (u.olwReply m cc []))) ∧
      (k ≠ 2 → exec (.getAttest dt) s = .next (s.advance dt)) ∧ (k ≠ 5 → ∀ tr, exec (.pushImage dt tr) s = .next (s.advance dt))))

/-! ### The safety monitor (chapter 17) -/

/-- R441 to R443, R448, Table 17-2: the detections of the keep-alive, the lockstep channels and the clock monitor enter the safe state where the SAFE
domain runs, once for a missed kick; a masked cause is no detection. R441, R449, Table 17-6: a write of force detects, a kick starts a new keep-alive
interval, and a restart with its key is refused, or clears cause, detail and more and enters restarting; another key is ignored. Completion: under the
conditions on state and operands that its clauses name, exec answers a next state, which they give, for keepaliveExpiry, lockstepMismatch,
clockMonitorWindow, safeRestart, safeForce and safeKick. -/
def Obligations.DetectionsAndControl : Prop :=
  ((∀ (s : State) (code detail : Nat) (about : Option Nat), s.fullOn = true → code < 256 → detail < 256 →
     ((code < 0x40 ∨ 0x43 < code ∨ s.reg SAFE_FAULT_EN.en / 2 ^ (code - 0x40) % 2 = 1) →
       Detected s (s.detect code detail about) code detail (about.getD s.lowestIncomplete)) ∧
     (0x40 ≤ code → code ≤ 0x43 → s.reg SAFE_FAULT_EN.en / 2 ^ (code - 0x40) % 2 = 0 → s.detect code detail about = s)) ∧
   ∀ (s : State) (dt : Nat),
     (let u := s.advance dt
      let late := u.reg SAFE_CTRL.kick_ms ≠ 0 ∧ u.mon.kickLate = false ∧ u.mon.kickT + 250000 * u.reg SAFE_CTRL.kick_ms ≤ u.clk.tclk
      (late → u.fullOn = true → ∃ t, exec (.keepaliveExpiry dt) s = .next t ∧ t.mon.kickLate = true ∧ Detected u t 0x03 0 u.lowestIncomplete) ∧
      (late → u.fullOn = false → exec (.keepaliveExpiry dt) s = .next { u with mon := { u.mon with kickLate := true } }) ∧
      (¬ late → exec (.keepaliveExpiry dt) s = .next u) ∧
      (u.fullOn = true → ∃ t, exec (.lockstepMismatch dt) s = .next t ∧ Detected u t 0x50 0 u.lowestIncomplete ∧ t.mon.coldCause = true) ∧
      (u.fullOn = true → ∃ t, exec (.clockMonitorWindow dt true) s = .next t ∧ Detected u t 0x52 0 u.lowestIncomplete ∧ t.mon.coldCause = true) ∧
      exec (.clockMonitorWindow dt false) s = .next u ∧
      (u.fullOn = false → exec (.lockstepMismatch dt) s = .next u ∧ exec (.clockMonitorWindow dt true) s = .next u))) ∧
  ((∀ (s : State) (a : Agent) (v : BitVec 32), s.partOf a ≠ s.safetyOwner → exec (.safeRestart a v) s = .next s ∧
     exec (.safeForce a v) s = .next s ∧ exec (.safeKick a v) s = .next s) ∧
   ∀ (s : State) (a : Agent) (v : BitVec 32), SafetyAgent s a → s.fullOn = true →
     (v.getLsbD 15 = false → v.getLsbD 14 = true → ∃ t, exec (.safeForce a v) s = .next t ∧ Detected s t 0x02 0 s.lowestIncomplete ∧
       t.reg SAFE_CTRL.kick_ms = v.toNat % 256) ∧
     (v.getLsbD 15 = false → v.getLsbD 14 = false → v.getLsbD 13 = true → ∃ t, exec (.safeKick a v) s = .next t ∧ t.mon.kickT = s.clk.tclk ∧
       t.mon.kickLate = false ∧ t.reg SAFE_CTRL.kick_ms = v.toNat % 256 ∧ SameRegsBut s t [(SAFE_CTRL.kick_ms, [])] ∧
       t = { s with csr := t.csr, halves := t.halves, mon := { s.mon with kickT := s.clk.tclk, kickLate := false } }) ∧
     (v.getLsbD 15 = true → v.getLsbD 14 = false → v.getLsbD 13 = false → s.reg SAFE_CTRL.kick_ms = v.toNat % 256 →
       (let refused := s.reg SAFE_STATUS.state ≠ 0 ∨ s.mon.coldCause = true ∨ s.reg FE_EXP_CTRL.enable = 0 ∨ s.reg SAFE_PF_CFG.en = 0 ∨
          s.mon.lastT = some s.clk.tclk
        ∃ t, exec (.safeRestart a v) s = .next t ∧ t.mem = s.mem ∧ t.mon.safeaLow = s.mon.safeaLow ∧ t.mon.safeb = s.mon.safeb ∧
          (v.toNat / 2 ^ 16 ≠ 0xA55A → SameRegsBut s t [(SAFE_STATUS.key_err, [])] ∧ t.reg SAFE_STATUS.key_err = 1) ∧
          (v.toNat / 2 ^ 16 = 0xA55A → refused → SameRegsBut s t [(SAFE_STATUS.restart_err, [])] ∧ t.reg SAFE_STATUS.restart_err = 1) ∧
          (v.toNat / 2 ^ 16 = 0xA55A → ¬ refused → t.reg SAFE_STATUS.state = 1 ∧ t.reg SAFE_STATUS.cause = 0 ∧ t.reg SAFE_STATUS.detail = 0 ∧
            t.reg SAFE_STATUS.more = 0 ∧ t.mon.restartT = some s.clk.tclk ∧ t.mon.disagreed = s.mon.disagreed ∧
            SameRegsBut s t [(SAFE_STATUS.state, []), (SAFE_STATUS.cause, []), (SAFE_STATUS.detail, []), (SAFE_STATUS.more, []),
              (SAFE_FRAME.frame, [])]))))

/-- R433, R434, R437, R440: a stage mark for no judged exposure is stray, a stage that has not completed within max_us is late and detected once; the
comparison of a proof frame ends with its outcome in SAFE_PF_RESULT; one that does not end in time and a protective Print that is missing are detected
once. Completion: under the conditions on state and operands that its clauses name, exec answers a next state, which they give, for stageMarkArrive,
stageLate, proofCompareEnd, proofCompareTimeout and protPrintMissing. -/
def Obligations.StagesAndProof : Prop :=
  (∀ (s : State) (dt j : Nat),
    (let u := s.advance dt
     (u.mon.marksSent[j]? = none → exec (.stageMarkArrive dt j) s = .next u) ∧
     (∀ (n : CoreId) (c : CtxId) (st : Nat) (b : BitVec 32), u.mon.marksSent[j]? = some (n, c, st, b) →
       (∀ e ∈ u.mon.marksSent.take j, e.1 ≠ n) →
       (let v := { u with mon := { u.mon with marksSent := u.mon.marksSent.eraseIdx j } }
        ((∀ g ∈ u.mon.judged, g.exp % 2 ^ 32 ≠ b.toNat) →
          exec (.stageMarkArrive dt j) s = .next (v.bump SAFE_COUNT.stray_marks [])) ∧
        ∀ g : Judge, u.mon.judged = [g] → g.exp % 2 ^ 32 = b.toNat → ∀ k : Fin 16, st = k.val →
          (let active := csrGet g.cfg FE_EXP_ACTIVE.active []
           let ok := g.closeT ≠ none ∧ g.overrun = false ∧ g.wdg st SAFE_WDG.en = 1 ∧ active / 2 ^ n.val % 2 = 1 ∧ g.done[k] = none
           let m := g.marks[k] ||| (1#32 <<< n.val)
           (¬ ok → exec (.stageMarkArrive dt j) s = .next (v.bump SAFE_COUNT.stray_marks [])) ∧
           (ok → g.wdg st SAFE_WDG.per_core = 1 → (∃ i : Nat, active.testBit i = true ∧ m.getLsbD i = false) →
             exec (.stageMarkArrive dt j) s =
               .next { v with mon := { v.mon with judged := [{ g with marks := g.marks.set k m }] } })))))) ∧
  (∀ (s : State) (dt j : Nat) (st : Fin 16) (g : Judge),
    (let u := s.advance dt
     let past (t0 : Nat) := g.wdg st.val SAFE_WDG.max_us ≤ (u.clk.tclk - t0) / 250
     let open' := g.wdg st.val SAFE_WDG.en = 1 ∧ (g.overrun = false ∨ st.val = 0) ∧ g.done[st] = none ∧ g.late[st] = false
     (u.judge j = none → exec (.stageLate dt j st) s = .next u) ∧
     (u.judge j = some g →
       (g.stageRef st.val = none → exec (.stageLate dt j st) s = .next u) ∧
       ∀ t0, g.stageRef st.val = some t0 →
         (open' ∧ past t0 → u.fullOn = true → ∃ t, exec (.stageLate dt j st) s = .next t ∧ t.reg SAFE_STATUS.state = 0 ∧
           (u.reg SAFE_STATUS.state ≠ 0 → t.reg SAFE_STATUS.cause = 0x11 ∧ t.reg SAFE_STATUS.detail = st.val ∧
             t.reg SAFE_STATUS.withdraw_from = j % 2 ^ 32) ∧ t.mem = u.mem ∧
           ∀ h ∈ t.mon.judged, h.exp = j → h.late[st] = true) ∧
         (¬ (open' ∧ past t0) → exec (.stageLate dt j st) s = .next u)))) ∧
  (∀ (s : State) (dt : Nat),
    (let u := s.advance dt
     ((∀ c ∈ u.mon.comparing, c.2.1 = none) → exec (.proofCompareEnd dt) s = .next u ∧ exec (.proofCompareTimeout dt) s = .next u) ∧
     ∀ j t0 late l, u.mon.comparing = (j, some t0, late) :: l → (∀ c ∈ l, c.1 ≠ j ∧ c.2.1 = none) →
       (let cfg := u.proofCfg j
        let base := vaultBase + 65536 * csrGet cfg SAFE_PF_CFG.out_base []
        let due := csrGet cfg SAFE_PF_CFG.cmp_max_us [] ≤ (u.clk.tclk - t0) / 250
        (late = true ∨ ¬ due → exec (.proofCompareTimeout dt) s = .next u) ∧
        (late = false → due → u.fullOn = true → ∃ t, exec (.proofCompareTimeout dt) s = .next t ∧ Detected u t 0x22 0 j ∧
          t.mon.comparing = (j, some t0, true) :: l) ∧
        (Quiet u → u.haze = [] → u.fullOn = true →
          (let wrong := natOfBytes (u.readBytes base 8) ≠ j ∨
             natOfBytes (u.readBytes (base + 8) 1) ≠ proofCore (csrGet cfg FE_EXP_ACTIVE.active []) j
           ∃ t, exec (.proofCompareEnd dt) s = .next t ∧ t.mon.comparing = l ∧ t.reg SAFE_PF_RESULT.exposure = j % 2 ^ 32 ∧
             t.mem = u.mem ∧ t.reg SAFE_STATUS.pf_pass = t.reg SAFE_PF_RESULT.pass ∧
             (wrong → t.reg SAFE_PF_RESULT.hdr_err = 1 ∧ t.reg SAFE_PF_RESULT.pass = 0 ∧ t.reg SAFE_PF_RESULT.n_fail = 0 ∧
               t.reg SAFE_STATUS.state = 0 ∧ (u.reg SAFE_STATUS.state ≠ 0 → t.reg SAFE_STATUS.cause = 0x20)) ∧
             (¬ wrong → t.reg SAFE_PF_RESULT.hdr_err = 0 ∧
               (t.reg SAFE_PF_RESULT.pass = 1 → t.reg SAFE_PF_RESULT.n_fail = 0 ∧
                 (u.reg SAFE_STATUS.state = 1 → u.mon.restartR = some j → t.reg SAFE_STATUS.state = 2 ∧ t.mon.safeaLow = false) ∧
                 (u.reg SAFE_STATUS.state ≠ 1 ∨ u.mon.restartR ≠ some j → t.reg SAFE_STATUS.state = u.reg SAFE_STATUS.state))) ∧
             (t.reg SAFE_PF_RESULT.pass = 0 → t.reg SAFE_STATUS.state = 0 ∧
               t.reg SAFE_COUNT.pf_fail = min (u.reg SAFE_COUNT.pf_fail + 1) 65535)))))) ∧
  (∀ e y : Nat, bitOf e 63 = true → proofPasses e y = true) ∧
  ∀ (s : State) (dt j : Nat),
    (let u := s.advance dt
     (u.expRec j = none → exec (.protPrintMissing dt j) s = .next u) ∧
     ∀ e, u.expRec j = some e →
       (let miss := e.closeNs ≠ none ∧ e.overrun = false ∧ e.checked = true ∧ e.compared = false ∧ e.missed = false ∧
          csrGet e.cfg SAFE_CHK.prot_max_us [] ≤ (u.clk.tclk - e.closeT) / 250
        (¬ miss → exec (.protPrintMissing dt j) s = .next u) ∧
        (miss → u.fullOn = true → ∃ t, exec (.protPrintMissing dt j) s = .next t ∧ t.reg SAFE_STATUS.state = 0 ∧ t.mem = u.mem ∧
          (u.reg SAFE_STATUS.state ≠ 0 → t.reg SAFE_STATUS.cause = 0x31 ∧ t.reg SAFE_STATUS.withdraw_from = j % 2 ^ 32) ∧
          ∀ x ∈ t.exps, x.num = j → x.missed = true)))

/-- R444, R446, R447: an update of the frame adds 1 to seq and writes its bytes; the fall of SAFE_CS_N latches it and shifts it out; SAFEB toggles 500 µs
after its last edge in the running state alone. Completion: under the conditions on state and operands that its clauses name, exec answers a next
state, which they give, for frameUpdateTimer, safeCsFall and safebToggle. -/
def Obligations.StatusFrame : Prop :=
  ∀ (s : State) (dt : Nat),
    (let u := s.advance dt
     (u.fullOn = true → ∃ t, exec (.frameUpdateTimer dt) s = .next t ∧ t.mon.frameSeq = (u.mon.frameSeq + 1) % 65536 ∧
       t.reg SAFE_FRAME.frame % 256 = 1 ∧ t.reg SAFE_FRAME.frame / 2 ^ 8 % 256 = u.reg SAFE_STATUS.state % 256 ∧
       t.reg SAFE_FRAME.frame / 2 ^ 16 % 2 ^ 16 = (u.mon.frameSeq + 1) % 65536 ∧
       (u.reg SAFE_STATUS.state = 2 → t.reg SAFE_FRAME.frame / 2 ^ 32 % 256 = 0) ∧
       (u.reg SAFE_STATUS.state ≠ 2 → t.reg SAFE_FRAME.frame / 2 ^ 32 % 256 = u.reg SAFE_STATUS.cause % 256) ∧
       t.reg SAFE_FRAME.frame / 2 ^ 64 % 2 ^ 64 = u.mon.latest % 2 ^ 64 ∧
       t.reg SAFE_FRAME.frame / 2 ^ 128 % 2 ^ 32 = u.reg SAFE_STATUS.withdraw_from % 2 ^ 32 ∧
       t.reg SAFE_FRAME.frame / 2 ^ 224 = (crc32 ((bytesOf 32 (t.reg SAFE_FRAME.frame)).take 28)).toNat ∧
       SameRegsBut u t [(SAFE_FRAME.frame, [])] ∧
       t = { u with csr := t.csr, mon := { u.mon with frameSeq := t.mon.frameSeq, frameT := u.clk.tclk } }) ∧
     (u.fullOn = false → exec (.frameUpdateTimer dt) s = .next u ∧ exec (.safeCsFall dt) s = .next u) ∧
     (u.fullOn = true → ∃ t, exec (.safeCsFall dt) s = .next t ∧ t.mon.shifted = bytesOf 32 (u.reg SAFE_FRAME.frame) ∧
       t.out = .spi (bytesOf 32 (u.reg SAFE_FRAME.frame)) :: u.out ∧ t.reg SAFE_COUNT.frames = min (u.reg SAFE_COUNT.frames + 1) 65535 ∧
       SameRegsBut u t [(SAFE_COUNT.frames, [])] ∧ t.mem = u.mem) ∧
     (let due := u.reg SAFE_STATUS.state = 2 ∧ 125000 ≤ u.clk.tclk - u.mon.safebT
      (due → exec (.safebToggle dt) s = .next { u with mon := { u.mon with safeb := !u.mon.safeb, safebT := u.clk.tclk } }) ∧
      (¬ due → exec (.safebToggle dt) s = .next u)))

/-- R450, R451: a request sets its core's pending bit while exposures run; the test starts once the core is out and its contexts are quiet, and ends 12 ms
later: on a pass the core is held, on a failure it has failed and cause 0x43 is detected; its SRAM reads zero and its windows are closed; a release is
noted for a held core alone. Completion: under the conditions on state and operands that its clauses name, exec answers a next state, which they give,
for selfTestRequest, selfTestRelease, selfTestStart and selfTestEnd. -/
def Obligations.SelfTests : Prop :=
  (∀ (s : State) (a : Agent) (v : BitVec 32), s.agentLive a = true → (s.partOf a = 0 ∨ s.partOf a = s.safetyOwner) → s.minimal = false →
    (let n := v.toNat % 32
     let bit (f : Fld) (t : State) := (t.reg f).testBit n
     (v.getLsbD 31 = true → v.getLsbD 30 = false → ∃ t, exec (.selfTestRequest a v) s = .next t ∧ t.mon = s.mon ∧ t.mem = s.mem ∧
       t.reg SAFE_STEST.core = n ∧ t.reg SAFE_STEST.max_out = v.toNat / 2 ^ 8 % 4 ∧
       ((∃ e ∈ s.exps, e.closeNs = none) → bit SAFE_STEST_STATUS.pending t = true ∧ t.reg SAFE_STEST_STATUS.out = s.reg SAFE_STEST_STATUS.out) ∧
       ((∀ e ∈ s.exps, e.closeNs ≠ none) → bit SAFE_STEST_STATUS.out t = true ∧
         t.reg SAFE_STEST_STATUS.pending = s.reg SAFE_STEST_STATUS.pending)) ∧
     (v.getLsbD 31 = false → v.getLsbD 30 = true → ∃ t, exec (.selfTestRelease a v) s = .next t ∧
       SameRegsBut s t [(SAFE_STEST.core, []), (SAFE_STEST.max_out, [])] ∧
       t = { s with csr := t.csr, halves := t.halves, mon := t.mon } ∧
       (bit SAFE_STEST_RESULT.held s = true → t.mon = { s.mon with release := s.mon.release ||| (1#32 <<< n) }) ∧
       (bit SAFE_STEST_RESULT.held s = false → t.mon = s.mon)))) ∧
  ∀ (s : State) (dt : Nat) (n : CoreId),
    (let u := s.advance dt
     let bit (f : Fld) (t : State) := (t.reg f).testBit n.val
     let ready := bit SAFE_STEST_STATUS.out u = true ∧ u.mon.testing.getLsbD n.val = false ∧ bit SAFE_STEST_RESULT.held u = false ∧
       bit SAFE_STEST_RESULT.failed u = false ∧ ∀ c, some c ∈ u.cores[n].slots.toList → u.busyCtx c = false
     let ends := u.mon.testing.getLsbD n.val = true ∧ u.mon.testT[n] + 3000000 ≤ u.clk.tclk
     (ready → ∃ t, exec (.selfTestStart dt n) s = .next t ∧ t.mon.testing.getLsbD n.val = true ∧ t.mon.testT[n] = u.clk.tclk ∧
       t.cores[n].slots = Vector.replicate 4 none) ∧
     (¬ ready → exec (.selfTestStart dt n) s = .next u) ∧
     (¬ ends → ∀ b, exec (.selfTestEnd dt n b) s = .next u) ∧
     (ends → ∀ b, ∃ t, exec (.selfTestEnd dt n b) s = .next t ∧ t.mon.testing.getLsbD n.val = false ∧
       (∀ e ∈ t.mem, e.1 < spmBase + n.val * 0x400000 ∨ spmBase + (n.val + 1) * 0x400000 ≤ e.1) ∧
       (∀ e ∈ u.mem, e.1 < spmBase + n.val * 0x400000 ∨ spmBase + (n.val + 1) * 0x400000 ≤ e.1 → e ∈ t.mem) ∧
       (b = true → bit SAFE_STEST_RESULT.held t = true ∧ t.reg SAFE_STEST_RESULT.failed = u.reg SAFE_STEST_RESULT.failed ∧
         t.reg SAFE_STATUS.state = u.reg SAFE_STATUS.state) ∧
       (b = false → bit SAFE_STEST_RESULT.failed t = true ∧
         (u.fullOn = true → u.reg SAFE_FAULT_EN.en / 2 ^ 3 % 2 = 1 → t.reg SAFE_STATUS.state = 0 ∧
           (u.reg SAFE_STATUS.state ≠ 0 → t.reg SAFE_STATUS.cause = 0x43 ∧ t.reg SAFE_STATUS.detail = n.val)))))

/-! ### Reset, start-up, power (chapter 18) -/

/-- R16, R455, R464, R493, R494: a power-on reset clears every register; a cold reset keeps the retained ones, whether RST_N falls, the start watchdog
expires or software asks with the key; RST_N's rise samples BOOTSEL
and ends the reset unless thermal shutdown holds it. What the model gives a register without a stated reset value is log entry 3.
Completion: under the conditions on state and operands that its clauses name, exec answers a next state, which they give, for powerOnReset, powerDown,
rstNFall, startWatchdogExpiry, rstNRise and softwareReset. -/
def Obligations.Resets : Prop :=
  (∀ (s : State), ∃ t, exec .powerOnReset s = .next t ∧ Afresh s t ∧ t.boot.phase = .held ∧ t.reg BOOT_STATUS.reset_cause = 0 ∧
    (∀ e ∈ retainedFields, t.reg e.1 e.2 = 0) ∧ t.pwr.pads = true) ∧
  (∀ (s : State) (b : Bool), ∃ t, exec (.powerDown b) s = .next t ∧ Afresh s t ∧ t.boot.phase = .held ∧
    (∀ e ∈ retainedFields, t.reg e.1 e.2 = 0) ∧ t.pwr.pads = b) ∧
  (∀ (s : State) (dt : Nat),
    (let u := s.advance dt
     let kept (t : State) := ∀ e ∈ retainedFields, t.reg e.1 e.2 = u.reg e.1 e.2 % 2 ^ e.1.width
     let due := u.boot.armed = true ∧ u.boot.phase ≠ .push ∧ 2500000000 ≤ u.boot.spent + (u.clk.tclk - u.boot.armT)
     (u.boot.phase ≠ .held ∨ u.pwr.hot = true → ∃ t, exec (.rstNFall dt) s = .next t ∧ Afresh u t ∧ kept t ∧ t.boot.phase = .held ∧
       t.reg BOOT_STATUS.reset_cause = 1 ∧ t.pwr.hot = u.pwr.hot) ∧
     (u.boot.phase = .held → u.pwr.hot = false → exec (.rstNFall dt) s = .next u) ∧
     (due → ∃ t, exec (.startWatchdogExpiry dt) s = .next t ∧ Afresh u t ∧ kept t ∧ t.boot.phase = .rom ∧ t.reg BOOT_STATUS.reset_cause = 2) ∧
     (¬ due → exec (.startWatchdogExpiry dt) s = .next u))) ∧
  (∀ (s : State) (sel : Fin 4),
    (s.boot.phase = .held → s.pwr.hot = false →
      exec (.rstNRise sel) s = .next { s with boot := { s.boot with phase := .rom, sel := sel.val } }) ∧
    (s.boot.phase = .held → s.pwr.hot = true → ∃ t, exec (.rstNRise sel) s = .next t ∧ t.boot = { s.boot with sel := sel.val } ∧
      t.reg BOOT_STATUS.reset_cause = 4 ∧ SameRegsBut s t [(BOOT_STATUS.reset_cause, [])] ∧ t.pwr = s.pwr) ∧
    (s.boot.phase ≠ .held → exec (.rstNRise sel) s = .next s)) ∧
  ∀ (s : State) (a : Agent) (v : W64), P0Agent s a →
    (v.toNat / 2 ^ 32 % 2 ^ 16 = 0xC33C → ∃ t, exec (.softwareReset a .whole v) s = .next t ∧ Afresh s t ∧ t.boot.phase = .rom ∧
      t.reg BOOT_STATUS.reset_cause = 3 ∧ t.reg BOOT_CTRL.next_slot = v.toNat % 2 ∧
      ∀ e ∈ retainedFields, e.1 ≠ BOOT_CTRL.next_slot → t.reg e.1 e.2 = s.reg e.1 e.2 % 2 ^ e.1.width) ∧
    (v.toNat / 2 ^ 32 % 2 ^ 16 ≠ 0xC33C → v.getLsbD 63 = false → ∃ t, exec (.softwareReset a .whole v) s = .next t ∧
      t.reg BOOT_CTRL.next_slot = v.toNat % 2 ∧ SameRegsBut s t [(BOOT_CTRL.next_slot, [])] ∧
      t = { s with csr := t.csr, halves := t.halves })

/-- R464 to R466, R468 to R470: a start is counted and its watchdog armed; the third without done starts the recovery image, and BOOTSEL names the push or
the flash, whose slots are tried in their order; an image runs only where every check passes, and a refusal records the step; done under boot lock
clears the count. Completion: under the conditions on state and operands that its clauses name, exec answers a next state, which they give, for
bootRomEntry and bootDone. -/
def Obligations.StartUp : Prop :=
  (∀ (s : State) (dt : Nat) (imgA imgB rec : Option (List Byte)) (trains : BitVec 16),
    (let u := s.advance dt
     let go := exec (.bootRomEntry dt imgA imgB rec trains) s
     let count := u.reg BOOT_STATUS.start_count + 1
     let slot := u.reg BOOT_CTRL.next_slot
     let pick (k : Nat) := if k = 0 then imgA else imgB
     (u.boot.phase ≠ .rom ∨ u.asleep = true → go = .next u) ∧
     (u.boot.phase = .rom → u.asleep = false → u.boot.resumed = false →
       ∃ t, go = .next t ∧ t.reg BOOT_STATUS.start_count = min 15 count ∧ t.boot.armed = true ∧ t.boot.pubkey.length = 2592 ∧ t.otp = u.otp ∧
         (3 ≤ count → t.reg BOOT_STATUS.minimal = 1 ∧
           (rec = none → t.boot.phase = .romOnly ∧ t.reg BOOT_STATUS.reason = 0x0204 ∧ t.reg BOOT_STATUS.fail_detail = 8)) ∧
         (count < 3 → u.boot.sel = 1 → t.boot.phase = .push ∧ t.mem = u.mem) ∧
         (count < 3 → u.boot.sel ≠ 1 → slot < 2 →
           (let first := if count = 2 then 1 - slot else slot
            (∀ b, pick first = some b → GoodImage u b → t.boot.phase = .image (partNat b 24 8) ∧ t.reg BOOT_STATUS.slot = first ∧
              t.reg BOOT_STATUS.reason = (if count = 2 then 0x0101 else first) ∧ t.reg BOOT_STATUS.svn = partNat b 8 1 ∧
              t.reg BOOT_STATUS.minimal = 0) ∧
            (∀ b, pick first = none → pick (1 - first) = some b → GoodImage u b → t.boot.phase = .image (partNat b 24 8) ∧
              t.reg BOOT_STATUS.slot = 1 - first ∧ t.reg BOOT_STATUS.reason = 0x0102 ∧ t.reg BOOT_STATUS.fail_detail = 8) ∧
            (∀ b d, u.boot.sel = 2 → pick first = none → pick (1 - first) = some b → u.imageCheck b false = d + 1 →
              t.boot.phase = .push ∧ t.reg BOOT_STATUS.fail_detail = d + 1) ∧
            (u.boot.sel ≠ 2 → imgA = none → imgB = none → rec = none → t.reg BOOT_STATUS.minimal = 1 ∧ t.boot.phase = .romOnly ∧
              t.reg BOOT_STATUS.reason = 0x0204)))))) ∧
  ∀ (s : State) (a : Agent) (v : W64), P0Agent s a → v.getLsbD 62 = false →
    ∃ t, exec (.bootDone a .whole v) s = .next t ∧ t.reg BOOT_CTRL.next_slot = v.toNat % 2 ∧
      (s.reg SEC_LOCK.locked ≠ 0 → t.reg BOOT_STATUS.start_count = 0 ∧ t.reg BOOT_STATUS.done = 1 ∧
        SameRegsBut s t [(BOOT_CTRL.next_slot, []), (BOOT_STATUS.start_count, []), (BOOT_STATUS.done, [])] ∧
        t = { s with csr := t.csr, halves := t.halves, boot := { s.boot with armed := false } }) ∧
      (s.reg SEC_LOCK.locked = 0 → SameRegsBut s t [(BOOT_CTRL.next_slot, [])] ∧ t = { s with csr := t.csr, halves := t.halves })

/-- R471, R472, R474: boot lock is set and stays; before it, an advance raises the rollback counter to a target above it and at most the running svn, a
revocation takes a key that is not in use while another good one remains, and an extension changes a measurement of type 5 alone; what is refused sets
otp_err. Completion: under the conditions on state and operands that its clauses name, exec answers a next state, which they give, for bootLock,
rollbackAdvance, keyRevoke and measureExtend. -/
def Obligations.LockAndOtp : Prop :=
  (∀ (s : State) (a : Agent) (v : BitVec 32), P0Agent s a → ∃ t, exec (.bootLock a v) s = .next t ∧ t.reg SEC_LOCK.locked = 1 ∧
    SameRegsBut s t [(SEC_LOCK.locked, []), (SEC_LOCK.otp_err, [])] ∧
    t.reg SEC_LOCK.otp_err = (if v.getLsbD 2 = true then 0 else s.reg SEC_LOCK.otp_err) ∧ t = { s with csr := t.csr, halves := t.halves }) ∧
  (∀ (s : State) (a : Agent) (v : W64), P0Agent s a →
    (let x := v.toNat / 2 ^ 8 % 128
     let bad := s.reg SEC_LOCK.locked ≠ 0 ∨ s.reg BOOT_STATUS.svn < x ∨ x ≤ s.otp.count ∨ 64 < x
     ∃ t, exec (.rollbackAdvance a .whole v) s = .next t ∧ t.reg SEC_ROLLBACK.target = x ∧
       (bad → t.reg SEC_LOCK.otp_err = 1 ∧ SameRegsBut s t [(SEC_ROLLBACK.target, []), (SEC_LOCK.otp_err, [])] ∧
         t = { s with csr := t.csr, halves := t.halves }) ∧
       (¬ bad → t.reg SEC_ROLLBACK.count = x ∧ SameRegsBut s t [(SEC_ROLLBACK.target, []), (SEC_ROLLBACK.count, [])] ∧
         t = { s with csr := t.csr, halves := t.halves, otp := { s.otp with count := x } }))) ∧
  (∀ (s : State) (a : Agent) (k : Fin 4) (v : BitVec 32), P0Agent s a →
    (let good (j : Fin 4) := s.otp.keys.getLsbD j.val = true ∧ s.otp.revoked.getLsbD j.val = false
     let bad := s.reg SEC_LOCK.locked ≠ 0 ∨ s.reg SEC_KEY.in_use [k.val] ≠ 0 ∨ ¬ ∃ j : Fin 4, j ≠ k ∧ good j
     ∃ t, exec (.keyRevoke a k v) s = .next t ∧
       (bad → t.reg SEC_LOCK.otp_err = 1 ∧ SameRegsBut s t [(SEC_LOCK.otp_err, [])] ∧ t = { s with csr := t.csr, halves := t.halves }) ∧
       (¬ bad → t.reg SEC_KEY.revoked [k.val] = 1 ∧ SameRegsBut s t [(SEC_KEY.revoked, [k.val])] ∧
         t = { s with csr := t.csr, halves := t.halves, otp := { s.otp with revoked := t.otp.revoked } } ∧
         ∀ j : Fin 4, t.otp.revoked.getLsbD j.val = (s.otp.revoked.getLsbD j.val || decide (j = k))))) ∧
  ∀ (s : State) (a : Agent) (v : W64), P0Agent s a →
    (let i := v.toNat % 16
     let type := v.toNat / 2 ^ 8 % 16
     ∃ t, exec (.measureExtend a .whole v) s = .next t ∧ t.reg SEC_MEASURE.entry = i ∧ t.reg SEC_MEASURE.type = type ∧ t.mem = s.mem ∧
       (s.reg SEC_LOCK.locked ≠ 0 ∨ type ≠ 5 → t.reg SEC_LOCK.otp_err = 1 ∧ t.boot = s.boot) ∧
       (s.reg SEC_LOCK.locked = 0 → type = 5 →
         (∀ n d, s.boot.meas[i]? = some (5, n, d) → t.boot.meas = s.boot.meas.set i (5, n + 64, digestOf (bytesOf 64 d.toNat ++ s.measureData)) ∧
           t.reg SEC_LOCK.otp_err = s.reg SEC_LOCK.otp_err) ∧
         (∀ y n d, s.boot.meas[i]? = some (y, n, d) → y ≠ 5 → t.boot = s.boot ∧ t.reg SEC_LOCK.otp_err = 1) ∧
         (s.boot.meas[i]? = none → s.boot.meas.length < 16 → ∃ d, t.boot.meas = s.boot.meas ++ [(5, 64, d)])))

/-- R456, R457, R458, R467: a gate bit powers a core down, unless the core is in use, which sets gate_err; a cleared bit gives the core back once it is
ready. A sleep write is refused while the part works; at the end of entry the domains but Safelight and DRAM's contents are gone, and an enabled event
wakes them, where the ROM resumes only if the digest of the resume region matches. Completion: under the conditions on state and operands that its
clauses name, exec answers a next state, which they give, for coreGateWrite, coreReady, sleepRequest, sleepEntryComplete, wakeEvent and wakeComplete. -/
def Obligations.GatesAndSleep : Prop :=
  (∀ (s : State) (a : Agent) (v : W64) (n : CoreId), P0Agent s a →
    (let on := v.toNat.testBit n.val
     let was := (s.reg PWR_CORE_GATE.gate).testBit n.val
     let gate (t : State) := (t.reg PWR_CORE_GATE.gate).testBit n.val
     let used := (s.reg FE_EXP_CORE_MASK.core_en).testBit n.val = true ∨ (s.reg SAFE_STEST_STATUS.out).testBit n.val = true ∨
       s.mon.testing.getLsbD n.val = true ∨ ∃ c : CtxId, s.reg SO_CTX_CFG.en [c.val] ≠ 0 ∧ s.coreOf c = n
     ∃ t, exec (.coreGateWrite a .whole v) s = .next t ∧
       (on = was → gate t = was) ∧
       (on = true → was = false → used → gate t = false ∧ t.reg PWR_STATUS.gate_err = 1) ∧
       (on = true → was = false → ¬ used → gate t = true ∧ t.cores[n] = Core.fresh ∧ t.corePowered n = false ∧
         (t.reg PWR_CORE_GATE.ready).testBit n.val = false ∧
         ∀ e ∈ t.mem, e.1 < spmBase + n.val * 0x400000 ∨ spmBase + (n.val + 1) * 0x400000 ≤ e.1) ∧
       (on = false → was = true → gate t = false ∧ t.corePowered n = false))) ∧
  (∀ (s : State) (dt : Nat) (n : CoreId),
    (let u := s.advance dt
     let may := u.awake = true ∧ u.minimal = false ∧ (u.reg PWR_CORE_GATE.gate).testBit n.val = false
     (may → ∃ t, exec (.coreReady dt n) s = .next t ∧ t.corePowered n = true ∧ (t.reg PWR_CORE_GATE.ready).testBit n.val = true ∧
       SameRegsBut u t [(PWR_CORE_GATE.ready, [])] ∧ t.mem = u.mem) ∧
     (¬ may → exec (.coreReady dt n) s = .next u))) ∧
  (∀ (s : State) (a : Agent) (v : W64), P0Agent s a → s.pwr.entryT = none →
    (let may := s.reg FE_EXP_CTRL.enable = 0 ∧ (∀ e ∈ s.exps, e.closeNs ≠ none) ∧ s.reg SAFE_STATUS.state = 0 ∧
       ∀ k, k < 32 → s.chan none k = none
     ∃ t, exec (.sleepRequest a .whole v) s = .next t ∧ t.reg PWR_SLEEP.wake_en = v.toNat % 8 ∧
       (may → t.pwr.entryT = some s.clk.tclk ∧ (∀ p : Fin 2, t.links[p] = false) ∧ t.mem = s.mem) ∧
       (¬ may → t.reg PWR_SLEEP.sleep_err = 1 ∧ SameRegsBut s t [(PWR_SLEEP.wake_en, []), (PWR_SLEEP.sleep_err, [])] ∧
         t = { s with csr := t.csr, halves := t.halves }))) ∧
  ∀ (s : State) (dt : Nat),
    (let u := s.advance dt
     (u.pwr.entryT = none ∨ u.asleep = true → exec (.sleepEntryComplete dt) s = .next u) ∧
     (u.pwr.entryT ≠ none → u.asleep = false → ∃ t, exec (.sleepEntryComplete dt) s = .next t ∧ t.asleep = true ∧ t.pwr.main = false ∧
       t.pwr.offT = u.clk.tclk ∧ t.pwr.wake = u.pwr.wake ∧ t.clk = u.clk ∧ t.cores = State.reset.cores ∧ t.ctxs = State.reset.ctxs ∧
       t.reg SAFE_STATUS.cause = 1 ∧ t.reg FE_EXP_NUMBER.open_number = 0 ∧ (∀ e ∈ retainedFields, t.reg e.1 e.2 = u.reg e.1 e.2) ∧
       (∀ e ∈ t.mem, e.1 < u.dataBytes) ∧ (u.reg BOOT_RESUME.pages = 0 → t.boot.resume = none)) ∧
     (∀ e : Fin 3,
       (let may := (u.asleep = true ∨ u.pwr.entryT ≠ none) ∧ u.pwr.wake = none ∧ (u.reg PWR_SLEEP.wake_en).testBit e.val = true ∧
          (e.val = 1 → u.reg PWR_ALARM.sec * 1000000000 + u.reg PWR_ALARM.ns ≤ u.now)
        (may → exec (.wakeEvent dt e) s = .next { u with pwr := { u.pwr with wake := some e.val } }) ∧
        (¬ may → exec (.wakeEvent dt e) s = .next u))) ∧
     (u.pwr.wake = none ∨ u.asleep = false ∨ u.clk.tclk < u.pwr.offT + 500000 → exec (.wakeComplete dt) s = .next u) ∧
     ∀ e, u.pwr.wake = some e → u.asleep = true → u.pwr.offT + 500000 ≤ u.clk.tclk →
       (let full := u.reg BOOT_RESUME.pages = 0 ∨ 2 ≤ u.reg BOOT_STATUS.start_count
        ∃ t, exec (.wakeComplete dt) s = .next t ∧ t.asleep = false ∧ t.pwr.wake = none ∧ t.pwr.main = true ∧ t.mem = u.mem ∧ t.clk = u.clk ∧
          t.reg PWR_SLEEP.last_wake = e % 8 ∧ t.reg BOOT_STATUS.reset_cause = 5 ∧
          (full → t.boot.phase = .rom ∧ t.boot.resumed = true) ∧
          (¬ full → u.boot.resume = some u.resumeDigest → t.boot.phase = .image (u.reg BOOT_RESUME.entry) ∧ t.reg BOOT_STATUS.reason = 2 ∧
            t.boot.resumed = false) ∧
          (¬ full → u.boot.resume ≠ some u.resumeDigest → t.boot.phase = .rom ∧ t.boot.resumed = true ∧ t.reg BOOT_STATUS.reason = 0x0301)))

/-- R459 to R463: the governor lowers cap by one eighth while the power is over its limit or the part is at its throttle temperature, down to floor_cap,
and raises it more than 1 W below; a sample at the trip temperature forces 450 MHz and detects 0x42 at the crossing, one at 125 °C shuts down; a
tripped detector stretches its core's clock, and after 10 µs CCLK steps down, the second time with cause 0x41, until 100 µs pass without one.
Completion: under the conditions on state and operands that its clauses name, exec answers a next state, which they give, for governorEvaluate,
tjSample, droopTrip, droopRelease, droopStep and droopRecover. -/
def Obligations.PowerAndDroop : Prop :=
  (∀ (s : State) (dt : Nat) (mw : BitVec 32),
    (let u := s.advance dt
     let limit := 250 * max 48 (min 180 (u.reg PWR_LIMIT.limit))
     let floor := max 1 (min 8 (u.reg PWR_LIMIT.floor_cap))
     let cap := u.reg PWR_STATUS.cap
     let past := limit < mw.toNat ∨ 8 * (u.throttleC : Int) ≤ u.tj
     (u.awake = false → exec (.governorEvaluate dt mw) s = .next u) ∧
     (u.awake = true → cap < 16 → ∃ t, exec (.governorEvaluate dt mw) s = .next t ∧ t.reg PWR_STATUS.power_mw = mw.toNat ∧
       (past → floor < cap → t.reg PWR_STATUS.cap = cap - 1 ∧ SameRegsBut u t [(PWR_STATUS.cap, []), (PWR_STATUS.power_mw, [])]) ∧
       (past → cap ≤ floor → t.reg PWR_STATUS.cap = floor ∧ t.reg PWR_STATUS.over_limit = 1 ∧
         t.reg PWR_STATUS.over_count = min (u.reg PWR_STATUS.over_count + 1) 127) ∧
       (¬ past → t.reg PWR_STATUS.cap = (if mw.toNat + 1000 < limit then min 8 (cap + 1) else cap) ∧
         SameRegsBut u t [(PWR_STATUS.cap, []), (PWR_STATUS.power_mw, [])]) ∧ t = { u with csr := t.csr }))) ∧
  (∀ (s : State) (dt : Nat) (tj : BitVec 16),
    (let u := s.advance dt
     let x := tj.toInt
     let trip : Int := 8 * (max 100 (min 120 (u.reg PWR_THERM.tj_trip)) : Nat)
     (u.pwr.hot = true → trip - 80 ≤ x → exec (.tjSample dt tj) s = .next u) ∧
     (u.pwr.hot = true → x < trip - 80 → ∃ t, exec (.tjSample dt tj) s = .next t ∧ t.pwr.hot = false ∧
       t.boot.phase = (if u.reg BOOT_STATUS.reset_cause = 4 then .rom else .held) ∧ t.csr = u.csr) ∧
     (u.pwr.hot = false → u.awake = true → 1000 ≤ x → ∃ t, exec (.tjSample dt tj) s = .next t ∧ Afresh u t ∧ t.pwr.hot = true ∧
       t.boot.phase = .held ∧ t.reg BOOT_STATUS.reset_cause = 4) ∧
     (u.pwr.hot = false → u.awake = true → x < 1000 → ∃ t, exec (.tjSample dt tj) s = .next t ∧ t.reg PWR_STATUS.tj = tj.toNat ∧
       t.reg PWR_STATUS.thermal = (if 8 * (u.throttleC : Int) ≤ x then 1 else 0) ∧ t.mem = u.mem ∧
       (trip ≤ x → t.pwr.hotCap = true ∧
         (u.pwr.hotCap = false → t.reg PWR_STATUS.cclk_step = 2 ∧
           (u.fullOn = true → u.reg SAFE_FAULT_EN.en / 4 % 2 = 1 → t.reg SAFE_STATUS.state = 0 ∧
             (u.reg SAFE_STATUS.state ≠ 0 → t.reg SAFE_STATUS.cause = 0x42)))) ∧
       (x < trip - 40 → t.pwr.hotCap = false) ∧
       (x < trip → SameRegsBut u t [(PWR_STATUS.tj, []), (PWR_STATUS.thermal, [])])))) ∧
  ∀ (s : State) (dt : Nat),
    (let u := s.advance dt
     (∀ n : CoreId,
       (u.awake = true → u.pwr.tripT[n] = none → ∃ t, exec (.droopTrip dt n) s = .next t ∧ t.pwr.tripT[n] = some u.clk.tclk ∧
         t.cores[n].stretch = true ∧ t.reg PWR_DROOP.stretches = min (u.reg PWR_DROOP.stretches + 1) 65535 ∧ t.reg PWR_DROOP.last_core = n.val ∧
         SameRegsBut u t [(PWR_DROOP.stretches, []), (PWR_DROOP.last_core, [])] ∧ ∀ m : CoreId, m ≠ n → t.cores[m] = u.cores[m]) ∧
       (u.awake = false ∨ u.pwr.tripT[n] ≠ none → exec (.droopTrip dt n) s = .next u) ∧
       (u.pwr.tripT[n] ≠ none → ∃ t, exec (.droopRelease dt n) s = .next t ∧ t.pwr.tripT[n] = none ∧ t.pwr.quietT = u.clk.tclk ∧
         t.cores[n].stretch = false ∧ t.csr = u.csr ∧ ∀ m : CoreId, m ≠ n → t.cores[m] = u.cores[m]) ∧
       (u.pwr.tripT[n] = none → exec (.droopRelease dt n) s = .next u)) ∧
     (let held (n : CoreId) := ∃ x, u.pwr.tripT[n] = some x ∧ max x u.pwr.stepT + 2500 ≤ u.clk.tclk
      ((∀ n, ¬ held n) → exec (.droopStep dt) s = .next u) ∧
      (∀ n, held n → (∀ m : CoreId, m < n → ¬ held m) → ∃ t, exec (.droopStep dt) s = .next t ∧ t.mem = u.mem ∧
        (u.reg PWR_STATUS.cclk_step = 0 → t.reg PWR_STATUS.cclk_step = 1 ∧ t.reg PWR_DROOP.step1 = min (u.reg PWR_DROOP.step1 + 1) 65535 ∧
          SameRegsBut u t [(PWR_STATUS.cclk_step, []), (PWR_DROOP.step1, [])] ∧ t.pwr.stepT = u.clk.tclk) ∧
        (u.reg PWR_STATUS.cclk_step = 1 → t.reg PWR_STATUS.cclk_step = 2 ∧ t.reg PWR_DROOP.step2 = min (u.reg PWR_DROOP.step2 + 1) 65535 ∧
          (u.fullOn = true → u.reg SAFE_FAULT_EN.en / 2 % 2 = 1 → t.reg SAFE_STATUS.state = 0 ∧
            (u.reg SAFE_STATUS.state ≠ 0 → t.reg SAFE_STATUS.cause = 0x41 ∧ t.reg SAFE_STATUS.detail = n.val))) ∧
        (2 ≤ u.reg PWR_STATUS.cclk_step → t = u))) ∧
     (let may := (∀ n : CoreId, u.pwr.tripT[n] = none) ∧ u.pwr.quietT + 25000 ≤ u.clk.tclk ∧ u.pwr.hotCap = false
      (may → exec (.droopRecover dt) s = .next (u.setReg PWR_STATUS.cclk_step [] 0)) ∧
      (¬ may → exec (.droopRecover dt) s = .next u)))

/-! ### Registers, words, and the whole machine -/

/-- R12, R14, R15, R456, R480: an access of another size or at an unaligned offset is not performed, and its requester is told; a write where no register
lies does nothing, and a read of it is zero. By example of registers with no row of their own: an RW field takes what P0 writes and reads back,
another partition's write is discarded, a W1C bit clears on 1, an RWL field holds under boot lock, a field that spans the halves of its register takes
effect with the upper half, and nothing of a core that is powered down is written or read. Completion: under the conditions on state and operands that
its clauses name, exec answers a next state, which they give, for registerWrite, registerRead, meshC2Age and icacheFill. -/
def Obligations.RegisterAccess : Prop :=
  (∀ (s : State) (a : Agent) (off bytes : Nat) (v : W64), ¬ ((bytes = 4 ∨ bytes = 8) ∧ off % bytes = 0) →
    exec (.registerWrite a off bytes v) s = .next (if s.agentLive a = true then s.emit (.abort a) else s) ∧
    exec (.registerRead a off bytes) s = .next (if s.agentLive a = true then s.emit (.abort a) else s)) ∧
  (∀ (s : State) (a : Agent) (off : Nat) (v : W64), off % 4 = 0 → s.agentLive a = true →
    (locateReg regRows off = none ∨ (∃ n : CoreId, s.corePowered n = false ∧ 0x1000000 + n.val * 0x100000 ≤ off ∧
      off < 0x1000000 + (n.val + 1) * 0x100000)) →
    exec (.registerWrite a off 4 v) s = .next s ∧ exec (.registerRead a off 4) s = .next (s.emit (.data a 0))) ∧
  (∀ (s : State) (a : Agent) (k : Fin 8) (v : W64), s.agentLive a = true →
    (let off := 0x300020 + 4 * k.val
     (s.partOf a = 0 → ∃ t, exec (.registerWrite a off 4 v) s = .next t ∧ t.reg BOOT_RETAIN.data [k.val] = v.toNat % 2 ^ 32 ∧
       SameRegsBut s t [(BOOT_RETAIN.data, [k.val])] ∧ t = { s with csr := t.csr, halves := t.halves }) ∧
     (s.partOf a ≠ 0 → exec (.registerWrite a off 4 v) s = .next s) ∧
     exec (.registerRead a off 4) s = .next (s.emit (.data a (s.reg BOOT_RETAIN.data [k.val] % 2 ^ 32))))) ∧
  (∀ (s : State) (a : Agent) (v : W64), P0Agent s a →
    (∃ t, exec (.registerWrite a 0x200008 4 v) s = .next t ∧ SameRegsBut s t [(PWR_STATUS.gate_err, []), (PWR_STATUS.over_limit, [])] ∧
      t.reg PWR_STATUS.gate_err = (if v.getLsbD 8 = true then 0 else s.reg PWR_STATUS.gate_err) ∧
      t.reg PWR_STATUS.over_limit = (if v.getLsbD 7 = true then 0 else s.reg PWR_STATUS.over_limit)) ∧
    (s.minimal = false → ∃ t, exec (.registerWrite a 0x400018 4 v) s = .next t ∧ SameRegsBut s t [(SAFE_FAULT_EN.en, [])] ∧
      t.reg SAFE_FAULT_EN.en = (if s.reg SEC_LOCK.locked = 0 then v.toNat % 16 else s.reg SAFE_FAULT_EN.en)) ∧
    ∀ w : W64, ∃ t u, exec (.registerWrite a 0x200038 4 v) s = .next t ∧ SameRegsBut s t [(PWR_ALARM.ns, [])] ∧
      t.reg PWR_ALARM.ns = v.toNat % 2 ^ 30 ∧ exec (.registerWrite a 0x20003C 4 w) t = .next u ∧
      u.reg PWR_ALARM.sec = (w.toNat % 2 ^ 32) * 4 + v.toNat % 2 ^ 32 / 2 ^ 30 ∧ SameRegsBut t u [(PWR_ALARM.sec, [])]) ∧
  ∀ (s : State) (dt : Nat) (n : CoreId), exec (.meshC2Age dt) s = .next (s.advance dt) ∧ exec (.icacheFill dt n) s = .next (s.advance dt)

/-- R16, R390, R441, R444: after reset memory is in its canonical form and lists nothing, no command waits, exposures are idle, the monitor is in the
safe state under cause 0x01 with SAFEA_N low, every context is disabled and no core issues; registers hold the reset values of their
tables. Register values that no table gives are the model's (log entry 3). -/
def Obligations.ResetState : Prop :=
  (let s := State.reset
   Memory.wf s.mem = true ∧ s.mem = [] ∧ s.pending = [] ∧ s.openExp = none ∧ s.reg SAFE_STATUS.state = 0 ∧ s.reg SAFE_STATUS.cause = 1 ∧
     s.mon.safeaLow = true ∧ s.reg SAFE_FAULT_EN.en = 15 ∧ s.reg SAFE_PF_CFG.cmp_max_us = 100 ∧ s.reg SAFE_CHK.prot_max_us = 20000 ∧
     s.reg PWR_LIMIT.limit = 140 ∧ s.reg PWR_THERM.tj_trip = 110 ∧ s.reg PTP_INCR.incr_ns = 4 ∧ s.reg FE_EXP_CTRL.enable = 0 ∧
     s.reg SEC_LOCK.locked = 0 ∧ s.exps = [] ∧ s.flights = []) ∧
  (∀ c : CtxId, State.reset.reg SO_CTX_CFG.en [c.val] = 0 ∧ State.reset.ctxs[c].getS 0 = 0) ∧
  ∀ n : CoreId, State.reset.runningOn n = none

/-- R314 to R317, Table 12-1: the fields of a first word and the word with given fields determine each other, so that no bit of a word is dropped; and
in alu, valu, li and br exactly the words whose fields the tables list, with every other bit zero, are legal. -/
def Obligations.WordEncoding : Prop :=
  (∀ (op : BitVec 8) (long : Bool) (pg : Fin 8) (d a b c : Fin 32) (hi : BitVec 32),
    (let w := wordOf op long pg d a b c hi
     let f := fieldsOf w
     f.op = op.toNat ∧ w.getLsbD 8 = long ∧ f.pg = pg ∧ f.d = d ∧ f.a = a ∧ f.b = b ∧ f.c = c ∧ f.imm = hi.toNat ∧
       (isFmtI op.toNat = true → f.fn = c.val ∧ f.es = 0) ∧
       (isFmtI op.toNat = false → f.fn = hi.toNat % 64 ∧ f.es = hi.toNat / 64 % 4))) ∧
  (∀ w : W64, (let f := fieldsOf w
    wordOf (BitVec.ofNat 8 f.op) (w.getLsbD 8) f.pg f.d f.a f.b f.c (BitVec.ofNat 32 f.imm) = w)) ∧
  ∀ (long : Bool) (pg : Fin 8) (d a b c : Fin 32) (hi : BitVec 32) (x : W64),
    (legalWord (wordOf 0x10 long pg d a b c hi) x = true ↔ long = false ∧ pg = 0 ∧ c = 0 ∧ hi.toNat ≤ 13) ∧
    (legalWord (wordOf 0x30 long pg d a b c hi) x = true ↔
      long = false ∧ c = 0 ∧ hi.toNat < 192 ∧ hi.toNat % 64 ≤ 15 ∧ (hi.toNat % 64 = 15 → b = 0)) ∧
    (legalWord (wordOf 0x12 long pg d a b c hi) x = true ↔ long = true ∧ pg = 0 ∧ a = 0 ∧ b = 0 ∧ c = 0 ∧ hi = 0) ∧
    (legalWord (wordOf 0x08 long pg d a b c hi) x = true ↔ long = false ∧ pg = 0 ∧ d = 0 ∧ c.val ≤ 5)

/-- R384, R390, R391: every step keeps memory in its canonical form, in which equal contents are equal lists: addresses strictly rising, and no
entry that equals what a byte that nothing has written holds. -/
def Obligations.MemoryCanonical : Prop :=
  ∀ s t : State, Memory.wf s.mem = true → step s = .next t → Memory.wf t.mem = true
end

