-- ==== Sys2Proof/Laws/State.lean ====
section
/-! SUPPORT. Laws/State.lean: what each basic update of the state leaves as it was, field by field. -/
namespace Sys2Proof.Machine

/-! ### setReg -/

@[simp] theorem State.setReg_acq (s : State) (f : Fld) (i : List Nat) (v : Nat) : (s.setReg f i v).acq = s.acq := rfl
@[simp] theorem State.setReg_proc (s : State) (f : Fld) (i : List Nat) (v : Nat) : (s.setReg f i v).proc = s.proc := rfl
@[simp] theorem State.setReg_ethIn (s : State) (f : Fld) (i : List Nat) (v : Nat) : (s.setReg f i v).ethIn = s.ethIn := rfl
@[simp] theorem State.setReg_latches (s : State) (f : Fld) (i : List Nat) (v : Nat) : (s.setReg f i v).latches = s.latches := rfl
@[simp] theorem State.setReg_halves (s : State) (f : Fld) (i : List Nat) (v : Nat) : (s.setReg f i v).halves = s.halves := rfl
@[simp] theorem State.setReg_mem (s : State) (f : Fld) (i : List Nat) (v : Nat) : (s.setReg f i v).mem = s.mem := rfl
@[simp] theorem State.setReg_haze (s : State) (f : Fld) (i : List Nat) (v : Nat) : (s.setReg f i v).haze = s.haze := rfl
@[simp] theorem State.setReg_poison (s : State) (f : Fld) (i : List Nat) (v : Nat) : (s.setReg f i v).poison = s.poison := rfl
@[simp] theorem State.setReg_flips (s : State) (f : Fld) (i : List Nat) (v : Nat) : (s.setReg f i v).flips = s.flips := rfl
@[simp] theorem State.setReg_parity (s : State) (f : Fld) (i : List Nat) (v : Nat) : (s.setReg f i v).parity = s.parity := rfl
@[simp] theorem State.setReg_sram (s : State) (f : Fld) (i : List Nat) (v : Nat) : (s.setReg f i v).sram = s.sram := rfl
@[simp] theorem State.setReg_sramBad (s : State) (f : Fld) (i : List Nat) (v : Nat) : (s.setReg f i v).sramBad = s.sramBad := rfl
@[simp] theorem State.setReg_valid (s : State) (f : Fld) (i : List Nat) (v : Nat) : (s.setReg f i v).valid = s.valid := rfl
@[simp] theorem State.setReg_written (s : State) (f : Fld) (i : List Nat) (v : Nat) : (s.setReg f i v).written = s.written := rfl
@[simp] theorem State.setReg_chanBuf (s : State) (f : Fld) (i : List Nat) (v : Nat) : (s.setReg f i v).chanBuf = s.chanBuf := rfl
@[simp] theorem State.setReg_bankBuf (s : State) (f : Fld) (i : List Nat) (v : Nat) : (s.setReg f i v).bankBuf = s.bankBuf := rfl
@[simp] theorem State.setReg_pulses (s : State) (f : Fld) (i : List Nat) (v : Nat) : (s.setReg f i v).pulses = s.pulses := rfl
@[simp] theorem State.setReg_capts (s : State) (f : Fld) (i : List Nat) (v : Nat) : (s.setReg f i v).capts = s.capts := rfl
@[simp] theorem State.setReg_imu (s : State) (f : Fld) (i : List Nat) (v : Nat) : (s.setReg f i v).imu = s.imu := rfl
@[simp] theorem State.setReg_asleep (s : State) (f : Fld) (i : List Nat) (v : Nat) : (s.setReg f i v).asleep = s.asleep := rfl
@[simp] theorem State.setReg_txAt (s : State) (f : Fld) (i : List Nat) (v : Nat) : (s.setReg f i v).txAt = s.txAt := rfl
@[simp] theorem State.setReg_mdioRd (s : State) (f : Fld) (i : List Nat) (v : Nat) : (s.setReg f i v).mdioRd = s.mdioRd := rfl
@[simp] theorem State.setReg_inbox (s : State) (f : Fld) (i : List Nat) (v : Nat) : (s.setReg f i v).inbox = s.inbox := rfl
@[simp] theorem State.setReg_clk (s : State) (f : Fld) (i : List Nat) (v : Nat) : (s.setReg f i v).clk = s.clk := rfl
@[simp] theorem State.setReg_ctxs (s : State) (f : Fld) (i : List Nat) (v : Nat) : (s.setReg f i v).ctxs = s.ctxs := rfl
@[simp] theorem State.setReg_cores (s : State) (f : Fld) (i : List Nat) (v : Nat) : (s.setReg f i v).cores = s.cores := rfl
@[simp] theorem State.setReg_flights (s : State) (f : Fld) (i : List Nat) (v : Nat) : (s.setReg f i v).flights = s.flights := rfl
@[simp] theorem State.setReg_fabric (s : State) (f : Fld) (i : List Nat) (v : Nat) : (s.setReg f i v).fabric = s.fabric := rfl
@[simp] theorem State.setReg_sliceT (s : State) (f : Fld) (i : List Nat) (v : Nat) : (s.setReg f i v).sliceT = s.sliceT := rfl
@[simp] theorem State.setReg_slice (s : State) (f : Fld) (i : List Nat) (v : Nat) : (s.setReg f i v).slice = s.slice := rfl
@[simp] theorem State.setReg_exps (s : State) (f : Fld) (i : List Nat) (v : Nat) : (s.setReg f i v).exps = s.exps := rfl
@[simp] theorem State.setReg_mntSkip (s : State) (f : Fld) (i : List Nat) (v : Nat) : (s.setReg f i v).mntSkip = s.mntSkip := rfl
@[simp] theorem State.setReg_txns (s : State) (f : Fld) (i : List Nat) (v : Nat) : (s.setReg f i v).txns = s.txns := rfl
@[simp] theorem State.setReg_pendTx (s : State) (f : Fld) (i : List Nat) (v : Nat) : (s.setReg f i v).pendTx = s.pendTx := rfl
@[simp] theorem State.setReg_passed (s : State) (f : Fld) (i : List Nat) (v : Nat) : (s.setReg f i v).passed = s.passed := rfl
@[simp] theorem State.setReg_mon (s : State) (f : Fld) (i : List Nat) (v : Nat) : (s.setReg f i v).mon = s.mon := rfl
@[simp] theorem State.setReg_links (s : State) (f : Fld) (i : List Nat) (v : Nat) : (s.setReg f i v).links = s.links := rfl
@[simp] theorem State.setReg_msix (s : State) (f : Fld) (i : List Nat) (v : Nat) : (s.setReg f i v).msix = s.msix := rfl
@[simp] theorem State.setReg_mctp (s : State) (f : Fld) (i : List Nat) (v : Nat) : (s.setReg f i v).mctp = s.mctp := rfl
@[simp] theorem State.setReg_out (s : State) (f : Fld) (i : List Nat) (v : Nat) : (s.setReg f i v).out = s.out := rfl
@[simp] theorem State.setReg_free (s : State) (f : Fld) (i : List Nat) (v : Nat) : (s.setReg f i v).free = s.free := rfl
@[simp] theorem State.setReg_stamp (s : State) (f : Fld) (i : List Nat) (v : Nat) : (s.setReg f i v).stamp = s.stamp := rfl
@[simp] theorem State.setReg_pending (s : State) (f : Fld) (i : List Nat) (v : Nat) : (s.setReg f i v).pending = s.pending := rfl
@[simp] theorem State.setReg_recov (s : State) (f : Fld) (i : List Nat) (v : Nat) : (s.setReg f i v).recov = s.recov := rfl
@[simp] theorem State.setReg_diagRd (s : State) (f : Fld) (i : List Nat) (v : Nat) : (s.setReg f i v).diagRd = s.diagRd := rfl
@[simp] theorem State.setReg_leakT (s : State) (f : Fld) (i : List Nat) (v : Nat) : (s.setReg f i v).leakT = s.leakT := rfl
@[simp] theorem State.setReg_zqT (s : State) (f : Fld) (i : List Nat) (v : Nat) : (s.setReg f i v).zqT = s.zqT := rfl
@[simp] theorem State.setReg_trainT (s : State) (f : Fld) (i : List Nat) (v : Nat) : (s.setReg f i v).trainT = s.trainT := rfl
@[simp] theorem State.setReg_forced (s : State) (f : Fld) (i : List Nat) (v : Nat) : (s.setReg f i v).forced = s.forced := rfl
@[simp] theorem State.setReg_ends (s : State) (f : Fld) (i : List Nat) (v : Nat) : (s.setReg f i v).ends = s.ends := rfl
@[simp] theorem State.setReg_zeroing (s : State) (f : Fld) (i : List Nat) (v : Nat) : (s.setReg f i v).zeroing = s.zeroing := rfl
@[simp] theorem State.setReg_clean (s : State) (f : Fld) (i : List Nat) (v : Nat) : (s.setReg f i v).clean = s.clean := rfl
@[simp] theorem State.setReg_fabLast (s : State) (f : Fld) (i : List Nat) (v : Nat) : (s.setReg f i v).fabLast = s.fabLast := rfl
@[simp] theorem State.setReg_lag (s : State) (f : Fld) (i : List Nat) (v : Nat) : (s.setReg f i v).lag = s.lag := rfl
@[simp] theorem State.setReg_seqs (s : State) (f : Fld) (i : List Nat) (v : Nat) : (s.setReg f i v).seqs = s.seqs := rfl
@[simp] theorem State.setReg_heads (s : State) (f : Fld) (i : List Nat) (v : Nat) : (s.setReg f i v).heads = s.heads := rfl
@[simp] theorem State.setReg_fe (s : State) (f : Fld) (i : List Nat) (v : Nat) : (s.setReg f i v).fe = s.fe := rfl
@[simp] theorem State.setReg_tbl (s : State) (f : Fld) (i : List Nat) (v : Nat) : (s.setReg f i v).tbl = s.tbl := rfl
@[simp] theorem State.setReg_msgs (s : State) (f : Fld) (i : List Nat) (v : Nat) : (s.setReg f i v).msgs = s.msgs := rfl
@[simp] theorem State.setReg_mbox (s : State) (f : Fld) (i : List Nat) (v : Nat) : (s.setReg f i v).mbox = s.mbox := rfl
@[simp] theorem State.setReg_presets (s : State) (f : Fld) (i : List Nat) (v : Nat) : (s.setReg f i v).presets = s.presets := rfl
@[simp] theorem State.setReg_shareT (s : State) (f : Fld) (i : List Nat) (v : Nat) : (s.setReg f i v).shareT = s.shareT := rfl
@[simp] theorem State.setReg_seq (s : State) (f : Fld) (i : List Nat) (v : Nat) : (s.setReg f i v).seq = s.seq := rfl
@[simp] theorem State.setReg_pauseT (s : State) (f : Fld) (i : List Nat) (v : Nat) : (s.setReg f i v).pauseT = s.pauseT := rfl
@[simp] theorem State.setReg_otp (s : State) (f : Fld) (i : List Nat) (v : Nat) : (s.setReg f i v).otp = s.otp := rfl
@[simp] theorem State.setReg_boot (s : State) (f : Fld) (i : List Nat) (v : Nat) : (s.setReg f i v).boot = s.boot := rfl
@[simp] theorem State.setReg_pwr (s : State) (f : Fld) (i : List Nat) (v : Nat) : (s.setReg f i v).pwr = s.pwr := rfl
@[simp] theorem State.setReg_mesh (s : State) (f : Fld) (i : List Nat) (v : Nat) : (s.setReg f i v).mesh = s.mesh := rfl
@[simp] theorem State.setReg_served (s : State) (f : Fld) (i : List Nat) (v : Nat) : (s.setReg f i v).served = s.served := rfl
@[simp] theorem State.setReg_l2 (s : State) (f : Fld) (i : List Nat) (v : Nat) : (s.setReg f i v).l2 = s.l2 := rfl

/-! ### bump -/

@[simp] theorem State.bump_acq (s : State) (f : Fld) (i : List Nat) (n : Nat) : (s.bump f i n).acq = s.acq := rfl
@[simp] theorem State.bump_proc (s : State) (f : Fld) (i : List Nat) (n : Nat) : (s.bump f i n).proc = s.proc := rfl
@[simp] theorem State.bump_ethIn (s : State) (f : Fld) (i : List Nat) (n : Nat) : (s.bump f i n).ethIn = s.ethIn := rfl
@[simp] theorem State.bump_latches (s : State) (f : Fld) (i : List Nat) (n : Nat) : (s.bump f i n).latches = s.latches := rfl
@[simp] theorem State.bump_halves (s : State) (f : Fld) (i : List Nat) (n : Nat) : (s.bump f i n).halves = s.halves := rfl
@[simp] theorem State.bump_mem (s : State) (f : Fld) (i : List Nat) (n : Nat) : (s.bump f i n).mem = s.mem := rfl
@[simp] theorem State.bump_haze (s : State) (f : Fld) (i : List Nat) (n : Nat) : (s.bump f i n).haze = s.haze := rfl
@[simp] theorem State.bump_poison (s : State) (f : Fld) (i : List Nat) (n : Nat) : (s.bump f i n).poison = s.poison := rfl
@[simp] theorem State.bump_flips (s : State) (f : Fld) (i : List Nat) (n : Nat) : (s.bump f i n).flips = s.flips := rfl
@[simp] theorem State.bump_parity (s : State) (f : Fld) (i : List Nat) (n : Nat) : (s.bump f i n).parity = s.parity := rfl
@[simp] theorem State.bump_sram (s : State) (f : Fld) (i : List Nat) (n : Nat) : (s.bump f i n).sram = s.sram := rfl
@[simp] theorem State.bump_sramBad (s : State) (f : Fld) (i : List Nat) (n : Nat) : (s.bump f i n).sramBad = s.sramBad := rfl
@[simp] theorem State.bump_valid (s : State) (f : Fld) (i : List Nat) (n : Nat) : (s.bump f i n).valid = s.valid := rfl
@[simp] theorem State.bump_written (s : State) (f : Fld) (i : List Nat) (n : Nat) : (s.bump f i n).written = s.written := rfl
@[simp] theorem State.bump_chanBuf (s : State) (f : Fld) (i : List Nat) (n : Nat) : (s.bump f i n).chanBuf = s.chanBuf := rfl
@[simp] theorem State.bump_bankBuf (s : State) (f : Fld) (i : List Nat) (n : Nat) : (s.bump f i n).bankBuf = s.bankBuf := rfl
@[simp] theorem State.bump_pulses (s : State) (f : Fld) (i : List Nat) (n : Nat) : (s.bump f i n).pulses = s.pulses := rfl
@[simp] theorem State.bump_capts (s : State) (f : Fld) (i : List Nat) (n : Nat) : (s.bump f i n).capts = s.capts := rfl
@[simp] theorem State.bump_imu (s : State) (f : Fld) (i : List Nat) (n : Nat) : (s.bump f i n).imu = s.imu := rfl
@[simp] theorem State.bump_asleep (s : State) (f : Fld) (i : List Nat) (n : Nat) : (s.bump f i n).asleep = s.asleep := rfl
@[simp] theorem State.bump_txAt (s : State) (f : Fld) (i : List Nat) (n : Nat) : (s.bump f i n).txAt = s.txAt := rfl
@[simp] theorem State.bump_mdioRd (s : State) (f : Fld) (i : List Nat) (n : Nat) : (s.bump f i n).mdioRd = s.mdioRd := rfl
@[simp] theorem State.bump_inbox (s : State) (f : Fld) (i : List Nat) (n : Nat) : (s.bump f i n).inbox = s.inbox := rfl
@[simp] theorem State.bump_clk (s : State) (f : Fld) (i : List Nat) (n : Nat) : (s.bump f i n).clk = s.clk := rfl
@[simp] theorem State.bump_ctxs (s : State) (f : Fld) (i : List Nat) (n : Nat) : (s.bump f i n).ctxs = s.ctxs := rfl
@[simp] theorem State.bump_cores (s : State) (f : Fld) (i : List Nat) (n : Nat) : (s.bump f i n).cores = s.cores := rfl
@[simp] theorem State.bump_flights (s : State) (f : Fld) (i : List Nat) (n : Nat) : (s.bump f i n).flights = s.flights := rfl
@[simp] theorem State.bump_fabric (s : State) (f : Fld) (i : List Nat) (n : Nat) : (s.bump f i n).fabric = s.fabric := rfl
@[simp] theorem State.bump_sliceT (s : State) (f : Fld) (i : List Nat) (n : Nat) : (s.bump f i n).sliceT = s.sliceT := rfl
@[simp] theorem State.bump_slice (s : State) (f : Fld) (i : List Nat) (n : Nat) : (s.bump f i n).slice = s.slice := rfl
@[simp] theorem State.bump_exps (s : State) (f : Fld) (i : List Nat) (n : Nat) : (s.bump f i n).exps = s.exps := rfl
@[simp] theorem State.bump_mntSkip (s : State) (f : Fld) (i : List Nat) (n : Nat) : (s.bump f i n).mntSkip = s.mntSkip := rfl
@[simp] theorem State.bump_txns (s : State) (f : Fld) (i : List Nat) (n : Nat) : (s.bump f i n).txns = s.txns := rfl
@[simp] theorem State.bump_pendTx (s : State) (f : Fld) (i : List Nat) (n : Nat) : (s.bump f i n).pendTx = s.pendTx := rfl
@[simp] theorem State.bump_passed (s : State) (f : Fld) (i : List Nat) (n : Nat) : (s.bump f i n).passed = s.passed := rfl
@[simp] theorem State.bump_mon (s : State) (f : Fld) (i : List Nat) (n : Nat) : (s.bump f i n).mon = s.mon := rfl
@[simp] theorem State.bump_links (s : State) (f : Fld) (i : List Nat) (n : Nat) : (s.bump f i n).links = s.links := rfl
@[simp] theorem State.bump_msix (s : State) (f : Fld) (i : List Nat) (n : Nat) : (s.bump f i n).msix = s.msix := rfl
@[simp] theorem State.bump_mctp (s : State) (f : Fld) (i : List Nat) (n : Nat) : (s.bump f i n).mctp = s.mctp := rfl
@[simp] theorem State.bump_out (s : State) (f : Fld) (i : List Nat) (n : Nat) : (s.bump f i n).out = s.out := rfl
@[simp] theorem State.bump_free (s : State) (f : Fld) (i : List Nat) (n : Nat) : (s.bump f i n).free = s.free := rfl
@[simp] theorem State.bump_stamp (s : State) (f : Fld) (i : List Nat) (n : Nat) : (s.bump f i n).stamp = s.stamp := rfl
@[simp] theorem State.bump_pending (s : State) (f : Fld) (i : List Nat) (n : Nat) : (s.bump f i n).pending = s.pending := rfl
@[simp] theorem State.bump_recov (s : State) (f : Fld) (i : List Nat) (n : Nat) : (s.bump f i n).recov = s.recov := rfl
@[simp] theorem State.bump_diagRd (s : State) (f : Fld) (i : List Nat) (n : Nat) : (s.bump f i n).diagRd = s.diagRd := rfl
@[simp] theorem State.bump_leakT (s : State) (f : Fld) (i : List Nat) (n : Nat) : (s.bump f i n).leakT = s.leakT := rfl
@[simp] theorem State.bump_zqT (s : State) (f : Fld) (i : List Nat) (n : Nat) : (s.bump f i n).zqT = s.zqT := rfl
@[simp] theorem State.bump_trainT (s : State) (f : Fld) (i : List Nat) (n : Nat) : (s.bump f i n).trainT = s.trainT := rfl
@[simp] theorem State.bump_forced (s : State) (f : Fld) (i : List Nat) (n : Nat) : (s.bump f i n).forced = s.forced := rfl
@[simp] theorem State.bump_ends (s : State) (f : Fld) (i : List Nat) (n : Nat) : (s.bump f i n).ends = s.ends := rfl
@[simp] theorem State.bump_zeroing (s : State) (f : Fld) (i : List Nat) (n : Nat) : (s.bump f i n).zeroing = s.zeroing := rfl
@[simp] theorem State.bump_clean (s : State) (f : Fld) (i : List Nat) (n : Nat) : (s.bump f i n).clean = s.clean := rfl
@[simp] theorem State.bump_fabLast (s : State) (f : Fld) (i : List Nat) (n : Nat) : (s.bump f i n).fabLast = s.fabLast := rfl
@[simp] theorem State.bump_lag (s : State) (f : Fld) (i : List Nat) (n : Nat) : (s.bump f i n).lag = s.lag := rfl
@[simp] theorem State.bump_seqs (s : State) (f : Fld) (i : List Nat) (n : Nat) : (s.bump f i n).seqs = s.seqs := rfl
@[simp] theorem State.bump_heads (s : State) (f : Fld) (i : List Nat) (n : Nat) : (s.bump f i n).heads = s.heads := rfl
@[simp] theorem State.bump_fe (s : State) (f : Fld) (i : List Nat) (n : Nat) : (s.bump f i n).fe = s.fe := rfl
@[simp] theorem State.bump_tbl (s : State) (f : Fld) (i : List Nat) (n : Nat) : (s.bump f i n).tbl = s.tbl := rfl
@[simp] theorem State.bump_msgs (s : State) (f : Fld) (i : List Nat) (n : Nat) : (s.bump f i n).msgs = s.msgs := rfl
@[simp] theorem State.bump_mbox (s : State) (f : Fld) (i : List Nat) (n : Nat) : (s.bump f i n).mbox = s.mbox := rfl
@[simp] theorem State.bump_presets (s : State) (f : Fld) (i : List Nat) (n : Nat) : (s.bump f i n).presets = s.presets := rfl
@[simp] theorem State.bump_shareT (s : State) (f : Fld) (i : List Nat) (n : Nat) : (s.bump f i n).shareT = s.shareT := rfl
@[simp] theorem State.bump_seq (s : State) (f : Fld) (i : List Nat) (n : Nat) : (s.bump f i n).seq = s.seq := rfl
@[simp] theorem State.bump_pauseT (s : State) (f : Fld) (i : List Nat) (n : Nat) : (s.bump f i n).pauseT = s.pauseT := rfl
@[simp] theorem State.bump_otp (s : State) (f : Fld) (i : List Nat) (n : Nat) : (s.bump f i n).otp = s.otp := rfl
@[simp] theorem State.bump_boot (s : State) (f : Fld) (i : List Nat) (n : Nat) : (s.bump f i n).boot = s.boot := rfl
@[simp] theorem State.bump_pwr (s : State) (f : Fld) (i : List Nat) (n : Nat) : (s.bump f i n).pwr = s.pwr := rfl
@[simp] theorem State.bump_mesh (s : State) (f : Fld) (i : List Nat) (n : Nat) : (s.bump f i n).mesh = s.mesh := rfl
@[simp] theorem State.bump_served (s : State) (f : Fld) (i : List Nat) (n : Nat) : (s.bump f i n).served = s.served := rfl
@[simp] theorem State.bump_l2 (s : State) (f : Fld) (i : List Nat) (n : Nat) : (s.bump f i n).l2 = s.l2 := rfl

/-! ### wrap -/

@[simp] theorem State.wrap_acq (s : State) (f : Fld) (i : List Nat) (n : Nat) : (s.wrap f i n).acq = s.acq := rfl
@[simp] theorem State.wrap_proc (s : State) (f : Fld) (i : List Nat) (n : Nat) : (s.wrap f i n).proc = s.proc := rfl
@[simp] theorem State.wrap_ethIn (s : State) (f : Fld) (i : List Nat) (n : Nat) : (s.wrap f i n).ethIn = s.ethIn := rfl
@[simp] theorem State.wrap_latches (s : State) (f : Fld) (i : List Nat) (n : Nat) : (s.wrap f i n).latches = s.latches := rfl
@[simp] theorem State.wrap_halves (s : State) (f : Fld) (i : List Nat) (n : Nat) : (s.wrap f i n).halves = s.halves := rfl
@[simp] theorem State.wrap_mem (s : State) (f : Fld) (i : List Nat) (n : Nat) : (s.wrap f i n).mem = s.mem := rfl
@[simp] theorem State.wrap_haze (s : State) (f : Fld) (i : List Nat) (n : Nat) : (s.wrap f i n).haze = s.haze := rfl
@[simp] theorem State.wrap_poison (s : State) (f : Fld) (i : List Nat) (n : Nat) : (s.wrap f i n).poison = s.poison := rfl
@[simp] theorem State.wrap_flips (s : State) (f : Fld) (i : List Nat) (n : Nat) : (s.wrap f i n).flips = s.flips := rfl
@[simp] theorem State.wrap_parity (s : State) (f : Fld) (i : List Nat) (n : Nat) : (s.wrap f i n).parity = s.parity := rfl
@[simp] theorem State.wrap_sram (s : State) (f : Fld) (i : List Nat) (n : Nat) : (s.wrap f i n).sram = s.sram := rfl
@[simp] theorem State.wrap_sramBad (s : State) (f : Fld) (i : List Nat) (n : Nat) : (s.wrap f i n).sramBad = s.sramBad := rfl
@[simp] theorem State.wrap_valid (s : State) (f : Fld) (i : List Nat) (n : Nat) : (s.wrap f i n).valid = s.valid := rfl
@[simp] theorem State.wrap_written (s : State) (f : Fld) (i : List Nat) (n : Nat) : (s.wrap f i n).written = s.written := rfl
@[simp] theorem State.wrap_chanBuf (s : State) (f : Fld) (i : List Nat) (n : Nat) : (s.wrap f i n).chanBuf = s.chanBuf := rfl
@[simp] theorem State.wrap_bankBuf (s : State) (f : Fld) (i : List Nat) (n : Nat) : (s.wrap f i n).bankBuf = s.bankBuf := rfl
@[simp] theorem State.wrap_pulses (s : State) (f : Fld) (i : List Nat) (n : Nat) : (s.wrap f i n).pulses = s.pulses := rfl
@[simp] theorem State.wrap_capts (s : State) (f : Fld) (i : List Nat) (n : Nat) : (s.wrap f i n).capts = s.capts := rfl
@[simp] theorem State.wrap_imu (s : State) (f : Fld) (i : List Nat) (n : Nat) : (s.wrap f i n).imu = s.imu := rfl
@[simp] theorem State.wrap_asleep (s : State) (f : Fld) (i : List Nat) (n : Nat) : (s.wrap f i n).asleep = s.asleep := rfl
@[simp] theorem State.wrap_txAt (s : State) (f : Fld) (i : List Nat) (n : Nat) : (s.wrap f i n).txAt = s.txAt := rfl
@[simp] theorem State.wrap_mdioRd (s : State) (f : Fld) (i : List Nat) (n : Nat) : (s.wrap f i n).mdioRd = s.mdioRd := rfl
@[simp] theorem State.wrap_inbox (s : State) (f : Fld) (i : List Nat) (n : Nat) : (s.wrap f i n).inbox = s.inbox := rfl
@[simp] theorem State.wrap_clk (s : State) (f : Fld) (i : List Nat) (n : Nat) : (s.wrap f i n).clk = s.clk := rfl
@[simp] theorem State.wrap_ctxs (s : State) (f : Fld) (i : List Nat) (n : Nat) : (s.wrap f i n).ctxs = s.ctxs := rfl
@[simp] theorem State.wrap_cores (s : State) (f : Fld) (i : List Nat) (n : Nat) : (s.wrap f i n).cores = s.cores := rfl
@[simp] theorem State.wrap_flights (s : State) (f : Fld) (i : List Nat) (n : Nat) : (s.wrap f i n).flights = s.flights := rfl
@[simp] theorem State.wrap_fabric (s : State) (f : Fld) (i : List Nat) (n : Nat) : (s.wrap f i n).fabric = s.fabric := rfl
@[simp] theorem State.wrap_sliceT (s : State) (f : Fld) (i : List Nat) (n : Nat) : (s.wrap f i n).sliceT = s.sliceT := rfl
@[simp] theorem State.wrap_slice (s : State) (f : Fld) (i : List Nat) (n : Nat) : (s.wrap f i n).slice = s.slice := rfl
@[simp] theorem State.wrap_exps (s : State) (f : Fld) (i : List Nat) (n : Nat) : (s.wrap f i n).exps = s.exps := rfl
@[simp] theorem State.wrap_mntSkip (s : State) (f : Fld) (i : List Nat) (n : Nat) : (s.wrap f i n).mntSkip = s.mntSkip := rfl
@[simp] theorem State.wrap_txns (s : State) (f : Fld) (i : List Nat) (n : Nat) : (s.wrap f i n).txns = s.txns := rfl
@[simp] theorem State.wrap_pendTx (s : State) (f : Fld) (i : List Nat) (n : Nat) : (s.wrap f i n).pendTx = s.pendTx := rfl
@[simp] theorem State.wrap_passed (s : State) (f : Fld) (i : List Nat) (n : Nat) : (s.wrap f i n).passed = s.passed := rfl
@[simp] theorem State.wrap_mon (s : State) (f : Fld) (i : List Nat) (n : Nat) : (s.wrap f i n).mon = s.mon := rfl
@[simp] theorem State.wrap_links (s : State) (f : Fld) (i : List Nat) (n : Nat) : (s.wrap f i n).links = s.links := rfl
@[simp] theorem State.wrap_msix (s : State) (f : Fld) (i : List Nat) (n : Nat) : (s.wrap f i n).msix = s.msix := rfl
@[simp] theorem State.wrap_mctp (s : State) (f : Fld) (i : List Nat) (n : Nat) : (s.wrap f i n).mctp = s.mctp := rfl
@[simp] theorem State.wrap_out (s : State) (f : Fld) (i : List Nat) (n : Nat) : (s.wrap f i n).out = s.out := rfl
@[simp] theorem State.wrap_free (s : State) (f : Fld) (i : List Nat) (n : Nat) : (s.wrap f i n).free = s.free := rfl
@[simp] theorem State.wrap_stamp (s : State) (f : Fld) (i : List Nat) (n : Nat) : (s.wrap f i n).stamp = s.stamp := rfl
@[simp] theorem State.wrap_pending (s : State) (f : Fld) (i : List Nat) (n : Nat) : (s.wrap f i n).pending = s.pending := rfl
@[simp] theorem State.wrap_recov (s : State) (f : Fld) (i : List Nat) (n : Nat) : (s.wrap f i n).recov = s.recov := rfl
@[simp] theorem State.wrap_diagRd (s : State) (f : Fld) (i : List Nat) (n : Nat) : (s.wrap f i n).diagRd = s.diagRd := rfl
@[simp] theorem State.wrap_leakT (s : State) (f : Fld) (i : List Nat) (n : Nat) : (s.wrap f i n).leakT = s.leakT := rfl
@[simp] theorem State.wrap_zqT (s : State) (f : Fld) (i : List Nat) (n : Nat) : (s.wrap f i n).zqT = s.zqT := rfl
@[simp] theorem State.wrap_trainT (s : State) (f : Fld) (i : List Nat) (n : Nat) : (s.wrap f i n).trainT = s.trainT := rfl
@[simp] theorem State.wrap_forced (s : State) (f : Fld) (i : List Nat) (n : Nat) : (s.wrap f i n).forced = s.forced := rfl
@[simp] theorem State.wrap_ends (s : State) (f : Fld) (i : List Nat) (n : Nat) : (s.wrap f i n).ends = s.ends := rfl
@[simp] theorem State.wrap_zeroing (s : State) (f : Fld) (i : List Nat) (n : Nat) : (s.wrap f i n).zeroing = s.zeroing := rfl
@[simp] theorem State.wrap_clean (s : State) (f : Fld) (i : List Nat) (n : Nat) : (s.wrap f i n).clean = s.clean := rfl
@[simp] theorem State.wrap_fabLast (s : State) (f : Fld) (i : List Nat) (n : Nat) : (s.wrap f i n).fabLast = s.fabLast := rfl
@[simp] theorem State.wrap_lag (s : State) (f : Fld) (i : List Nat) (n : Nat) : (s.wrap f i n).lag = s.lag := rfl
@[simp] theorem State.wrap_seqs (s : State) (f : Fld) (i : List Nat) (n : Nat) : (s.wrap f i n).seqs = s.seqs := rfl
@[simp] theorem State.wrap_heads (s : State) (f : Fld) (i : List Nat) (n : Nat) : (s.wrap f i n).heads = s.heads := rfl
@[simp] theorem State.wrap_fe (s : State) (f : Fld) (i : List Nat) (n : Nat) : (s.wrap f i n).fe = s.fe := rfl
@[simp] theorem State.wrap_tbl (s : State) (f : Fld) (i : List Nat) (n : Nat) : (s.wrap f i n).tbl = s.tbl := rfl
@[simp] theorem State.wrap_msgs (s : State) (f : Fld) (i : List Nat) (n : Nat) : (s.wrap f i n).msgs = s.msgs := rfl
@[simp] theorem State.wrap_mbox (s : State) (f : Fld) (i : List Nat) (n : Nat) : (s.wrap f i n).mbox = s.mbox := rfl
@[simp] theorem State.wrap_presets (s : State) (f : Fld) (i : List Nat) (n : Nat) : (s.wrap f i n).presets = s.presets := rfl
@[simp] theorem State.wrap_shareT (s : State) (f : Fld) (i : List Nat) (n : Nat) : (s.wrap f i n).shareT = s.shareT := rfl
@[simp] theorem State.wrap_seq (s : State) (f : Fld) (i : List Nat) (n : Nat) : (s.wrap f i n).seq = s.seq := rfl
@[simp] theorem State.wrap_pauseT (s : State) (f : Fld) (i : List Nat) (n : Nat) : (s.wrap f i n).pauseT = s.pauseT := rfl
@[simp] theorem State.wrap_otp (s : State) (f : Fld) (i : List Nat) (n : Nat) : (s.wrap f i n).otp = s.otp := rfl
@[simp] theorem State.wrap_boot (s : State) (f : Fld) (i : List Nat) (n : Nat) : (s.wrap f i n).boot = s.boot := rfl
@[simp] theorem State.wrap_pwr (s : State) (f : Fld) (i : List Nat) (n : Nat) : (s.wrap f i n).pwr = s.pwr := rfl
@[simp] theorem State.wrap_mesh (s : State) (f : Fld) (i : List Nat) (n : Nat) : (s.wrap f i n).mesh = s.mesh := rfl
@[simp] theorem State.wrap_served (s : State) (f : Fld) (i : List Nat) (n : Nat) : (s.wrap f i n).served = s.served := rfl
@[simp] theorem State.wrap_l2 (s : State) (f : Fld) (i : List Nat) (n : Nat) : (s.wrap f i n).l2 = s.l2 := rfl

/-! ### emit -/

@[simp] theorem State.emit_csr (s : State) (o : Out) : (s.emit o).csr = s.csr := rfl
@[simp] theorem State.emit_acq (s : State) (o : Out) : (s.emit o).acq = s.acq := rfl
@[simp] theorem State.emit_proc (s : State) (o : Out) : (s.emit o).proc = s.proc := rfl
@[simp] theorem State.emit_ethIn (s : State) (o : Out) : (s.emit o).ethIn = s.ethIn := rfl
@[simp] theorem State.emit_latches (s : State) (o : Out) : (s.emit o).latches = s.latches := rfl
@[simp] theorem State.emit_halves (s : State) (o : Out) : (s.emit o).halves = s.halves := rfl
@[simp] theorem State.emit_mem (s : State) (o : Out) : (s.emit o).mem = s.mem := rfl
@[simp] theorem State.emit_haze (s : State) (o : Out) : (s.emit o).haze = s.haze := rfl
@[simp] theorem State.emit_poison (s : State) (o : Out) : (s.emit o).poison = s.poison := rfl
@[simp] theorem State.emit_flips (s : State) (o : Out) : (s.emit o).flips = s.flips := rfl
@[simp] theorem State.emit_parity (s : State) (o : Out) : (s.emit o).parity = s.parity := rfl
@[simp] theorem State.emit_sram (s : State) (o : Out) : (s.emit o).sram = s.sram := rfl
@[simp] theorem State.emit_sramBad (s : State) (o : Out) : (s.emit o).sramBad = s.sramBad := rfl
@[simp] theorem State.emit_valid (s : State) (o : Out) : (s.emit o).valid = s.valid := rfl
@[simp] theorem State.emit_written (s : State) (o : Out) : (s.emit o).written = s.written := rfl
@[simp] theorem State.emit_chanBuf (s : State) (o : Out) : (s.emit o).chanBuf = s.chanBuf := rfl
@[simp] theorem State.emit_bankBuf (s : State) (o : Out) : (s.emit o).bankBuf = s.bankBuf := rfl
@[simp] theorem State.emit_pulses (s : State) (o : Out) : (s.emit o).pulses = s.pulses := rfl
@[simp] theorem State.emit_capts (s : State) (o : Out) : (s.emit o).capts = s.capts := rfl
@[simp] theorem State.emit_imu (s : State) (o : Out) : (s.emit o).imu = s.imu := rfl
@[simp] theorem State.emit_asleep (s : State) (o : Out) : (s.emit o).asleep = s.asleep := rfl
@[simp] theorem State.emit_txAt (s : State) (o : Out) : (s.emit o).txAt = s.txAt := rfl
@[simp] theorem State.emit_mdioRd (s : State) (o : Out) : (s.emit o).mdioRd = s.mdioRd := rfl
@[simp] theorem State.emit_inbox (s : State) (o : Out) : (s.emit o).inbox = s.inbox := rfl
@[simp] theorem State.emit_clk (s : State) (o : Out) : (s.emit o).clk = s.clk := rfl
@[simp] theorem State.emit_ctxs (s : State) (o : Out) : (s.emit o).ctxs = s.ctxs := rfl
@[simp] theorem State.emit_cores (s : State) (o : Out) : (s.emit o).cores = s.cores := rfl
@[simp] theorem State.emit_flights (s : State) (o : Out) : (s.emit o).flights = s.flights := rfl
@[simp] theorem State.emit_fabric (s : State) (o : Out) : (s.emit o).fabric = s.fabric := rfl
@[simp] theorem State.emit_sliceT (s : State) (o : Out) : (s.emit o).sliceT = s.sliceT := rfl
@[simp] theorem State.emit_slice (s : State) (o : Out) : (s.emit o).slice = s.slice := rfl
@[simp] theorem State.emit_exps (s : State) (o : Out) : (s.emit o).exps = s.exps := rfl
@[simp] theorem State.emit_mntSkip (s : State) (o : Out) : (s.emit o).mntSkip = s.mntSkip := rfl
@[simp] theorem State.emit_txns (s : State) (o : Out) : (s.emit o).txns = s.txns := rfl
@[simp] theorem State.emit_pendTx (s : State) (o : Out) : (s.emit o).pendTx = s.pendTx := rfl
@[simp] theorem State.emit_passed (s : State) (o : Out) : (s.emit o).passed = s.passed := rfl
@[simp] theorem State.emit_mon (s : State) (o : Out) : (s.emit o).mon = s.mon := rfl
@[simp] theorem State.emit_links (s : State) (o : Out) : (s.emit o).links = s.links := rfl
@[simp] theorem State.emit_msix (s : State) (o : Out) : (s.emit o).msix = s.msix := rfl
@[simp] theorem State.emit_mctp (s : State) (o : Out) : (s.emit o).mctp = s.mctp := rfl
@[simp] theorem State.emit_free (s : State) (o : Out) : (s.emit o).free = s.free := rfl
@[simp] theorem State.emit_stamp (s : State) (o : Out) : (s.emit o).stamp = s.stamp := rfl
@[simp] theorem State.emit_pending (s : State) (o : Out) : (s.emit o).pending = s.pending := rfl
@[simp] theorem State.emit_recov (s : State) (o : Out) : (s.emit o).recov = s.recov := rfl
@[simp] theorem State.emit_diagRd (s : State) (o : Out) : (s.emit o).diagRd = s.diagRd := rfl
@[simp] theorem State.emit_leakT (s : State) (o : Out) : (s.emit o).leakT = s.leakT := rfl
@[simp] theorem State.emit_zqT (s : State) (o : Out) : (s.emit o).zqT = s.zqT := rfl
@[simp] theorem State.emit_trainT (s : State) (o : Out) : (s.emit o).trainT = s.trainT := rfl
@[simp] theorem State.emit_forced (s : State) (o : Out) : (s.emit o).forced = s.forced := rfl
@[simp] theorem State.emit_ends (s : State) (o : Out) : (s.emit o).ends = s.ends := rfl
@[simp] theorem State.emit_zeroing (s : State) (o : Out) : (s.emit o).zeroing = s.zeroing := rfl
@[simp] theorem State.emit_clean (s : State) (o : Out) : (s.emit o).clean = s.clean := rfl
@[simp] theorem State.emit_fabLast (s : State) (o : Out) : (s.emit o).fabLast = s.fabLast := rfl
@[simp] theorem State.emit_lag (s : State) (o : Out) : (s.emit o).lag = s.lag := rfl
@[simp] theorem State.emit_seqs (s : State) (o : Out) : (s.emit o).seqs = s.seqs := rfl
@[simp] theorem State.emit_heads (s : State) (o : Out) : (s.emit o).heads = s.heads := rfl
@[simp] theorem State.emit_fe (s : State) (o : Out) : (s.emit o).fe = s.fe := rfl
@[simp] theorem State.emit_tbl (s : State) (o : Out) : (s.emit o).tbl = s.tbl := rfl
@[simp] theorem State.emit_msgs (s : State) (o : Out) : (s.emit o).msgs = s.msgs := rfl
@[simp] theorem State.emit_mbox (s : State) (o : Out) : (s.emit o).mbox = s.mbox := rfl
@[simp] theorem State.emit_presets (s : State) (o : Out) : (s.emit o).presets = s.presets := rfl
@[simp] theorem State.emit_shareT (s : State) (o : Out) : (s.emit o).shareT = s.shareT := rfl
@[simp] theorem State.emit_seq (s : State) (o : Out) : (s.emit o).seq = s.seq := rfl
@[simp] theorem State.emit_pauseT (s : State) (o : Out) : (s.emit o).pauseT = s.pauseT := rfl
@[simp] theorem State.emit_otp (s : State) (o : Out) : (s.emit o).otp = s.otp := rfl
@[simp] theorem State.emit_boot (s : State) (o : Out) : (s.emit o).boot = s.boot := rfl
@[simp] theorem State.emit_pwr (s : State) (o : Out) : (s.emit o).pwr = s.pwr := rfl
@[simp] theorem State.emit_mesh (s : State) (o : Out) : (s.emit o).mesh = s.mesh := rfl
@[simp] theorem State.emit_served (s : State) (o : Out) : (s.emit o).served = s.served := rfl
@[simp] theorem State.emit_l2 (s : State) (o : Out) : (s.emit o).l2 = s.l2 := rfl

/-! ### setCore -/

@[simp] theorem State.setCore_csr (s : State) (n : CoreId) (f : Core → Core) : (s.setCore n f).csr = s.csr := rfl
@[simp] theorem State.setCore_acq (s : State) (n : CoreId) (f : Core → Core) : (s.setCore n f).acq = s.acq := rfl
@[simp] theorem State.setCore_proc (s : State) (n : CoreId) (f : Core → Core) : (s.setCore n f).proc = s.proc := rfl
@[simp] theorem State.setCore_ethIn (s : State) (n : CoreId) (f : Core → Core) : (s.setCore n f).ethIn = s.ethIn := rfl
@[simp] theorem State.setCore_latches (s : State) (n : CoreId) (f : Core → Core) : (s.setCore n f).latches = s.latches := rfl
@[simp] theorem State.setCore_halves (s : State) (n : CoreId) (f : Core → Core) : (s.setCore n f).halves = s.halves := rfl
@[simp] theorem State.setCore_mem (s : State) (n : CoreId) (f : Core → Core) : (s.setCore n f).mem = s.mem := rfl
@[simp] theorem State.setCore_haze (s : State) (n : CoreId) (f : Core → Core) : (s.setCore n f).haze = s.haze := rfl
@[simp] theorem State.setCore_poison (s : State) (n : CoreId) (f : Core → Core) : (s.setCore n f).poison = s.poison := rfl
@[simp] theorem State.setCore_flips (s : State) (n : CoreId) (f : Core → Core) : (s.setCore n f).flips = s.flips := rfl
@[simp] theorem State.setCore_parity (s : State) (n : CoreId) (f : Core → Core) : (s.setCore n f).parity = s.parity := rfl
@[simp] theorem State.setCore_sram (s : State) (n : CoreId) (f : Core → Core) : (s.setCore n f).sram = s.sram := rfl
@[simp] theorem State.setCore_sramBad (s : State) (n : CoreId) (f : Core → Core) : (s.setCore n f).sramBad = s.sramBad := rfl
@[simp] theorem State.setCore_valid (s : State) (n : CoreId) (f : Core → Core) : (s.setCore n f).valid = s.valid := rfl
@[simp] theorem State.setCore_written (s : State) (n : CoreId) (f : Core → Core) : (s.setCore n f).written = s.written := rfl
@[simp] theorem State.setCore_chanBuf (s : State) (n : CoreId) (f : Core → Core) : (s.setCore n f).chanBuf = s.chanBuf := rfl
@[simp] theorem State.setCore_bankBuf (s : State) (n : CoreId) (f : Core → Core) : (s.setCore n f).bankBuf = s.bankBuf := rfl
@[simp] theorem State.setCore_pulses (s : State) (n : CoreId) (f : Core → Core) : (s.setCore n f).pulses = s.pulses := rfl
@[simp] theorem State.setCore_capts (s : State) (n : CoreId) (f : Core → Core) : (s.setCore n f).capts = s.capts := rfl
@[simp] theorem State.setCore_imu (s : State) (n : CoreId) (f : Core → Core) : (s.setCore n f).imu = s.imu := rfl
@[simp] theorem State.setCore_asleep (s : State) (n : CoreId) (f : Core → Core) : (s.setCore n f).asleep = s.asleep := rfl
@[simp] theorem State.setCore_txAt (s : State) (n : CoreId) (f : Core → Core) : (s.setCore n f).txAt = s.txAt := rfl
@[simp] theorem State.setCore_mdioRd (s : State) (n : CoreId) (f : Core → Core) : (s.setCore n f).mdioRd = s.mdioRd := rfl
@[simp] theorem State.setCore_inbox (s : State) (n : CoreId) (f : Core → Core) : (s.setCore n f).inbox = s.inbox := rfl
@[simp] theorem State.setCore_clk (s : State) (n : CoreId) (f : Core → Core) : (s.setCore n f).clk = s.clk := rfl
@[simp] theorem State.setCore_ctxs (s : State) (n : CoreId) (f : Core → Core) : (s.setCore n f).ctxs = s.ctxs := rfl
@[simp] theorem State.setCore_flights (s : State) (n : CoreId) (f : Core → Core) : (s.setCore n f).flights = s.flights := rfl
@[simp] theorem State.setCore_fabric (s : State) (n : CoreId) (f : Core → Core) : (s.setCore n f).fabric = s.fabric := rfl
@[simp] theorem State.setCore_sliceT (s : State) (n : CoreId) (f : Core → Core) : (s.setCore n f).sliceT = s.sliceT := rfl
@[simp] theorem State.setCore_slice (s : State) (n : CoreId) (f : Core → Core) : (s.setCore n f).slice = s.slice := rfl
@[simp] theorem State.setCore_exps (s : State) (n : CoreId) (f : Core → Core) : (s.setCore n f).exps = s.exps := rfl
@[simp] theorem State.setCore_mntSkip (s : State) (n : CoreId) (f : Core → Core) : (s.setCore n f).mntSkip = s.mntSkip := rfl
@[simp] theorem State.setCore_txns (s : State) (n : CoreId) (f : Core → Core) : (s.setCore n f).txns = s.txns := rfl
@[simp] theorem State.setCore_pendTx (s : State) (n : CoreId) (f : Core → Core) : (s.setCore n f).pendTx = s.pendTx := rfl
@[simp] theorem State.setCore_passed (s : State) (n : CoreId) (f : Core → Core) : (s.setCore n f).passed = s.passed := rfl
@[simp] theorem State.setCore_mon (s : State) (n : CoreId) (f : Core → Core) : (s.setCore n f).mon = s.mon := rfl
@[simp] theorem State.setCore_links (s : State) (n : CoreId) (f : Core → Core) : (s.setCore n f).links = s.links := rfl
@[simp] theorem State.setCore_msix (s : State) (n : CoreId) (f : Core → Core) : (s.setCore n f).msix = s.msix := rfl
@[simp] theorem State.setCore_mctp (s : State) (n : CoreId) (f : Core → Core) : (s.setCore n f).mctp = s.mctp := rfl
@[simp] theorem State.setCore_out (s : State) (n : CoreId) (f : Core → Core) : (s.setCore n f).out = s.out := rfl
@[simp] theorem State.setCore_free (s : State) (n : CoreId) (f : Core → Core) : (s.setCore n f).free = s.free := rfl
@[simp] theorem State.setCore_stamp (s : State) (n : CoreId) (f : Core → Core) : (s.setCore n f).stamp = s.stamp := rfl
@[simp] theorem State.setCore_pending (s : State) (n : CoreId) (f : Core → Core) : (s.setCore n f).pending = s.pending := rfl
@[simp] theorem State.setCore_recov (s : State) (n : CoreId) (f : Core → Core) : (s.setCore n f).recov = s.recov := rfl
@[simp] theorem State.setCore_diagRd (s : State) (n : CoreId) (f : Core → Core) : (s.setCore n f).diagRd = s.diagRd := rfl
@[simp] theorem State.setCore_leakT (s : State) (n : CoreId) (f : Core → Core) : (s.setCore n f).leakT = s.leakT := rfl
@[simp] theorem State.setCore_zqT (s : State) (n : CoreId) (f : Core → Core) : (s.setCore n f).zqT = s.zqT := rfl
@[simp] theorem State.setCore_trainT (s : State) (n : CoreId) (f : Core → Core) : (s.setCore n f).trainT = s.trainT := rfl
@[simp] theorem State.setCore_forced (s : State) (n : CoreId) (f : Core → Core) : (s.setCore n f).forced = s.forced := rfl
@[simp] theorem State.setCore_ends (s : State) (n : CoreId) (f : Core → Core) : (s.setCore n f).ends = s.ends := rfl
@[simp] theorem State.setCore_zeroing (s : State) (n : CoreId) (f : Core → Core) : (s.setCore n f).zeroing = s.zeroing := rfl
@[simp] theorem State.setCore_clean (s : State) (n : CoreId) (f : Core → Core) : (s.setCore n f).clean = s.clean := rfl
@[simp] theorem State.setCore_fabLast (s : State) (n : CoreId) (f : Core → Core) : (s.setCore n f).fabLast = s.fabLast := rfl
@[simp] theorem State.setCore_lag (s : State) (n : CoreId) (f : Core → Core) : (s.setCore n f).lag = s.lag := rfl
@[simp] theorem State.setCore_seqs (s : State) (n : CoreId) (f : Core → Core) : (s.setCore n f).seqs = s.seqs := rfl
@[simp] theorem State.setCore_heads (s : State) (n : CoreId) (f : Core → Core) : (s.setCore n f).heads = s.heads := rfl
@[simp] theorem State.setCore_fe (s : State) (n : CoreId) (f : Core → Core) : (s.setCore n f).fe = s.fe := rfl
@[simp] theorem State.setCore_tbl (s : State) (n : CoreId) (f : Core → Core) : (s.setCore n f).tbl = s.tbl := rfl
@[simp] theorem State.setCore_msgs (s : State) (n : CoreId) (f : Core → Core) : (s.setCore n f).msgs = s.msgs := rfl
@[simp] theorem State.setCore_mbox (s : State) (n : CoreId) (f : Core → Core) : (s.setCore n f).mbox = s.mbox := rfl
@[simp] theorem State.setCore_presets (s : State) (n : CoreId) (f : Core → Core) : (s.setCore n f).presets = s.presets := rfl
@[simp] theorem State.setCore_shareT (s : State) (n : CoreId) (f : Core → Core) : (s.setCore n f).shareT = s.shareT := rfl
@[simp] theorem State.setCore_seq (s : State) (n : CoreId) (f : Core → Core) : (s.setCore n f).seq = s.seq := rfl
@[simp] theorem State.setCore_pauseT (s : State) (n : CoreId) (f : Core → Core) : (s.setCore n f).pauseT = s.pauseT := rfl
@[simp] theorem State.setCore_otp (s : State) (n : CoreId) (f : Core → Core) : (s.setCore n f).otp = s.otp := rfl
@[simp] theorem State.setCore_boot (s : State) (n : CoreId) (f : Core → Core) : (s.setCore n f).boot = s.boot := rfl
@[simp] theorem State.setCore_pwr (s : State) (n : CoreId) (f : Core → Core) : (s.setCore n f).pwr = s.pwr := rfl
@[simp] theorem State.setCore_mesh (s : State) (n : CoreId) (f : Core → Core) : (s.setCore n f).mesh = s.mesh := rfl
@[simp] theorem State.setCore_served (s : State) (n : CoreId) (f : Core → Core) : (s.setCore n f).served = s.served := rfl
@[simp] theorem State.setCore_l2 (s : State) (n : CoreId) (f : Core → Core) : (s.setCore n f).l2 = s.l2 := rfl

/-! ### setCtx -/

@[simp] theorem State.setCtx_csr (s : State) (c : CtxId) (f : Ctx → Ctx) : (s.setCtx c f).csr = s.csr := rfl
@[simp] theorem State.setCtx_acq (s : State) (c : CtxId) (f : Ctx → Ctx) : (s.setCtx c f).acq = s.acq := rfl
@[simp] theorem State.setCtx_proc (s : State) (c : CtxId) (f : Ctx → Ctx) : (s.setCtx c f).proc = s.proc := rfl
@[simp] theorem State.setCtx_ethIn (s : State) (c : CtxId) (f : Ctx → Ctx) : (s.setCtx c f).ethIn = s.ethIn := rfl
@[simp] theorem State.setCtx_latches (s : State) (c : CtxId) (f : Ctx → Ctx) : (s.setCtx c f).latches = s.latches := rfl
@[simp] theorem State.setCtx_halves (s : State) (c : CtxId) (f : Ctx → Ctx) : (s.setCtx c f).halves = s.halves := rfl
@[simp] theorem State.setCtx_mem (s : State) (c : CtxId) (f : Ctx → Ctx) : (s.setCtx c f).mem = s.mem := rfl
@[simp] theorem State.setCtx_haze (s : State) (c : CtxId) (f : Ctx → Ctx) : (s.setCtx c f).haze = s.haze := rfl
@[simp] theorem State.setCtx_poison (s : State) (c : CtxId) (f : Ctx → Ctx) : (s.setCtx c f).poison = s.poison := rfl
@[simp] theorem State.setCtx_flips (s : State) (c : CtxId) (f : Ctx → Ctx) : (s.setCtx c f).flips = s.flips := rfl
@[simp] theorem State.setCtx_parity (s : State) (c : CtxId) (f : Ctx → Ctx) : (s.setCtx c f).parity = s.parity := rfl
@[simp] theorem State.setCtx_sram (s : State) (c : CtxId) (f : Ctx → Ctx) : (s.setCtx c f).sram = s.sram := rfl
@[simp] theorem State.setCtx_sramBad (s : State) (c : CtxId) (f : Ctx → Ctx) : (s.setCtx c f).sramBad = s.sramBad := rfl
@[simp] theorem State.setCtx_valid (s : State) (c : CtxId) (f : Ctx → Ctx) : (s.setCtx c f).valid = s.valid := rfl
@[simp] theorem State.setCtx_written (s : State) (c : CtxId) (f : Ctx → Ctx) : (s.setCtx c f).written = s.written := rfl
@[simp] theorem State.setCtx_chanBuf (s : State) (c : CtxId) (f : Ctx → Ctx) : (s.setCtx c f).chanBuf = s.chanBuf := rfl
@[simp] theorem State.setCtx_bankBuf (s : State) (c : CtxId) (f : Ctx → Ctx) : (s.setCtx c f).bankBuf = s.bankBuf := rfl
@[simp] theorem State.setCtx_pulses (s : State) (c : CtxId) (f : Ctx → Ctx) : (s.setCtx c f).pulses = s.pulses := rfl
@[simp] theorem State.setCtx_capts (s : State) (c : CtxId) (f : Ctx → Ctx) : (s.setCtx c f).capts = s.capts := rfl
@[simp] theorem State.setCtx_imu (s : State) (c : CtxId) (f : Ctx → Ctx) : (s.setCtx c f).imu = s.imu := rfl
@[simp] theorem State.setCtx_asleep (s : State) (c : CtxId) (f : Ctx → Ctx) : (s.setCtx c f).asleep = s.asleep := rfl
@[simp] theorem State.setCtx_txAt (s : State) (c : CtxId) (f : Ctx → Ctx) : (s.setCtx c f).txAt = s.txAt := rfl
@[simp] theorem State.setCtx_mdioRd (s : State) (c : CtxId) (f : Ctx → Ctx) : (s.setCtx c f).mdioRd = s.mdioRd := rfl
@[simp] theorem State.setCtx_inbox (s : State) (c : CtxId) (f : Ctx → Ctx) : (s.setCtx c f).inbox = s.inbox := rfl
@[simp] theorem State.setCtx_clk (s : State) (c : CtxId) (f : Ctx → Ctx) : (s.setCtx c f).clk = s.clk := rfl
@[simp] theorem State.setCtx_cores (s : State) (c : CtxId) (f : Ctx → Ctx) : (s.setCtx c f).cores = s.cores := rfl
@[simp] theorem State.setCtx_flights (s : State) (c : CtxId) (f : Ctx → Ctx) : (s.setCtx c f).flights = s.flights := rfl
@[simp] theorem State.setCtx_fabric (s : State) (c : CtxId) (f : Ctx → Ctx) : (s.setCtx c f).fabric = s.fabric := rfl
@[simp] theorem State.setCtx_sliceT (s : State) (c : CtxId) (f : Ctx → Ctx) : (s.setCtx c f).sliceT = s.sliceT := rfl
@[simp] theorem State.setCtx_slice (s : State) (c : CtxId) (f : Ctx → Ctx) : (s.setCtx c f).slice = s.slice := rfl
@[simp] theorem State.setCtx_exps (s : State) (c : CtxId) (f : Ctx → Ctx) : (s.setCtx c f).exps = s.exps := rfl
@[simp] theorem State.setCtx_mntSkip (s : State) (c : CtxId) (f : Ctx → Ctx) : (s.setCtx c f).mntSkip = s.mntSkip := rfl
@[simp] theorem State.setCtx_txns (s : State) (c : CtxId) (f : Ctx → Ctx) : (s.setCtx c f).txns = s.txns := rfl
@[simp] theorem State.setCtx_pendTx (s : State) (c : CtxId) (f : Ctx → Ctx) : (s.setCtx c f).pendTx = s.pendTx := rfl
@[simp] theorem State.setCtx_passed (s : State) (c : CtxId) (f : Ctx → Ctx) : (s.setCtx c f).passed = s.passed := rfl
@[simp] theorem State.setCtx_mon (s : State) (c : CtxId) (f : Ctx → Ctx) : (s.setCtx c f).mon = s.mon := rfl
@[simp] theorem State.setCtx_links (s : State) (c : CtxId) (f : Ctx → Ctx) : (s.setCtx c f).links = s.links := rfl
@[simp] theorem State.setCtx_msix (s : State) (c : CtxId) (f : Ctx → Ctx) : (s.setCtx c f).msix = s.msix := rfl
@[simp] theorem State.setCtx_mctp (s : State) (c : CtxId) (f : Ctx → Ctx) : (s.setCtx c f).mctp = s.mctp := rfl
@[simp] theorem State.setCtx_out (s : State) (c : CtxId) (f : Ctx → Ctx) : (s.setCtx c f).out = s.out := rfl
@[simp] theorem State.setCtx_free (s : State) (c : CtxId) (f : Ctx → Ctx) : (s.setCtx c f).free = s.free := rfl
@[simp] theorem State.setCtx_stamp (s : State) (c : CtxId) (f : Ctx → Ctx) : (s.setCtx c f).stamp = s.stamp := rfl
@[simp] theorem State.setCtx_pending (s : State) (c : CtxId) (f : Ctx → Ctx) : (s.setCtx c f).pending = s.pending := rfl
@[simp] theorem State.setCtx_recov (s : State) (c : CtxId) (f : Ctx → Ctx) : (s.setCtx c f).recov = s.recov := rfl
@[simp] theorem State.setCtx_diagRd (s : State) (c : CtxId) (f : Ctx → Ctx) : (s.setCtx c f).diagRd = s.diagRd := rfl
@[simp] theorem State.setCtx_leakT (s : State) (c : CtxId) (f : Ctx → Ctx) : (s.setCtx c f).leakT = s.leakT := rfl
@[simp] theorem State.setCtx_zqT (s : State) (c : CtxId) (f : Ctx → Ctx) : (s.setCtx c f).zqT = s.zqT := rfl
@[simp] theorem State.setCtx_trainT (s : State) (c : CtxId) (f : Ctx → Ctx) : (s.setCtx c f).trainT = s.trainT := rfl
@[simp] theorem State.setCtx_forced (s : State) (c : CtxId) (f : Ctx → Ctx) : (s.setCtx c f).forced = s.forced := rfl
@[simp] theorem State.setCtx_ends (s : State) (c : CtxId) (f : Ctx → Ctx) : (s.setCtx c f).ends = s.ends := rfl
@[simp] theorem State.setCtx_zeroing (s : State) (c : CtxId) (f : Ctx → Ctx) : (s.setCtx c f).zeroing = s.zeroing := rfl
@[simp] theorem State.setCtx_clean (s : State) (c : CtxId) (f : Ctx → Ctx) : (s.setCtx c f).clean = s.clean := rfl
@[simp] theorem State.setCtx_fabLast (s : State) (c : CtxId) (f : Ctx → Ctx) : (s.setCtx c f).fabLast = s.fabLast := rfl
@[simp] theorem State.setCtx_lag (s : State) (c : CtxId) (f : Ctx → Ctx) : (s.setCtx c f).lag = s.lag := rfl
@[simp] theorem State.setCtx_seqs (s : State) (c : CtxId) (f : Ctx → Ctx) : (s.setCtx c f).seqs = s.seqs := rfl
@[simp] theorem State.setCtx_heads (s : State) (c : CtxId) (f : Ctx → Ctx) : (s.setCtx c f).heads = s.heads := rfl
@[simp] theorem State.setCtx_fe (s : State) (c : CtxId) (f : Ctx → Ctx) : (s.setCtx c f).fe = s.fe := rfl
@[simp] theorem State.setCtx_tbl (s : State) (c : CtxId) (f : Ctx → Ctx) : (s.setCtx c f).tbl = s.tbl := rfl
@[simp] theorem State.setCtx_msgs (s : State) (c : CtxId) (f : Ctx → Ctx) : (s.setCtx c f).msgs = s.msgs := rfl
@[simp] theorem State.setCtx_mbox (s : State) (c : CtxId) (f : Ctx → Ctx) : (s.setCtx c f).mbox = s.mbox := rfl
@[simp] theorem State.setCtx_presets (s : State) (c : CtxId) (f : Ctx → Ctx) : (s.setCtx c f).presets = s.presets := rfl
@[simp] theorem State.setCtx_shareT (s : State) (c : CtxId) (f : Ctx → Ctx) : (s.setCtx c f).shareT = s.shareT := rfl
@[simp] theorem State.setCtx_seq (s : State) (c : CtxId) (f : Ctx → Ctx) : (s.setCtx c f).seq = s.seq := rfl
@[simp] theorem State.setCtx_pauseT (s : State) (c : CtxId) (f : Ctx → Ctx) : (s.setCtx c f).pauseT = s.pauseT := rfl
@[simp] theorem State.setCtx_otp (s : State) (c : CtxId) (f : Ctx → Ctx) : (s.setCtx c f).otp = s.otp := rfl
@[simp] theorem State.setCtx_boot (s : State) (c : CtxId) (f : Ctx → Ctx) : (s.setCtx c f).boot = s.boot := rfl
@[simp] theorem State.setCtx_pwr (s : State) (c : CtxId) (f : Ctx → Ctx) : (s.setCtx c f).pwr = s.pwr := rfl
@[simp] theorem State.setCtx_mesh (s : State) (c : CtxId) (f : Ctx → Ctx) : (s.setCtx c f).mesh = s.mesh := rfl
@[simp] theorem State.setCtx_served (s : State) (c : CtxId) (f : Ctx → Ctx) : (s.setCtx c f).served = s.served := rfl
@[simp] theorem State.setCtx_l2 (s : State) (c : CtxId) (f : Ctx → Ctx) : (s.setCtx c f).l2 = s.l2 := rfl

/-! ### setCtxState -/

@[simp] theorem State.setCtxState_acq (s : State) (c : CtxId) (v : Nat) : (s.setCtxState c v).acq = s.acq := rfl
@[simp] theorem State.setCtxState_proc (s : State) (c : CtxId) (v : Nat) : (s.setCtxState c v).proc = s.proc := rfl
@[simp] theorem State.setCtxState_ethIn (s : State) (c : CtxId) (v : Nat) : (s.setCtxState c v).ethIn = s.ethIn := rfl
@[simp] theorem State.setCtxState_latches (s : State) (c : CtxId) (v : Nat) : (s.setCtxState c v).latches = s.latches := rfl
@[simp] theorem State.setCtxState_halves (s : State) (c : CtxId) (v : Nat) : (s.setCtxState c v).halves = s.halves := rfl
@[simp] theorem State.setCtxState_mem (s : State) (c : CtxId) (v : Nat) : (s.setCtxState c v).mem = s.mem := rfl
@[simp] theorem State.setCtxState_haze (s : State) (c : CtxId) (v : Nat) : (s.setCtxState c v).haze = s.haze := rfl
@[simp] theorem State.setCtxState_poison (s : State) (c : CtxId) (v : Nat) : (s.setCtxState c v).poison = s.poison := rfl
@[simp] theorem State.setCtxState_flips (s : State) (c : CtxId) (v : Nat) : (s.setCtxState c v).flips = s.flips := rfl
@[simp] theorem State.setCtxState_parity (s : State) (c : CtxId) (v : Nat) : (s.setCtxState c v).parity = s.parity := rfl
@[simp] theorem State.setCtxState_sram (s : State) (c : CtxId) (v : Nat) : (s.setCtxState c v).sram = s.sram := rfl
@[simp] theorem State.setCtxState_sramBad (s : State) (c : CtxId) (v : Nat) : (s.setCtxState c v).sramBad = s.sramBad := rfl
@[simp] theorem State.setCtxState_valid (s : State) (c : CtxId) (v : Nat) : (s.setCtxState c v).valid = s.valid := rfl
@[simp] theorem State.setCtxState_written (s : State) (c : CtxId) (v : Nat) : (s.setCtxState c v).written = s.written := rfl
@[simp] theorem State.setCtxState_chanBuf (s : State) (c : CtxId) (v : Nat) : (s.setCtxState c v).chanBuf = s.chanBuf := rfl
@[simp] theorem State.setCtxState_bankBuf (s : State) (c : CtxId) (v : Nat) : (s.setCtxState c v).bankBuf = s.bankBuf := rfl
@[simp] theorem State.setCtxState_pulses (s : State) (c : CtxId) (v : Nat) : (s.setCtxState c v).pulses = s.pulses := rfl
@[simp] theorem State.setCtxState_capts (s : State) (c : CtxId) (v : Nat) : (s.setCtxState c v).capts = s.capts := rfl
@[simp] theorem State.setCtxState_imu (s : State) (c : CtxId) (v : Nat) : (s.setCtxState c v).imu = s.imu := rfl
@[simp] theorem State.setCtxState_asleep (s : State) (c : CtxId) (v : Nat) : (s.setCtxState c v).asleep = s.asleep := rfl
@[simp] theorem State.setCtxState_txAt (s : State) (c : CtxId) (v : Nat) : (s.setCtxState c v).txAt = s.txAt := rfl
@[simp] theorem State.setCtxState_mdioRd (s : State) (c : CtxId) (v : Nat) : (s.setCtxState c v).mdioRd = s.mdioRd := rfl
@[simp] theorem State.setCtxState_inbox (s : State) (c : CtxId) (v : Nat) : (s.setCtxState c v).inbox = s.inbox := rfl
@[simp] theorem State.setCtxState_clk (s : State) (c : CtxId) (v : Nat) : (s.setCtxState c v).clk = s.clk := rfl
@[simp] theorem State.setCtxState_ctxs (s : State) (c : CtxId) (v : Nat) : (s.setCtxState c v).ctxs = s.ctxs := rfl
@[simp] theorem State.setCtxState_cores (s : State) (c : CtxId) (v : Nat) : (s.setCtxState c v).cores = s.cores := rfl
@[simp] theorem State.setCtxState_flights (s : State) (c : CtxId) (v : Nat) : (s.setCtxState c v).flights = s.flights := rfl
@[simp] theorem State.setCtxState_fabric (s : State) (c : CtxId) (v : Nat) : (s.setCtxState c v).fabric = s.fabric := rfl
@[simp] theorem State.setCtxState_sliceT (s : State) (c : CtxId) (v : Nat) : (s.setCtxState c v).sliceT = s.sliceT := rfl
@[simp] theorem State.setCtxState_slice (s : State) (c : CtxId) (v : Nat) : (s.setCtxState c v).slice = s.slice := rfl
@[simp] theorem State.setCtxState_exps (s : State) (c : CtxId) (v : Nat) : (s.setCtxState c v).exps = s.exps := rfl
@[simp] theorem State.setCtxState_mntSkip (s : State) (c : CtxId) (v : Nat) : (s.setCtxState c v).mntSkip = s.mntSkip := rfl
@[simp] theorem State.setCtxState_txns (s : State) (c : CtxId) (v : Nat) : (s.setCtxState c v).txns = s.txns := rfl
@[simp] theorem State.setCtxState_pendTx (s : State) (c : CtxId) (v : Nat) : (s.setCtxState c v).pendTx = s.pendTx := rfl
@[simp] theorem State.setCtxState_passed (s : State) (c : CtxId) (v : Nat) : (s.setCtxState c v).passed = s.passed := rfl
@[simp] theorem State.setCtxState_mon (s : State) (c : CtxId) (v : Nat) : (s.setCtxState c v).mon = s.mon := rfl
@[simp] theorem State.setCtxState_links (s : State) (c : CtxId) (v : Nat) : (s.setCtxState c v).links = s.links := rfl
@[simp] theorem State.setCtxState_msix (s : State) (c : CtxId) (v : Nat) : (s.setCtxState c v).msix = s.msix := rfl
@[simp] theorem State.setCtxState_mctp (s : State) (c : CtxId) (v : Nat) : (s.setCtxState c v).mctp = s.mctp := rfl
@[simp] theorem State.setCtxState_out (s : State) (c : CtxId) (v : Nat) : (s.setCtxState c v).out = s.out := rfl
@[simp] theorem State.setCtxState_free (s : State) (c : CtxId) (v : Nat) : (s.setCtxState c v).free = s.free := rfl
@[simp] theorem State.setCtxState_stamp (s : State) (c : CtxId) (v : Nat) : (s.setCtxState c v).stamp = s.stamp := rfl
@[simp] theorem State.setCtxState_pending (s : State) (c : CtxId) (v : Nat) : (s.setCtxState c v).pending = s.pending := rfl
@[simp] theorem State.setCtxState_recov (s : State) (c : CtxId) (v : Nat) : (s.setCtxState c v).recov = s.recov := rfl
@[simp] theorem State.setCtxState_diagRd (s : State) (c : CtxId) (v : Nat) : (s.setCtxState c v).diagRd = s.diagRd := rfl
@[simp] theorem State.setCtxState_leakT (s : State) (c : CtxId) (v : Nat) : (s.setCtxState c v).leakT = s.leakT := rfl
@[simp] theorem State.setCtxState_zqT (s : State) (c : CtxId) (v : Nat) : (s.setCtxState c v).zqT = s.zqT := rfl
@[simp] theorem State.setCtxState_trainT (s : State) (c : CtxId) (v : Nat) : (s.setCtxState c v).trainT = s.trainT := rfl
@[simp] theorem State.setCtxState_forced (s : State) (c : CtxId) (v : Nat) : (s.setCtxState c v).forced = s.forced := rfl
@[simp] theorem State.setCtxState_ends (s : State) (c : CtxId) (v : Nat) : (s.setCtxState c v).ends = s.ends := rfl
@[simp] theorem State.setCtxState_zeroing (s : State) (c : CtxId) (v : Nat) : (s.setCtxState c v).zeroing = s.zeroing := rfl
@[simp] theorem State.setCtxState_clean (s : State) (c : CtxId) (v : Nat) : (s.setCtxState c v).clean = s.clean := rfl
@[simp] theorem State.setCtxState_fabLast (s : State) (c : CtxId) (v : Nat) : (s.setCtxState c v).fabLast = s.fabLast := rfl
@[simp] theorem State.setCtxState_lag (s : State) (c : CtxId) (v : Nat) : (s.setCtxState c v).lag = s.lag := rfl
@[simp] theorem State.setCtxState_seqs (s : State) (c : CtxId) (v : Nat) : (s.setCtxState c v).seqs = s.seqs := rfl
@[simp] theorem State.setCtxState_heads (s : State) (c : CtxId) (v : Nat) : (s.setCtxState c v).heads = s.heads := rfl
@[simp] theorem State.setCtxState_fe (s : State) (c : CtxId) (v : Nat) : (s.setCtxState c v).fe = s.fe := rfl
@[simp] theorem State.setCtxState_tbl (s : State) (c : CtxId) (v : Nat) : (s.setCtxState c v).tbl = s.tbl := rfl
@[simp] theorem State.setCtxState_msgs (s : State) (c : CtxId) (v : Nat) : (s.setCtxState c v).msgs = s.msgs := rfl
@[simp] theorem State.setCtxState_mbox (s : State) (c : CtxId) (v : Nat) : (s.setCtxState c v).mbox = s.mbox := rfl
@[simp] theorem State.setCtxState_presets (s : State) (c : CtxId) (v : Nat) : (s.setCtxState c v).presets = s.presets := rfl
@[simp] theorem State.setCtxState_shareT (s : State) (c : CtxId) (v : Nat) : (s.setCtxState c v).shareT = s.shareT := rfl
@[simp] theorem State.setCtxState_seq (s : State) (c : CtxId) (v : Nat) : (s.setCtxState c v).seq = s.seq := rfl
@[simp] theorem State.setCtxState_pauseT (s : State) (c : CtxId) (v : Nat) : (s.setCtxState c v).pauseT = s.pauseT := rfl
@[simp] theorem State.setCtxState_otp (s : State) (c : CtxId) (v : Nat) : (s.setCtxState c v).otp = s.otp := rfl
@[simp] theorem State.setCtxState_boot (s : State) (c : CtxId) (v : Nat) : (s.setCtxState c v).boot = s.boot := rfl
@[simp] theorem State.setCtxState_pwr (s : State) (c : CtxId) (v : Nat) : (s.setCtxState c v).pwr = s.pwr := rfl
@[simp] theorem State.setCtxState_mesh (s : State) (c : CtxId) (v : Nat) : (s.setCtxState c v).mesh = s.mesh := rfl
@[simp] theorem State.setCtxState_served (s : State) (c : CtxId) (v : Nat) : (s.setCtxState c v).served = s.served := rfl
@[simp] theorem State.setCtxState_l2 (s : State) (c : CtxId) (v : Nat) : (s.setCtxState c v).l2 = s.l2 := rfl

/-! ### putS -/

@[simp] theorem State.putS_csr (s : State) (c : CtxId) (i : Fin 32) (v : W64) : (s.putS c i v).csr = s.csr := rfl
@[simp] theorem State.putS_acq (s : State) (c : CtxId) (i : Fin 32) (v : W64) : (s.putS c i v).acq = s.acq := rfl
@[simp] theorem State.putS_proc (s : State) (c : CtxId) (i : Fin 32) (v : W64) : (s.putS c i v).proc = s.proc := rfl
@[simp] theorem State.putS_ethIn (s : State) (c : CtxId) (i : Fin 32) (v : W64) : (s.putS c i v).ethIn = s.ethIn := rfl
@[simp] theorem State.putS_latches (s : State) (c : CtxId) (i : Fin 32) (v : W64) : (s.putS c i v).latches = s.latches := rfl
@[simp] theorem State.putS_halves (s : State) (c : CtxId) (i : Fin 32) (v : W64) : (s.putS c i v).halves = s.halves := rfl
@[simp] theorem State.putS_mem (s : State) (c : CtxId) (i : Fin 32) (v : W64) : (s.putS c i v).mem = s.mem := rfl
@[simp] theorem State.putS_haze (s : State) (c : CtxId) (i : Fin 32) (v : W64) : (s.putS c i v).haze = s.haze := rfl
@[simp] theorem State.putS_poison (s : State) (c : CtxId) (i : Fin 32) (v : W64) : (s.putS c i v).poison = s.poison := rfl
@[simp] theorem State.putS_flips (s : State) (c : CtxId) (i : Fin 32) (v : W64) : (s.putS c i v).flips = s.flips := rfl
@[simp] theorem State.putS_parity (s : State) (c : CtxId) (i : Fin 32) (v : W64) : (s.putS c i v).parity = s.parity := rfl
@[simp] theorem State.putS_sram (s : State) (c : CtxId) (i : Fin 32) (v : W64) : (s.putS c i v).sram = s.sram := rfl
@[simp] theorem State.putS_sramBad (s : State) (c : CtxId) (i : Fin 32) (v : W64) : (s.putS c i v).sramBad = s.sramBad := rfl
@[simp] theorem State.putS_valid (s : State) (c : CtxId) (i : Fin 32) (v : W64) : (s.putS c i v).valid = s.valid := rfl
@[simp] theorem State.putS_written (s : State) (c : CtxId) (i : Fin 32) (v : W64) : (s.putS c i v).written = s.written := rfl
@[simp] theorem State.putS_chanBuf (s : State) (c : CtxId) (i : Fin 32) (v : W64) : (s.putS c i v).chanBuf = s.chanBuf := rfl
@[simp] theorem State.putS_bankBuf (s : State) (c : CtxId) (i : Fin 32) (v : W64) : (s.putS c i v).bankBuf = s.bankBuf := rfl
@[simp] theorem State.putS_pulses (s : State) (c : CtxId) (i : Fin 32) (v : W64) : (s.putS c i v).pulses = s.pulses := rfl
@[simp] theorem State.putS_capts (s : State) (c : CtxId) (i : Fin 32) (v : W64) : (s.putS c i v).capts = s.capts := rfl
@[simp] theorem State.putS_imu (s : State) (c : CtxId) (i : Fin 32) (v : W64) : (s.putS c i v).imu = s.imu := rfl
@[simp] theorem State.putS_asleep (s : State) (c : CtxId) (i : Fin 32) (v : W64) : (s.putS c i v).asleep = s.asleep := rfl
@[simp] theorem State.putS_txAt (s : State) (c : CtxId) (i : Fin 32) (v : W64) : (s.putS c i v).txAt = s.txAt := rfl
@[simp] theorem State.putS_mdioRd (s : State) (c : CtxId) (i : Fin 32) (v : W64) : (s.putS c i v).mdioRd = s.mdioRd := rfl
@[simp] theorem State.putS_inbox (s : State) (c : CtxId) (i : Fin 32) (v : W64) : (s.putS c i v).inbox = s.inbox := rfl
@[simp] theorem State.putS_clk (s : State) (c : CtxId) (i : Fin 32) (v : W64) : (s.putS c i v).clk = s.clk := rfl
@[simp] theorem State.putS_cores (s : State) (c : CtxId) (i : Fin 32) (v : W64) : (s.putS c i v).cores = s.cores := rfl
@[simp] theorem State.putS_flights (s : State) (c : CtxId) (i : Fin 32) (v : W64) : (s.putS c i v).flights = s.flights := rfl
@[simp] theorem State.putS_fabric (s : State) (c : CtxId) (i : Fin 32) (v : W64) : (s.putS c i v).fabric = s.fabric := rfl
@[simp] theorem State.putS_sliceT (s : State) (c : CtxId) (i : Fin 32) (v : W64) : (s.putS c i v).sliceT = s.sliceT := rfl
@[simp] theorem State.putS_slice (s : State) (c : CtxId) (i : Fin 32) (v : W64) : (s.putS c i v).slice = s.slice := rfl
@[simp] theorem State.putS_exps (s : State) (c : CtxId) (i : Fin 32) (v : W64) : (s.putS c i v).exps = s.exps := rfl
@[simp] theorem State.putS_mntSkip (s : State) (c : CtxId) (i : Fin 32) (v : W64) : (s.putS c i v).mntSkip = s.mntSkip := rfl
@[simp] theorem State.putS_txns (s : State) (c : CtxId) (i : Fin 32) (v : W64) : (s.putS c i v).txns = s.txns := rfl
@[simp] theorem State.putS_pendTx (s : State) (c : CtxId) (i : Fin 32) (v : W64) : (s.putS c i v).pendTx = s.pendTx := rfl
@[simp] theorem State.putS_passed (s : State) (c : CtxId) (i : Fin 32) (v : W64) : (s.putS c i v).passed = s.passed := rfl
@[simp] theorem State.putS_mon (s : State) (c : CtxId) (i : Fin 32) (v : W64) : (s.putS c i v).mon = s.mon := rfl
@[simp] theorem State.putS_links (s : State) (c : CtxId) (i : Fin 32) (v : W64) : (s.putS c i v).links = s.links := rfl
@[simp] theorem State.putS_msix (s : State) (c : CtxId) (i : Fin 32) (v : W64) : (s.putS c i v).msix = s.msix := rfl
@[simp] theorem State.putS_mctp (s : State) (c : CtxId) (i : Fin 32) (v : W64) : (s.putS c i v).mctp = s.mctp := rfl
@[simp] theorem State.putS_out (s : State) (c : CtxId) (i : Fin 32) (v : W64) : (s.putS c i v).out = s.out := rfl
@[simp] theorem State.putS_free (s : State) (c : CtxId) (i : Fin 32) (v : W64) : (s.putS c i v).free = s.free := rfl
@[simp] theorem State.putS_stamp (s : State) (c : CtxId) (i : Fin 32) (v : W64) : (s.putS c i v).stamp = s.stamp := rfl
@[simp] theorem State.putS_pending (s : State) (c : CtxId) (i : Fin 32) (v : W64) : (s.putS c i v).pending = s.pending := rfl
@[simp] theorem State.putS_recov (s : State) (c : CtxId) (i : Fin 32) (v : W64) : (s.putS c i v).recov = s.recov := rfl
@[simp] theorem State.putS_diagRd (s : State) (c : CtxId) (i : Fin 32) (v : W64) : (s.putS c i v).diagRd = s.diagRd := rfl
@[simp] theorem State.putS_leakT (s : State) (c : CtxId) (i : Fin 32) (v : W64) : (s.putS c i v).leakT = s.leakT := rfl
@[simp] theorem State.putS_zqT (s : State) (c : CtxId) (i : Fin 32) (v : W64) : (s.putS c i v).zqT = s.zqT := rfl
@[simp] theorem State.putS_trainT (s : State) (c : CtxId) (i : Fin 32) (v : W64) : (s.putS c i v).trainT = s.trainT := rfl
@[simp] theorem State.putS_forced (s : State) (c : CtxId) (i : Fin 32) (v : W64) : (s.putS c i v).forced = s.forced := rfl
@[simp] theorem State.putS_ends (s : State) (c : CtxId) (i : Fin 32) (v : W64) : (s.putS c i v).ends = s.ends := rfl
@[simp] theorem State.putS_zeroing (s : State) (c : CtxId) (i : Fin 32) (v : W64) : (s.putS c i v).zeroing = s.zeroing := rfl
@[simp] theorem State.putS_clean (s : State) (c : CtxId) (i : Fin 32) (v : W64) : (s.putS c i v).clean = s.clean := rfl
@[simp] theorem State.putS_fabLast (s : State) (c : CtxId) (i : Fin 32) (v : W64) : (s.putS c i v).fabLast = s.fabLast := rfl
@[simp] theorem State.putS_lag (s : State) (c : CtxId) (i : Fin 32) (v : W64) : (s.putS c i v).lag = s.lag := rfl
@[simp] theorem State.putS_seqs (s : State) (c : CtxId) (i : Fin 32) (v : W64) : (s.putS c i v).seqs = s.seqs := rfl
@[simp] theorem State.putS_heads (s : State) (c : CtxId) (i : Fin 32) (v : W64) : (s.putS c i v).heads = s.heads := rfl
@[simp] theorem State.putS_fe (s : State) (c : CtxId) (i : Fin 32) (v : W64) : (s.putS c i v).fe = s.fe := rfl
@[simp] theorem State.putS_tbl (s : State) (c : CtxId) (i : Fin 32) (v : W64) : (s.putS c i v).tbl = s.tbl := rfl
@[simp] theorem State.putS_msgs (s : State) (c : CtxId) (i : Fin 32) (v : W64) : (s.putS c i v).msgs = s.msgs := rfl
@[simp] theorem State.putS_mbox (s : State) (c : CtxId) (i : Fin 32) (v : W64) : (s.putS c i v).mbox = s.mbox := rfl
@[simp] theorem State.putS_presets (s : State) (c : CtxId) (i : Fin 32) (v : W64) : (s.putS c i v).presets = s.presets := rfl
@[simp] theorem State.putS_shareT (s : State) (c : CtxId) (i : Fin 32) (v : W64) : (s.putS c i v).shareT = s.shareT := rfl
@[simp] theorem State.putS_seq (s : State) (c : CtxId) (i : Fin 32) (v : W64) : (s.putS c i v).seq = s.seq := rfl
@[simp] theorem State.putS_pauseT (s : State) (c : CtxId) (i : Fin 32) (v : W64) : (s.putS c i v).pauseT = s.pauseT := rfl
@[simp] theorem State.putS_otp (s : State) (c : CtxId) (i : Fin 32) (v : W64) : (s.putS c i v).otp = s.otp := rfl
@[simp] theorem State.putS_boot (s : State) (c : CtxId) (i : Fin 32) (v : W64) : (s.putS c i v).boot = s.boot := rfl
@[simp] theorem State.putS_pwr (s : State) (c : CtxId) (i : Fin 32) (v : W64) : (s.putS c i v).pwr = s.pwr := rfl
@[simp] theorem State.putS_mesh (s : State) (c : CtxId) (i : Fin 32) (v : W64) : (s.putS c i v).mesh = s.mesh := rfl
@[simp] theorem State.putS_served (s : State) (c : CtxId) (i : Fin 32) (v : W64) : (s.putS c i v).served = s.served := rfl
@[simp] theorem State.putS_l2 (s : State) (c : CtxId) (i : Fin 32) (v : W64) : (s.putS c i v).l2 = s.l2 := rfl

/-! ### nextPc -/

@[simp] theorem State.nextPc_csr (s : State) (c : CtxId) (n : Nat) : (s.nextPc c n).csr = s.csr := rfl
@[simp] theorem State.nextPc_acq (s : State) (c : CtxId) (n : Nat) : (s.nextPc c n).acq = s.acq := rfl
@[simp] theorem State.nextPc_proc (s : State) (c : CtxId) (n : Nat) : (s.nextPc c n).proc = s.proc := rfl
@[simp] theorem State.nextPc_ethIn (s : State) (c : CtxId) (n : Nat) : (s.nextPc c n).ethIn = s.ethIn := rfl
@[simp] theorem State.nextPc_latches (s : State) (c : CtxId) (n : Nat) : (s.nextPc c n).latches = s.latches := rfl
@[simp] theorem State.nextPc_halves (s : State) (c : CtxId) (n : Nat) : (s.nextPc c n).halves = s.halves := rfl
@[simp] theorem State.nextPc_mem (s : State) (c : CtxId) (n : Nat) : (s.nextPc c n).mem = s.mem := rfl
@[simp] theorem State.nextPc_haze (s : State) (c : CtxId) (n : Nat) : (s.nextPc c n).haze = s.haze := rfl
@[simp] theorem State.nextPc_poison (s : State) (c : CtxId) (n : Nat) : (s.nextPc c n).poison = s.poison := rfl
@[simp] theorem State.nextPc_flips (s : State) (c : CtxId) (n : Nat) : (s.nextPc c n).flips = s.flips := rfl
@[simp] theorem State.nextPc_parity (s : State) (c : CtxId) (n : Nat) : (s.nextPc c n).parity = s.parity := rfl
@[simp] theorem State.nextPc_sram (s : State) (c : CtxId) (n : Nat) : (s.nextPc c n).sram = s.sram := rfl
@[simp] theorem State.nextPc_sramBad (s : State) (c : CtxId) (n : Nat) : (s.nextPc c n).sramBad = s.sramBad := rfl
@[simp] theorem State.nextPc_valid (s : State) (c : CtxId) (n : Nat) : (s.nextPc c n).valid = s.valid := rfl
@[simp] theorem State.nextPc_written (s : State) (c : CtxId) (n : Nat) : (s.nextPc c n).written = s.written := rfl
@[simp] theorem State.nextPc_chanBuf (s : State) (c : CtxId) (n : Nat) : (s.nextPc c n).chanBuf = s.chanBuf := rfl
@[simp] theorem State.nextPc_bankBuf (s : State) (c : CtxId) (n : Nat) : (s.nextPc c n).bankBuf = s.bankBuf := rfl
@[simp] theorem State.nextPc_pulses (s : State) (c : CtxId) (n : Nat) : (s.nextPc c n).pulses = s.pulses := rfl
@[simp] theorem State.nextPc_capts (s : State) (c : CtxId) (n : Nat) : (s.nextPc c n).capts = s.capts := rfl
@[simp] theorem State.nextPc_imu (s : State) (c : CtxId) (n : Nat) : (s.nextPc c n).imu = s.imu := rfl
@[simp] theorem State.nextPc_asleep (s : State) (c : CtxId) (n : Nat) : (s.nextPc c n).asleep = s.asleep := rfl
@[simp] theorem State.nextPc_txAt (s : State) (c : CtxId) (n : Nat) : (s.nextPc c n).txAt = s.txAt := rfl
@[simp] theorem State.nextPc_mdioRd (s : State) (c : CtxId) (n : Nat) : (s.nextPc c n).mdioRd = s.mdioRd := rfl
@[simp] theorem State.nextPc_inbox (s : State) (c : CtxId) (n : Nat) : (s.nextPc c n).inbox = s.inbox := rfl
@[simp] theorem State.nextPc_clk (s : State) (c : CtxId) (n : Nat) : (s.nextPc c n).clk = s.clk := rfl
@[simp] theorem State.nextPc_cores (s : State) (c : CtxId) (n : Nat) : (s.nextPc c n).cores = s.cores := rfl
@[simp] theorem State.nextPc_flights (s : State) (c : CtxId) (n : Nat) : (s.nextPc c n).flights = s.flights := rfl
@[simp] theorem State.nextPc_fabric (s : State) (c : CtxId) (n : Nat) : (s.nextPc c n).fabric = s.fabric := rfl
@[simp] theorem State.nextPc_sliceT (s : State) (c : CtxId) (n : Nat) : (s.nextPc c n).sliceT = s.sliceT := rfl
@[simp] theorem State.nextPc_slice (s : State) (c : CtxId) (n : Nat) : (s.nextPc c n).slice = s.slice := rfl
@[simp] theorem State.nextPc_exps (s : State) (c : CtxId) (n : Nat) : (s.nextPc c n).exps = s.exps := rfl
@[simp] theorem State.nextPc_mntSkip (s : State) (c : CtxId) (n : Nat) : (s.nextPc c n).mntSkip = s.mntSkip := rfl
@[simp] theorem State.nextPc_txns (s : State) (c : CtxId) (n : Nat) : (s.nextPc c n).txns = s.txns := rfl
@[simp] theorem State.nextPc_pendTx (s : State) (c : CtxId) (n : Nat) : (s.nextPc c n).pendTx = s.pendTx := rfl
@[simp] theorem State.nextPc_passed (s : State) (c : CtxId) (n : Nat) : (s.nextPc c n).passed = s.passed := rfl
@[simp] theorem State.nextPc_mon (s : State) (c : CtxId) (n : Nat) : (s.nextPc c n).mon = s.mon := rfl
@[simp] theorem State.nextPc_links (s : State) (c : CtxId) (n : Nat) : (s.nextPc c n).links = s.links := rfl
@[simp] theorem State.nextPc_msix (s : State) (c : CtxId) (n : Nat) : (s.nextPc c n).msix = s.msix := rfl
@[simp] theorem State.nextPc_mctp (s : State) (c : CtxId) (n : Nat) : (s.nextPc c n).mctp = s.mctp := rfl
@[simp] theorem State.nextPc_out (s : State) (c : CtxId) (n : Nat) : (s.nextPc c n).out = s.out := rfl
@[simp] theorem State.nextPc_free (s : State) (c : CtxId) (n : Nat) : (s.nextPc c n).free = s.free := rfl
@[simp] theorem State.nextPc_stamp (s : State) (c : CtxId) (n : Nat) : (s.nextPc c n).stamp = s.stamp := rfl
@[simp] theorem State.nextPc_pending (s : State) (c : CtxId) (n : Nat) : (s.nextPc c n).pending = s.pending := rfl
@[simp] theorem State.nextPc_recov (s : State) (c : CtxId) (n : Nat) : (s.nextPc c n).recov = s.recov := rfl
@[simp] theorem State.nextPc_diagRd (s : State) (c : CtxId) (n : Nat) : (s.nextPc c n).diagRd = s.diagRd := rfl
@[simp] theorem State.nextPc_leakT (s : State) (c : CtxId) (n : Nat) : (s.nextPc c n).leakT = s.leakT := rfl
@[simp] theorem State.nextPc_zqT (s : State) (c : CtxId) (n : Nat) : (s.nextPc c n).zqT = s.zqT := rfl
@[simp] theorem State.nextPc_trainT (s : State) (c : CtxId) (n : Nat) : (s.nextPc c n).trainT = s.trainT := rfl
@[simp] theorem State.nextPc_forced (s : State) (c : CtxId) (n : Nat) : (s.nextPc c n).forced = s.forced := rfl
@[simp] theorem State.nextPc_ends (s : State) (c : CtxId) (n : Nat) : (s.nextPc c n).ends = s.ends := rfl
@[simp] theorem State.nextPc_zeroing (s : State) (c : CtxId) (n : Nat) : (s.nextPc c n).zeroing = s.zeroing := rfl
@[simp] theorem State.nextPc_clean (s : State) (c : CtxId) (n : Nat) : (s.nextPc c n).clean = s.clean := rfl
@[simp] theorem State.nextPc_fabLast (s : State) (c : CtxId) (n : Nat) : (s.nextPc c n).fabLast = s.fabLast := rfl
@[simp] theorem State.nextPc_lag (s : State) (c : CtxId) (n : Nat) : (s.nextPc c n).lag = s.lag := rfl
@[simp] theorem State.nextPc_seqs (s : State) (c : CtxId) (n : Nat) : (s.nextPc c n).seqs = s.seqs := rfl
@[simp] theorem State.nextPc_heads (s : State) (c : CtxId) (n : Nat) : (s.nextPc c n).heads = s.heads := rfl
@[simp] theorem State.nextPc_fe (s : State) (c : CtxId) (n : Nat) : (s.nextPc c n).fe = s.fe := rfl
@[simp] theorem State.nextPc_tbl (s : State) (c : CtxId) (n : Nat) : (s.nextPc c n).tbl = s.tbl := rfl
@[simp] theorem State.nextPc_msgs (s : State) (c : CtxId) (n : Nat) : (s.nextPc c n).msgs = s.msgs := rfl
@[simp] theorem State.nextPc_mbox (s : State) (c : CtxId) (n : Nat) : (s.nextPc c n).mbox = s.mbox := rfl
@[simp] theorem State.nextPc_presets (s : State) (c : CtxId) (n : Nat) : (s.nextPc c n).presets = s.presets := rfl
@[simp] theorem State.nextPc_shareT (s : State) (c : CtxId) (n : Nat) : (s.nextPc c n).shareT = s.shareT := rfl
@[simp] theorem State.nextPc_seq (s : State) (c : CtxId) (n : Nat) : (s.nextPc c n).seq = s.seq := rfl
@[simp] theorem State.nextPc_pauseT (s : State) (c : CtxId) (n : Nat) : (s.nextPc c n).pauseT = s.pauseT := rfl
@[simp] theorem State.nextPc_otp (s : State) (c : CtxId) (n : Nat) : (s.nextPc c n).otp = s.otp := rfl
@[simp] theorem State.nextPc_boot (s : State) (c : CtxId) (n : Nat) : (s.nextPc c n).boot = s.boot := rfl
@[simp] theorem State.nextPc_pwr (s : State) (c : CtxId) (n : Nat) : (s.nextPc c n).pwr = s.pwr := rfl
@[simp] theorem State.nextPc_mesh (s : State) (c : CtxId) (n : Nat) : (s.nextPc c n).mesh = s.mesh := rfl
@[simp] theorem State.nextPc_served (s : State) (c : CtxId) (n : Nat) : (s.nextPc c n).served = s.served := rfl
@[simp] theorem State.nextPc_l2 (s : State) (c : CtxId) (n : Nat) : (s.nextPc c n).l2 = s.l2 := rfl

/-! ### pass -/

@[simp] theorem State.pass_csr (s : State) (c : CtxId) (k : Nat) : (s.pass c k).csr = s.csr := rfl
@[simp] theorem State.pass_acq (s : State) (c : CtxId) (k : Nat) : (s.pass c k).acq = s.acq := rfl
@[simp] theorem State.pass_proc (s : State) (c : CtxId) (k : Nat) : (s.pass c k).proc = s.proc := rfl
@[simp] theorem State.pass_ethIn (s : State) (c : CtxId) (k : Nat) : (s.pass c k).ethIn = s.ethIn := rfl
@[simp] theorem State.pass_latches (s : State) (c : CtxId) (k : Nat) : (s.pass c k).latches = s.latches := rfl
@[simp] theorem State.pass_halves (s : State) (c : CtxId) (k : Nat) : (s.pass c k).halves = s.halves := rfl
@[simp] theorem State.pass_mem (s : State) (c : CtxId) (k : Nat) : (s.pass c k).mem = s.mem := rfl
@[simp] theorem State.pass_haze (s : State) (c : CtxId) (k : Nat) : (s.pass c k).haze = s.haze := rfl
@[simp] theorem State.pass_poison (s : State) (c : CtxId) (k : Nat) : (s.pass c k).poison = s.poison := rfl
@[simp] theorem State.pass_flips (s : State) (c : CtxId) (k : Nat) : (s.pass c k).flips = s.flips := rfl
@[simp] theorem State.pass_parity (s : State) (c : CtxId) (k : Nat) : (s.pass c k).parity = s.parity := rfl
@[simp] theorem State.pass_sram (s : State) (c : CtxId) (k : Nat) : (s.pass c k).sram = s.sram := rfl
@[simp] theorem State.pass_sramBad (s : State) (c : CtxId) (k : Nat) : (s.pass c k).sramBad = s.sramBad := rfl
@[simp] theorem State.pass_valid (s : State) (c : CtxId) (k : Nat) : (s.pass c k).valid = s.valid := rfl
@[simp] theorem State.pass_written (s : State) (c : CtxId) (k : Nat) : (s.pass c k).written = s.written := rfl
@[simp] theorem State.pass_chanBuf (s : State) (c : CtxId) (k : Nat) : (s.pass c k).chanBuf = s.chanBuf := rfl
@[simp] theorem State.pass_bankBuf (s : State) (c : CtxId) (k : Nat) : (s.pass c k).bankBuf = s.bankBuf := rfl
@[simp] theorem State.pass_pulses (s : State) (c : CtxId) (k : Nat) : (s.pass c k).pulses = s.pulses := rfl
@[simp] theorem State.pass_capts (s : State) (c : CtxId) (k : Nat) : (s.pass c k).capts = s.capts := rfl
@[simp] theorem State.pass_imu (s : State) (c : CtxId) (k : Nat) : (s.pass c k).imu = s.imu := rfl
@[simp] theorem State.pass_asleep (s : State) (c : CtxId) (k : Nat) : (s.pass c k).asleep = s.asleep := rfl
@[simp] theorem State.pass_txAt (s : State) (c : CtxId) (k : Nat) : (s.pass c k).txAt = s.txAt := rfl
@[simp] theorem State.pass_mdioRd (s : State) (c : CtxId) (k : Nat) : (s.pass c k).mdioRd = s.mdioRd := rfl
@[simp] theorem State.pass_inbox (s : State) (c : CtxId) (k : Nat) : (s.pass c k).inbox = s.inbox := rfl
@[simp] theorem State.pass_clk (s : State) (c : CtxId) (k : Nat) : (s.pass c k).clk = s.clk := rfl
@[simp] theorem State.pass_cores (s : State) (c : CtxId) (k : Nat) : (s.pass c k).cores = s.cores := rfl
@[simp] theorem State.pass_flights (s : State) (c : CtxId) (k : Nat) : (s.pass c k).flights = s.flights := rfl
@[simp] theorem State.pass_fabric (s : State) (c : CtxId) (k : Nat) : (s.pass c k).fabric = s.fabric := rfl
@[simp] theorem State.pass_sliceT (s : State) (c : CtxId) (k : Nat) : (s.pass c k).sliceT = s.sliceT := rfl
@[simp] theorem State.pass_slice (s : State) (c : CtxId) (k : Nat) : (s.pass c k).slice = s.slice := rfl
@[simp] theorem State.pass_exps (s : State) (c : CtxId) (k : Nat) : (s.pass c k).exps = s.exps := rfl
@[simp] theorem State.pass_mntSkip (s : State) (c : CtxId) (k : Nat) : (s.pass c k).mntSkip = s.mntSkip := rfl
@[simp] theorem State.pass_txns (s : State) (c : CtxId) (k : Nat) : (s.pass c k).txns = s.txns := rfl
@[simp] theorem State.pass_pendTx (s : State) (c : CtxId) (k : Nat) : (s.pass c k).pendTx = s.pendTx := rfl
@[simp] theorem State.pass_passed (s : State) (c : CtxId) (k : Nat) : (s.pass c k).passed = s.passed := rfl
@[simp] theorem State.pass_mon (s : State) (c : CtxId) (k : Nat) : (s.pass c k).mon = s.mon := rfl
@[simp] theorem State.pass_links (s : State) (c : CtxId) (k : Nat) : (s.pass c k).links = s.links := rfl
@[simp] theorem State.pass_msix (s : State) (c : CtxId) (k : Nat) : (s.pass c k).msix = s.msix := rfl
@[simp] theorem State.pass_mctp (s : State) (c : CtxId) (k : Nat) : (s.pass c k).mctp = s.mctp := rfl
@[simp] theorem State.pass_out (s : State) (c : CtxId) (k : Nat) : (s.pass c k).out = s.out := rfl
@[simp] theorem State.pass_free (s : State) (c : CtxId) (k : Nat) : (s.pass c k).free = s.free := rfl
@[simp] theorem State.pass_stamp (s : State) (c : CtxId) (k : Nat) : (s.pass c k).stamp = s.stamp := rfl
@[simp] theorem State.pass_pending (s : State) (c : CtxId) (k : Nat) : (s.pass c k).pending = s.pending := rfl
@[simp] theorem State.pass_recov (s : State) (c : CtxId) (k : Nat) : (s.pass c k).recov = s.recov := rfl
@[simp] theorem State.pass_diagRd (s : State) (c : CtxId) (k : Nat) : (s.pass c k).diagRd = s.diagRd := rfl
@[simp] theorem State.pass_leakT (s : State) (c : CtxId) (k : Nat) : (s.pass c k).leakT = s.leakT := rfl
@[simp] theorem State.pass_zqT (s : State) (c : CtxId) (k : Nat) : (s.pass c k).zqT = s.zqT := rfl
@[simp] theorem State.pass_trainT (s : State) (c : CtxId) (k : Nat) : (s.pass c k).trainT = s.trainT := rfl
@[simp] theorem State.pass_forced (s : State) (c : CtxId) (k : Nat) : (s.pass c k).forced = s.forced := rfl
@[simp] theorem State.pass_ends (s : State) (c : CtxId) (k : Nat) : (s.pass c k).ends = s.ends := rfl
@[simp] theorem State.pass_zeroing (s : State) (c : CtxId) (k : Nat) : (s.pass c k).zeroing = s.zeroing := rfl
@[simp] theorem State.pass_clean (s : State) (c : CtxId) (k : Nat) : (s.pass c k).clean = s.clean := rfl
@[simp] theorem State.pass_fabLast (s : State) (c : CtxId) (k : Nat) : (s.pass c k).fabLast = s.fabLast := rfl
@[simp] theorem State.pass_lag (s : State) (c : CtxId) (k : Nat) : (s.pass c k).lag = s.lag := rfl
@[simp] theorem State.pass_seqs (s : State) (c : CtxId) (k : Nat) : (s.pass c k).seqs = s.seqs := rfl
@[simp] theorem State.pass_heads (s : State) (c : CtxId) (k : Nat) : (s.pass c k).heads = s.heads := rfl
@[simp] theorem State.pass_fe (s : State) (c : CtxId) (k : Nat) : (s.pass c k).fe = s.fe := rfl
@[simp] theorem State.pass_tbl (s : State) (c : CtxId) (k : Nat) : (s.pass c k).tbl = s.tbl := rfl
@[simp] theorem State.pass_msgs (s : State) (c : CtxId) (k : Nat) : (s.pass c k).msgs = s.msgs := rfl
@[simp] theorem State.pass_mbox (s : State) (c : CtxId) (k : Nat) : (s.pass c k).mbox = s.mbox := rfl
@[simp] theorem State.pass_presets (s : State) (c : CtxId) (k : Nat) : (s.pass c k).presets = s.presets := rfl
@[simp] theorem State.pass_shareT (s : State) (c : CtxId) (k : Nat) : (s.pass c k).shareT = s.shareT := rfl
@[simp] theorem State.pass_seq (s : State) (c : CtxId) (k : Nat) : (s.pass c k).seq = s.seq := rfl
@[simp] theorem State.pass_pauseT (s : State) (c : CtxId) (k : Nat) : (s.pass c k).pauseT = s.pauseT := rfl
@[simp] theorem State.pass_otp (s : State) (c : CtxId) (k : Nat) : (s.pass c k).otp = s.otp := rfl
@[simp] theorem State.pass_boot (s : State) (c : CtxId) (k : Nat) : (s.pass c k).boot = s.boot := rfl
@[simp] theorem State.pass_pwr (s : State) (c : CtxId) (k : Nat) : (s.pass c k).pwr = s.pwr := rfl
@[simp] theorem State.pass_mesh (s : State) (c : CtxId) (k : Nat) : (s.pass c k).mesh = s.mesh := rfl
@[simp] theorem State.pass_served (s : State) (c : CtxId) (k : Nat) : (s.pass c k).served = s.served := rfl
@[simp] theorem State.pass_l2 (s : State) (c : CtxId) (k : Nat) : (s.pass c k).l2 = s.l2 := rfl

/-! ### draw -/

@[simp] theorem State.draw_csr (s : State) (w : Nat) : ((s.draw w).2).csr = s.csr := rfl
@[simp] theorem State.draw_acq (s : State) (w : Nat) : ((s.draw w).2).acq = s.acq := rfl
@[simp] theorem State.draw_proc (s : State) (w : Nat) : ((s.draw w).2).proc = s.proc := rfl
@[simp] theorem State.draw_ethIn (s : State) (w : Nat) : ((s.draw w).2).ethIn = s.ethIn := rfl
@[simp] theorem State.draw_latches (s : State) (w : Nat) : ((s.draw w).2).latches = s.latches := rfl
@[simp] theorem State.draw_halves (s : State) (w : Nat) : ((s.draw w).2).halves = s.halves := rfl
@[simp] theorem State.draw_mem (s : State) (w : Nat) : ((s.draw w).2).mem = s.mem := rfl
@[simp] theorem State.draw_haze (s : State) (w : Nat) : ((s.draw w).2).haze = s.haze := rfl
@[simp] theorem State.draw_poison (s : State) (w : Nat) : ((s.draw w).2).poison = s.poison := rfl
@[simp] theorem State.draw_flips (s : State) (w : Nat) : ((s.draw w).2).flips = s.flips := rfl
@[simp] theorem State.draw_parity (s : State) (w : Nat) : ((s.draw w).2).parity = s.parity := rfl
@[simp] theorem State.draw_sram (s : State) (w : Nat) : ((s.draw w).2).sram = s.sram := rfl
@[simp] theorem State.draw_sramBad (s : State) (w : Nat) : ((s.draw w).2).sramBad = s.sramBad := rfl
@[simp] theorem State.draw_valid (s : State) (w : Nat) : ((s.draw w).2).valid = s.valid := rfl
@[simp] theorem State.draw_written (s : State) (w : Nat) : ((s.draw w).2).written = s.written := rfl
@[simp] theorem State.draw_chanBuf (s : State) (w : Nat) : ((s.draw w).2).chanBuf = s.chanBuf := rfl
@[simp] theorem State.draw_bankBuf (s : State) (w : Nat) : ((s.draw w).2).bankBuf = s.bankBuf := rfl
@[simp] theorem State.draw_pulses (s : State) (w : Nat) : ((s.draw w).2).pulses = s.pulses := rfl
@[simp] theorem State.draw_capts (s : State) (w : Nat) : ((s.draw w).2).capts = s.capts := rfl
@[simp] theorem State.draw_imu (s : State) (w : Nat) : ((s.draw w).2).imu = s.imu := rfl
@[simp] theorem State.draw_asleep (s : State) (w : Nat) : ((s.draw w).2).asleep = s.asleep := rfl
@[simp] theorem State.draw_txAt (s : State) (w : Nat) : ((s.draw w).2).txAt = s.txAt := rfl
@[simp] theorem State.draw_mdioRd (s : State) (w : Nat) : ((s.draw w).2).mdioRd = s.mdioRd := rfl
@[simp] theorem State.draw_inbox (s : State) (w : Nat) : ((s.draw w).2).inbox = s.inbox := rfl
@[simp] theorem State.draw_clk (s : State) (w : Nat) : ((s.draw w).2).clk = s.clk := rfl
@[simp] theorem State.draw_ctxs (s : State) (w : Nat) : ((s.draw w).2).ctxs = s.ctxs := rfl
@[simp] theorem State.draw_cores (s : State) (w : Nat) : ((s.draw w).2).cores = s.cores := rfl
@[simp] theorem State.draw_flights (s : State) (w : Nat) : ((s.draw w).2).flights = s.flights := rfl
@[simp] theorem State.draw_fabric (s : State) (w : Nat) : ((s.draw w).2).fabric = s.fabric := rfl
@[simp] theorem State.draw_sliceT (s : State) (w : Nat) : ((s.draw w).2).sliceT = s.sliceT := rfl
@[simp] theorem State.draw_slice (s : State) (w : Nat) : ((s.draw w).2).slice = s.slice := rfl
@[simp] theorem State.draw_exps (s : State) (w : Nat) : ((s.draw w).2).exps = s.exps := rfl
@[simp] theorem State.draw_mntSkip (s : State) (w : Nat) : ((s.draw w).2).mntSkip = s.mntSkip := rfl
@[simp] theorem State.draw_txns (s : State) (w : Nat) : ((s.draw w).2).txns = s.txns := rfl
@[simp] theorem State.draw_pendTx (s : State) (w : Nat) : ((s.draw w).2).pendTx = s.pendTx := rfl
@[simp] theorem State.draw_passed (s : State) (w : Nat) : ((s.draw w).2).passed = s.passed := rfl
@[simp] theorem State.draw_mon (s : State) (w : Nat) : ((s.draw w).2).mon = s.mon := rfl
@[simp] theorem State.draw_links (s : State) (w : Nat) : ((s.draw w).2).links = s.links := rfl
@[simp] theorem State.draw_msix (s : State) (w : Nat) : ((s.draw w).2).msix = s.msix := rfl
@[simp] theorem State.draw_mctp (s : State) (w : Nat) : ((s.draw w).2).mctp = s.mctp := rfl
@[simp] theorem State.draw_out (s : State) (w : Nat) : ((s.draw w).2).out = s.out := rfl
@[simp] theorem State.draw_stamp (s : State) (w : Nat) : ((s.draw w).2).stamp = s.stamp := rfl
@[simp] theorem State.draw_pending (s : State) (w : Nat) : ((s.draw w).2).pending = s.pending := rfl
@[simp] theorem State.draw_recov (s : State) (w : Nat) : ((s.draw w).2).recov = s.recov := rfl
@[simp] theorem State.draw_diagRd (s : State) (w : Nat) : ((s.draw w).2).diagRd = s.diagRd := rfl
@[simp] theorem State.draw_leakT (s : State) (w : Nat) : ((s.draw w).2).leakT = s.leakT := rfl
@[simp] theorem State.draw_zqT (s : State) (w : Nat) : ((s.draw w).2).zqT = s.zqT := rfl
@[simp] theorem State.draw_trainT (s : State) (w : Nat) : ((s.draw w).2).trainT = s.trainT := rfl
@[simp] theorem State.draw_forced (s : State) (w : Nat) : ((s.draw w).2).forced = s.forced := rfl
@[simp] theorem State.draw_ends (s : State) (w : Nat) : ((s.draw w).2).ends = s.ends := rfl
@[simp] theorem State.draw_zeroing (s : State) (w : Nat) : ((s.draw w).2).zeroing = s.zeroing := rfl
@[simp] theorem State.draw_clean (s : State) (w : Nat) : ((s.draw w).2).clean = s.clean := rfl
@[simp] theorem State.draw_fabLast (s : State) (w : Nat) : ((s.draw w).2).fabLast = s.fabLast := rfl
@[simp] theorem State.draw_lag (s : State) (w : Nat) : ((s.draw w).2).lag = s.lag := rfl
@[simp] theorem State.draw_seqs (s : State) (w : Nat) : ((s.draw w).2).seqs = s.seqs := rfl
@[simp] theorem State.draw_heads (s : State) (w : Nat) : ((s.draw w).2).heads = s.heads := rfl
@[simp] theorem State.draw_fe (s : State) (w : Nat) : ((s.draw w).2).fe = s.fe := rfl
@[simp] theorem State.draw_tbl (s : State) (w : Nat) : ((s.draw w).2).tbl = s.tbl := rfl
@[simp] theorem State.draw_msgs (s : State) (w : Nat) : ((s.draw w).2).msgs = s.msgs := rfl
@[simp] theorem State.draw_mbox (s : State) (w : Nat) : ((s.draw w).2).mbox = s.mbox := rfl
@[simp] theorem State.draw_presets (s : State) (w : Nat) : ((s.draw w).2).presets = s.presets := rfl
@[simp] theorem State.draw_shareT (s : State) (w : Nat) : ((s.draw w).2).shareT = s.shareT := rfl
@[simp] theorem State.draw_seq (s : State) (w : Nat) : ((s.draw w).2).seq = s.seq := rfl
@[simp] theorem State.draw_pauseT (s : State) (w : Nat) : ((s.draw w).2).pauseT = s.pauseT := rfl
@[simp] theorem State.draw_otp (s : State) (w : Nat) : ((s.draw w).2).otp = s.otp := rfl
@[simp] theorem State.draw_boot (s : State) (w : Nat) : ((s.draw w).2).boot = s.boot := rfl
@[simp] theorem State.draw_pwr (s : State) (w : Nat) : ((s.draw w).2).pwr = s.pwr := rfl
@[simp] theorem State.draw_mesh (s : State) (w : Nat) : ((s.draw w).2).mesh = s.mesh := rfl
@[simp] theorem State.draw_served (s : State) (w : Nat) : ((s.draw w).2).served = s.served := rfl
@[simp] theorem State.draw_l2 (s : State) (w : Nat) : ((s.draw w).2).l2 = s.l2 := rfl

/-! ### latch -/

@[simp] theorem State.latch_csr (s : State) (a : Agent) (o v : Nat) : (s.latch a o v).csr = s.csr := rfl
@[simp] theorem State.latch_acq (s : State) (a : Agent) (o v : Nat) : (s.latch a o v).acq = s.acq := rfl
@[simp] theorem State.latch_proc (s : State) (a : Agent) (o v : Nat) : (s.latch a o v).proc = s.proc := rfl
@[simp] theorem State.latch_ethIn (s : State) (a : Agent) (o v : Nat) : (s.latch a o v).ethIn = s.ethIn := rfl
@[simp] theorem State.latch_halves (s : State) (a : Agent) (o v : Nat) : (s.latch a o v).halves = s.halves := rfl
@[simp] theorem State.latch_mem (s : State) (a : Agent) (o v : Nat) : (s.latch a o v).mem = s.mem := rfl
@[simp] theorem State.latch_haze (s : State) (a : Agent) (o v : Nat) : (s.latch a o v).haze = s.haze := rfl
@[simp] theorem State.latch_poison (s : State) (a : Agent) (o v : Nat) : (s.latch a o v).poison = s.poison := rfl
@[simp] theorem State.latch_flips (s : State) (a : Agent) (o v : Nat) : (s.latch a o v).flips = s.flips := rfl
@[simp] theorem State.latch_parity (s : State) (a : Agent) (o v : Nat) : (s.latch a o v).parity = s.parity := rfl
@[simp] theorem State.latch_sram (s : State) (a : Agent) (o v : Nat) : (s.latch a o v).sram = s.sram := rfl
@[simp] theorem State.latch_sramBad (s : State) (a : Agent) (o v : Nat) : (s.latch a o v).sramBad = s.sramBad := rfl
@[simp] theorem State.latch_valid (s : State) (a : Agent) (o v : Nat) : (s.latch a o v).valid = s.valid := rfl
@[simp] theorem State.latch_written (s : State) (a : Agent) (o v : Nat) : (s.latch a o v).written = s.written := rfl
@[simp] theorem State.latch_chanBuf (s : State) (a : Agent) (o v : Nat) : (s.latch a o v).chanBuf = s.chanBuf := rfl
@[simp] theorem State.latch_bankBuf (s : State) (a : Agent) (o v : Nat) : (s.latch a o v).bankBuf = s.bankBuf := rfl
@[simp] theorem State.latch_pulses (s : State) (a : Agent) (o v : Nat) : (s.latch a o v).pulses = s.pulses := rfl
@[simp] theorem State.latch_capts (s : State) (a : Agent) (o v : Nat) : (s.latch a o v).capts = s.capts := rfl
@[simp] theorem State.latch_imu (s : State) (a : Agent) (o v : Nat) : (s.latch a o v).imu = s.imu := rfl
@[simp] theorem State.latch_asleep (s : State) (a : Agent) (o v : Nat) : (s.latch a o v).asleep = s.asleep := rfl
@[simp] theorem State.latch_txAt (s : State) (a : Agent) (o v : Nat) : (s.latch a o v).txAt = s.txAt := rfl
@[simp] theorem State.latch_mdioRd (s : State) (a : Agent) (o v : Nat) : (s.latch a o v).mdioRd = s.mdioRd := rfl
@[simp] theorem State.latch_inbox (s : State) (a : Agent) (o v : Nat) : (s.latch a o v).inbox = s.inbox := rfl
@[simp] theorem State.latch_clk (s : State) (a : Agent) (o v : Nat) : (s.latch a o v).clk = s.clk := rfl
@[simp] theorem State.latch_ctxs (s : State) (a : Agent) (o v : Nat) : (s.latch a o v).ctxs = s.ctxs := rfl
@[simp] theorem State.latch_cores (s : State) (a : Agent) (o v : Nat) : (s.latch a o v).cores = s.cores := rfl
@[simp] theorem State.latch_flights (s : State) (a : Agent) (o v : Nat) : (s.latch a o v).flights = s.flights := rfl
@[simp] theorem State.latch_fabric (s : State) (a : Agent) (o v : Nat) : (s.latch a o v).fabric = s.fabric := rfl
@[simp] theorem State.latch_sliceT (s : State) (a : Agent) (o v : Nat) : (s.latch a o v).sliceT = s.sliceT := rfl
@[simp] theorem State.latch_slice (s : State) (a : Agent) (o v : Nat) : (s.latch a o v).slice = s.slice := rfl
@[simp] theorem State.latch_exps (s : State) (a : Agent) (o v : Nat) : (s.latch a o v).exps = s.exps := rfl
@[simp] theorem State.latch_mntSkip (s : State) (a : Agent) (o v : Nat) : (s.latch a o v).mntSkip = s.mntSkip := rfl
@[simp] theorem State.latch_txns (s : State) (a : Agent) (o v : Nat) : (s.latch a o v).txns = s.txns := rfl
@[simp] theorem State.latch_pendTx (s : State) (a : Agent) (o v : Nat) : (s.latch a o v).pendTx = s.pendTx := rfl
@[simp] theorem State.latch_passed (s : State) (a : Agent) (o v : Nat) : (s.latch a o v).passed = s.passed := rfl
@[simp] theorem State.latch_mon (s : State) (a : Agent) (o v : Nat) : (s.latch a o v).mon = s.mon := rfl
@[simp] theorem State.latch_links (s : State) (a : Agent) (o v : Nat) : (s.latch a o v).links = s.links := rfl
@[simp] theorem State.latch_msix (s : State) (a : Agent) (o v : Nat) : (s.latch a o v).msix = s.msix := rfl
@[simp] theorem State.latch_mctp (s : State) (a : Agent) (o v : Nat) : (s.latch a o v).mctp = s.mctp := rfl
@[simp] theorem State.latch_out (s : State) (a : Agent) (o v : Nat) : (s.latch a o v).out = s.out := rfl
@[simp] theorem State.latch_free (s : State) (a : Agent) (o v : Nat) : (s.latch a o v).free = s.free := rfl
@[simp] theorem State.latch_stamp (s : State) (a : Agent) (o v : Nat) : (s.latch a o v).stamp = s.stamp := rfl
@[simp] theorem State.latch_pending (s : State) (a : Agent) (o v : Nat) : (s.latch a o v).pending = s.pending := rfl
@[simp] theorem State.latch_recov (s : State) (a : Agent) (o v : Nat) : (s.latch a o v).recov = s.recov := rfl
@[simp] theorem State.latch_diagRd (s : State) (a : Agent) (o v : Nat) : (s.latch a o v).diagRd = s.diagRd := rfl
@[simp] theorem State.latch_leakT (s : State) (a : Agent) (o v : Nat) : (s.latch a o v).leakT = s.leakT := rfl
@[simp] theorem State.latch_zqT (s : State) (a : Agent) (o v : Nat) : (s.latch a o v).zqT = s.zqT := rfl
@[simp] theorem State.latch_trainT (s : State) (a : Agent) (o v : Nat) : (s.latch a o v).trainT = s.trainT := rfl
@[simp] theorem State.latch_forced (s : State) (a : Agent) (o v : Nat) : (s.latch a o v).forced = s.forced := rfl
@[simp] theorem State.latch_ends (s : State) (a : Agent) (o v : Nat) : (s.latch a o v).ends = s.ends := rfl
@[simp] theorem State.latch_zeroing (s : State) (a : Agent) (o v : Nat) : (s.latch a o v).zeroing = s.zeroing := rfl
@[simp] theorem State.latch_clean (s : State) (a : Agent) (o v : Nat) : (s.latch a o v).clean = s.clean := rfl
@[simp] theorem State.latch_fabLast (s : State) (a : Agent) (o v : Nat) : (s.latch a o v).fabLast = s.fabLast := rfl
@[simp] theorem State.latch_lag (s : State) (a : Agent) (o v : Nat) : (s.latch a o v).lag = s.lag := rfl
@[simp] theorem State.latch_seqs (s : State) (a : Agent) (o v : Nat) : (s.latch a o v).seqs = s.seqs := rfl
@[simp] theorem State.latch_heads (s : State) (a : Agent) (o v : Nat) : (s.latch a o v).heads = s.heads := rfl
@[simp] theorem State.latch_fe (s : State) (a : Agent) (o v : Nat) : (s.latch a o v).fe = s.fe := rfl
@[simp] theorem State.latch_tbl (s : State) (a : Agent) (o v : Nat) : (s.latch a o v).tbl = s.tbl := rfl
@[simp] theorem State.latch_msgs (s : State) (a : Agent) (o v : Nat) : (s.latch a o v).msgs = s.msgs := rfl
@[simp] theorem State.latch_mbox (s : State) (a : Agent) (o v : Nat) : (s.latch a o v).mbox = s.mbox := rfl
@[simp] theorem State.latch_presets (s : State) (a : Agent) (o v : Nat) : (s.latch a o v).presets = s.presets := rfl
@[simp] theorem State.latch_shareT (s : State) (a : Agent) (o v : Nat) : (s.latch a o v).shareT = s.shareT := rfl
@[simp] theorem State.latch_seq (s : State) (a : Agent) (o v : Nat) : (s.latch a o v).seq = s.seq := rfl
@[simp] theorem State.latch_pauseT (s : State) (a : Agent) (o v : Nat) : (s.latch a o v).pauseT = s.pauseT := rfl
@[simp] theorem State.latch_otp (s : State) (a : Agent) (o v : Nat) : (s.latch a o v).otp = s.otp := rfl
@[simp] theorem State.latch_boot (s : State) (a : Agent) (o v : Nat) : (s.latch a o v).boot = s.boot := rfl
@[simp] theorem State.latch_pwr (s : State) (a : Agent) (o v : Nat) : (s.latch a o v).pwr = s.pwr := rfl
@[simp] theorem State.latch_mesh (s : State) (a : Agent) (o v : Nat) : (s.latch a o v).mesh = s.mesh := rfl
@[simp] theorem State.latch_served (s : State) (a : Agent) (o v : Nat) : (s.latch a o v).served = s.served := rfl
@[simp] theorem State.latch_l2 (s : State) (a : Agent) (o v : Nat) : (s.latch a o v).l2 = s.l2 := rfl

end Sys2Proof.Machine
end

