-- ==== Sys2Proof/Laws/Csr.lean ====
section
/-! SUPPORT. Laws/Csr.lean: reading a register field after writing one. -/
namespace Sys2Proof.Machine

/-! ### Lists of keys and values -/

theorem alookup_aput_self {α : Type} (k : Nat) (v : α) (l : List (Nat × α)) : alookup k (aput k v l) = some v := by
  induction l with
  | nil => simp [aput, alookup]
  | cons e l ih =>
    unfold aput
    split
    · simp [alookup]
    · split
      · simp [alookup]
      · next h => simp [alookup, h, ih]

theorem alookup_aput_ne {α : Type} {k j : Nat} (h : k ≠ j) (v : α) (l : List (Nat × α)) :
    alookup j (aput k v l) = alookup j l := by
  induction l with
  | nil => simp [aput, alookup, h]
  | cons e l ih =>
    unfold aput
    split
    · simp [alookup, h]
    · split
      · next h1 => subst h1; simp [alookup, h]
      · simp [alookup, ih]

theorem alookup_adel_self {α : Type} (k : Nat) (l : List (Nat × α)) : alookup k (adel k l) = none := by
  induction l with
  | nil => rfl
  | cons e l ih =>
    unfold adel at *
    by_cases h : e.1 = k
    · simpa [h] using ih
    · simpa [h, alookup] using ih

theorem alookup_adel_ne {α : Type} {k j : Nat} (h : k ≠ j) (l : List (Nat × α)) :
    alookup j (adel k l) = alookup j l := by
  induction l with
  | nil => rfl
  | cons e l ih =>
    unfold adel at *
    by_cases h1 : e.1 = k
    · simpa [h1, alookup, h] using ih
    · rw [List.filter_cons_of_pos (by simpa using h1), alookup, alookup, ih]

/-- The value under the key set, as a list whose unlisted keys read `d` gives it. -/
theorem alookup_aset_self {α : Type} [DecidableEq α] (k : Nat) (v d : α) (l : List (Nat × α)) :
    (alookup k (aset k v d l)).getD d = v := by
  unfold aset
  split
  · next h => simp [alookup_adel_self, h]
  · simp [alookup_aput_self]

/-- Any other key keeps its value. -/
theorem alookup_aset_ne {α : Type} [DecidableEq α] {k j : Nat} (h : k ≠ j) (v d : α) (l : List (Nat × α)) :
    alookup j (aset k v d l) = alookup j l := by
  unfold aset
  split
  · exact alookup_adel_ne h l
  · exact alookup_aput_ne h v l

/-! ### Fields -/

theorem csrGet_csrSet_self (c : Csr) (f : Fld) (i : List Nat) (v : Nat) : csrGet (csrSet c f i v) f i = v % 2 ^ f.width :=
  alookup_aset_self _ _ _ _

theorem csrGet_csrSet_ne {f g : Fld} {i j : List Nat} (h : f.key i ≠ g.key j) (c : Csr) (v : Nat) :
    csrGet (csrSet c f i v) g j = csrGet c g j := by
  unfold csrGet csrSet
  rw [alookup_aset_ne h]

/-- A field reads what was set, cut to its width. -/
@[simp] theorem State.reg_setReg_self (s : State) (f : Fld) (i : List Nat) (v : Nat) :
    (s.setReg f i v).reg f i = v % 2 ^ f.width :=
  csrGet_csrSet_self _ _ _ _

/-- A field at another place keeps its value. -/
theorem State.reg_setReg_ne {f g : Fld} {i j : List Nat} (h : f.key i ≠ g.key j) (s : State) (v : Nat) :
    (s.setReg f i v).reg g j = s.reg g j :=
  csrGet_csrSet_ne h _ _

/-- A saturating counter after a count. -/
theorem State.reg_bump_self (s : State) (f : Fld) (i : List Nat) (n : Nat) :
    (s.bump f i n).reg f i = min (s.reg f i + n) (2 ^ f.width - 1) := by
  have h : 0 < 2 ^ f.width := Nat.two_pow_pos _
  rw [State.bump, State.reg_setReg_self]
  exact Nat.mod_eq_of_lt (by omega)

/-- A counter that wraps after a count. -/
theorem State.reg_wrap_self (s : State) (f : Fld) (i : List Nat) (n : Nat) :
    (s.wrap f i n).reg f i = (s.reg f i + n) % 2 ^ f.width := by
  rw [State.wrap, State.reg_setReg_self]

theorem State.reg_bump_ne {f g : Fld} {i j : List Nat} (h : f.key i ≠ g.key j) (s : State) (n : Nat) :
    (s.bump f i n).reg g j = s.reg g j :=
  State.reg_setReg_ne h _ _

theorem State.reg_wrap_ne {f g : Fld} {i j : List Nat} (h : f.key i ≠ g.key j) (s : State) (n : Nat) :
    (s.wrap f i n).reg g j = s.reg g j :=
  State.reg_setReg_ne h _ _

/-! Fields are read from the register store alone. -/

@[simp] theorem State.reg_emit (s : State) (o : Out) (f : Fld) (i : List Nat) : (s.emit o).reg f i = s.reg f i := rfl
@[simp] theorem State.reg_setCore (s : State) (n : CoreId) (g : Core → Core) (f : Fld) (i : List Nat) :
    (s.setCore n g).reg f i = s.reg f i := rfl
@[simp] theorem State.reg_setCtx (s : State) (c : CtxId) (g : Ctx → Ctx) (f : Fld) (i : List Nat) :
    (s.setCtx c g).reg f i = s.reg f i := rfl
@[simp] theorem State.reg_nextPc (s : State) (c : CtxId) (n : Nat) (f : Fld) (i : List Nat) :
    (s.nextPc c n).reg f i = s.reg f i := rfl
@[simp] theorem State.reg_putS (s : State) (c : CtxId) (d : Fin 32) (v : W64) (f : Fld) (i : List Nat) :
    (s.putS c d v).reg f i = s.reg f i := rfl

end Sys2Proof.Machine
end

