-- ==== Sys2Proof/Laws/Issue.lean ====
section
/-! SUPPORT. Laws/Issue.lean: the issue of an instruction, and writes of registers by name, said once. -/
namespace Sys2Proof.Machine

/-- Where memory holds no error and no poison a fetch has no side effect. -/
theorem State.settleFetch_quiet {s : State} (h : Quiet s) (c : CtxId) (long : Bool) : s.settleFetch c long = s := by
  obtain ⟨h1, h2, h3, h4, h5⟩ := h
  simp [State.settleFetch, State.meetIcache, State.settleRange, h1, h2, h3, h4, h5]

/-- An instruction that can issue does what its body says, in one issue cycle. -/
theorem State.issue_of {s : State} {n : CoreId} {c : CtxId} {w x : W64} (h : Issues s n c w x) {row : Fields → Bool}
    (hr : row (fieldsOf w) = true) (body : State → CtxId → Fields → State) :
    s.issue n w x row body = (body s c (fieldsOf w)).pass c 1 := by
  obtain ⟨h1, h2, h3, h4, h5⟩ := h
  simp only [State.issue, h1, h2, hr, Bool.and_self, if_true, h3, h4, h5]

/-- Where no context runs on the core nothing is issued. -/
theorem State.issue_idle {s : State} {n : CoreId} (h : s.runningOn n = none) (w x : W64) (row : Fields → Bool)
    (body : State → CtxId → Fields → State) : s.issue n w x row body = s := by
  simp [State.issue, h]

/-- An effect is a register's. -/
def Effect.isReg : Effect → Bool
  | .window _ => false
  | .line _ _ => false
  | _ => true

/-- The free value of an effect stands in the same register, and uses one free value. -/
theorem State.freeEffect_like (s : State) {e : Effect} (h : e.isReg = true) :
    e.like (s.freeEffect e).1 ∧ (s.freeEffect e).2 = { s with free := s.free + 1 } := by
  cases e <;> simp_all [Effect.isReg, State.freeEffect, State.draw, Effect.like]

/-- A fixed-latency result as the statements say it: it lands, where no compute instruction under way names the register. -/
theorem State.result_lands {s : State} {c : CtxId} {lat : Nat} {e : Effect} (hr : e.isReg = true) (hc : s.clashes c e.namedBy = false) :
    Lands s ((((s.result c lat e).nextPc c 8)).pass c 1) c lat 1 e (s.ctxs[c].pc + 8) := by
  have h2 := s.freeEffect_like hr
  refine ⟨fun h => ?_, fun h => ⟨(s.freeEffect e).1, h2.1, ?_⟩⟩
  · simp [State.result, State.allowed, hc, h, State.nextPc, State.pass, State.setCtx]
  · have h1 : ¬ lat ≤ 1 := by omega
    rcases hf : s.freeEffect e with ⟨u, t⟩
    rw [hf] at h2
    obtain rfl : t = _ := h2.2
    have hp : (s.ctxs[c].put u).pc = s.ctxs[c].pc := by
      cases u <;> simp only [Ctx.put, Ctx.setS, Ctx.setP] <;> split <;> rfl
    simp only [Fin.getElem_fin] at hp
    simp [State.result, State.allowed, hc, h1, hf, State.nextPc, State.pass, State.setCtx, hp]

/-- The state without the lower parts that an agent has written and that are held for the `n` bytes at an offset (R15). -/
def State.noHalves (s : State) (a : Agent) (lo n : Nat) : State :=
  { s with halves := s.halves.filter fun e => !decide (e.1 = a ∧ lo ≤ e.2.1 ∧ e.2.1 < lo + n) }

@[simp] theorem State.noHalves_csr (s : State) (a : Agent) (lo n : Nat) : (s.noHalves a lo n).csr = s.csr := rfl
@[simp] theorem State.noHalves_acq (s : State) (a : Agent) (lo n : Nat) : (s.noHalves a lo n).acq = s.acq := rfl
@[simp] theorem State.noHalves_proc (s : State) (a : Agent) (lo n : Nat) : (s.noHalves a lo n).proc = s.proc := rfl
@[simp] theorem State.noHalves_ethIn (s : State) (a : Agent) (lo n : Nat) : (s.noHalves a lo n).ethIn = s.ethIn := rfl
@[simp] theorem State.noHalves_latches (s : State) (a : Agent) (lo n : Nat) : (s.noHalves a lo n).latches = s.latches := rfl
@[simp] theorem State.noHalves_mem (s : State) (a : Agent) (lo n : Nat) : (s.noHalves a lo n).mem = s.mem := rfl
@[simp] theorem State.noHalves_haze (s : State) (a : Agent) (lo n : Nat) : (s.noHalves a lo n).haze = s.haze := rfl
@[simp] theorem State.noHalves_poison (s : State) (a : Agent) (lo n : Nat) : (s.noHalves a lo n).poison = s.poison := rfl
@[simp] theorem State.noHalves_flips (s : State) (a : Agent) (lo n : Nat) : (s.noHalves a lo n).flips = s.flips := rfl
@[simp] theorem State.noHalves_parity (s : State) (a : Agent) (lo n : Nat) : (s.noHalves a lo n).parity = s.parity := rfl
@[simp] theorem State.noHalves_sram (s : State) (a : Agent) (lo n : Nat) : (s.noHalves a lo n).sram = s.sram := rfl
@[simp] theorem State.noHalves_sramBad (s : State) (a : Agent) (lo n : Nat) : (s.noHalves a lo n).sramBad = s.sramBad := rfl
@[simp] theorem State.noHalves_valid (s : State) (a : Agent) (lo n : Nat) : (s.noHalves a lo n).valid = s.valid := rfl
@[simp] theorem State.noHalves_written (s : State) (a : Agent) (lo n : Nat) : (s.noHalves a lo n).written = s.written := rfl
@[simp] theorem State.noHalves_chanBuf (s : State) (a : Agent) (lo n : Nat) : (s.noHalves a lo n).chanBuf = s.chanBuf := rfl
@[simp] theorem State.noHalves_bankBuf (s : State) (a : Agent) (lo n : Nat) : (s.noHalves a lo n).bankBuf = s.bankBuf := rfl
@[simp] theorem State.noHalves_pulses (s : State) (a : Agent) (lo n : Nat) : (s.noHalves a lo n).pulses = s.pulses := rfl
@[simp] theorem State.noHalves_capts (s : State) (a : Agent) (lo n : Nat) : (s.noHalves a lo n).capts = s.capts := rfl
@[simp] theorem State.noHalves_imu (s : State) (a : Agent) (lo n : Nat) : (s.noHalves a lo n).imu = s.imu := rfl
@[simp] theorem State.noHalves_asleep (s : State) (a : Agent) (lo n : Nat) : (s.noHalves a lo n).asleep = s.asleep := rfl
@[simp] theorem State.noHalves_txAt (s : State) (a : Agent) (lo n : Nat) : (s.noHalves a lo n).txAt = s.txAt := rfl
@[simp] theorem State.noHalves_mdioRd (s : State) (a : Agent) (lo n : Nat) : (s.noHalves a lo n).mdioRd = s.mdioRd := rfl
@[simp] theorem State.noHalves_inbox (s : State) (a : Agent) (lo n : Nat) : (s.noHalves a lo n).inbox = s.inbox := rfl
@[simp] theorem State.noHalves_clk (s : State) (a : Agent) (lo n : Nat) : (s.noHalves a lo n).clk = s.clk := rfl
@[simp] theorem State.noHalves_ctxs (s : State) (a : Agent) (lo n : Nat) : (s.noHalves a lo n).ctxs = s.ctxs := rfl
@[simp] theorem State.noHalves_cores (s : State) (a : Agent) (lo n : Nat) : (s.noHalves a lo n).cores = s.cores := rfl
@[simp] theorem State.noHalves_flights (s : State) (a : Agent) (lo n : Nat) : (s.noHalves a lo n).flights = s.flights := rfl
@[simp] theorem State.noHalves_fabric (s : State) (a : Agent) (lo n : Nat) : (s.noHalves a lo n).fabric = s.fabric := rfl
@[simp] theorem State.noHalves_sliceT (s : State) (a : Agent) (lo n : Nat) : (s.noHalves a lo n).sliceT = s.sliceT := rfl
@[simp] theorem State.noHalves_slice (s : State) (a : Agent) (lo n : Nat) : (s.noHalves a lo n).slice = s.slice := rfl
@[simp] theorem State.noHalves_exps (s : State) (a : Agent) (lo n : Nat) : (s.noHalves a lo n).exps = s.exps := rfl
@[simp] theorem State.noHalves_mntSkip (s : State) (a : Agent) (lo n : Nat) : (s.noHalves a lo n).mntSkip = s.mntSkip := rfl
@[simp] theorem State.noHalves_txns (s : State) (a : Agent) (lo n : Nat) : (s.noHalves a lo n).txns = s.txns := rfl
@[simp] theorem State.noHalves_pendTx (s : State) (a : Agent) (lo n : Nat) : (s.noHalves a lo n).pendTx = s.pendTx := rfl
@[simp] theorem State.noHalves_passed (s : State) (a : Agent) (lo n : Nat) : (s.noHalves a lo n).passed = s.passed := rfl
@[simp] theorem State.noHalves_mon (s : State) (a : Agent) (lo n : Nat) : (s.noHalves a lo n).mon = s.mon := rfl
@[simp] theorem State.noHalves_links (s : State) (a : Agent) (lo n : Nat) : (s.noHalves a lo n).links = s.links := rfl
@[simp] theorem State.noHalves_msix (s : State) (a : Agent) (lo n : Nat) : (s.noHalves a lo n).msix = s.msix := rfl
@[simp] theorem State.noHalves_mctp (s : State) (a : Agent) (lo n : Nat) : (s.noHalves a lo n).mctp = s.mctp := rfl
@[simp] theorem State.noHalves_out (s : State) (a : Agent) (lo n : Nat) : (s.noHalves a lo n).out = s.out := rfl
@[simp] theorem State.noHalves_free (s : State) (a : Agent) (lo n : Nat) : (s.noHalves a lo n).free = s.free := rfl
@[simp] theorem State.noHalves_stamp (s : State) (a : Agent) (lo n : Nat) : (s.noHalves a lo n).stamp = s.stamp := rfl
@[simp] theorem State.noHalves_pending (s : State) (a : Agent) (lo n : Nat) : (s.noHalves a lo n).pending = s.pending := rfl
@[simp] theorem State.noHalves_recov (s : State) (a : Agent) (lo n : Nat) : (s.noHalves a lo n).recov = s.recov := rfl
@[simp] theorem State.noHalves_diagRd (s : State) (a : Agent) (lo n : Nat) : (s.noHalves a lo n).diagRd = s.diagRd := rfl
@[simp] theorem State.noHalves_leakT (s : State) (a : Agent) (lo n : Nat) : (s.noHalves a lo n).leakT = s.leakT := rfl
@[simp] theorem State.noHalves_zqT (s : State) (a : Agent) (lo n : Nat) : (s.noHalves a lo n).zqT = s.zqT := rfl
@[simp] theorem State.noHalves_trainT (s : State) (a : Agent) (lo n : Nat) : (s.noHalves a lo n).trainT = s.trainT := rfl
@[simp] theorem State.noHalves_forced (s : State) (a : Agent) (lo n : Nat) : (s.noHalves a lo n).forced = s.forced := rfl
@[simp] theorem State.noHalves_ends (s : State) (a : Agent) (lo n : Nat) : (s.noHalves a lo n).ends = s.ends := rfl
@[simp] theorem State.noHalves_zeroing (s : State) (a : Agent) (lo n : Nat) : (s.noHalves a lo n).zeroing = s.zeroing := rfl
@[simp] theorem State.noHalves_clean (s : State) (a : Agent) (lo n : Nat) : (s.noHalves a lo n).clean = s.clean := rfl
@[simp] theorem State.noHalves_fabLast (s : State) (a : Agent) (lo n : Nat) : (s.noHalves a lo n).fabLast = s.fabLast := rfl
@[simp] theorem State.noHalves_lag (s : State) (a : Agent) (lo n : Nat) : (s.noHalves a lo n).lag = s.lag := rfl
@[simp] theorem State.noHalves_seqs (s : State) (a : Agent) (lo n : Nat) : (s.noHalves a lo n).seqs = s.seqs := rfl
@[simp] theorem State.noHalves_heads (s : State) (a : Agent) (lo n : Nat) : (s.noHalves a lo n).heads = s.heads := rfl
@[simp] theorem State.noHalves_fe (s : State) (a : Agent) (lo n : Nat) : (s.noHalves a lo n).fe = s.fe := rfl
@[simp] theorem State.noHalves_tbl (s : State) (a : Agent) (lo n : Nat) : (s.noHalves a lo n).tbl = s.tbl := rfl
@[simp] theorem State.noHalves_msgs (s : State) (a : Agent) (lo n : Nat) : (s.noHalves a lo n).msgs = s.msgs := rfl
@[simp] theorem State.noHalves_mbox (s : State) (a : Agent) (lo n : Nat) : (s.noHalves a lo n).mbox = s.mbox := rfl
@[simp] theorem State.noHalves_presets (s : State) (a : Agent) (lo n : Nat) : (s.noHalves a lo n).presets = s.presets := rfl
@[simp] theorem State.noHalves_shareT (s : State) (a : Agent) (lo n : Nat) : (s.noHalves a lo n).shareT = s.shareT := rfl
@[simp] theorem State.noHalves_seq (s : State) (a : Agent) (lo n : Nat) : (s.noHalves a lo n).seq = s.seq := rfl
@[simp] theorem State.noHalves_pauseT (s : State) (a : Agent) (lo n : Nat) : (s.noHalves a lo n).pauseT = s.pauseT := rfl
@[simp] theorem State.noHalves_otp (s : State) (a : Agent) (lo n : Nat) : (s.noHalves a lo n).otp = s.otp := rfl
@[simp] theorem State.noHalves_boot (s : State) (a : Agent) (lo n : Nat) : (s.noHalves a lo n).boot = s.boot := rfl
@[simp] theorem State.noHalves_pwr (s : State) (a : Agent) (lo n : Nat) : (s.noHalves a lo n).pwr = s.pwr := rfl
@[simp] theorem State.noHalves_mesh (s : State) (a : Agent) (lo n : Nat) : (s.noHalves a lo n).mesh = s.mesh := rfl
@[simp] theorem State.noHalves_served (s : State) (a : Agent) (lo n : Nat) : (s.noHalves a lo n).served = s.served := rfl
@[simp] theorem State.noHalves_l2 (s : State) (a : Agent) (lo n : Nat) : (s.noHalves a lo n).l2 = s.l2 := rfl
@[simp] theorem State.reg_noHalves (s : State) (a : Agent) (lo n : Nat) (f : Fld) (i : List Nat) :
    (s.noHalves a lo n).reg f i = s.reg f i := rfl

/-- A whole write of a register of five to eight bytes by an agent that may make it. -/
theorem State.writeNamed_whole {s : State} {a : Agent} {nm : RegName} {r : RegRow} {idx : List Nat} (hr : regRow nm = some r)
    (hb : 4 < r.bytes) (hb' : r.bytes ≤ 8) (hl : s.agentLive a = true) (hm : s.mayWrite a r.wr idx = true)
    (ho : s.blockOff (r.addr idx) = false) (v : Nat)
    (act : State → Wr → List Nat → State) :
    s.writeNamed a nm idx .whole v act =
      act (s.noHalves a (r.addr idx) r.bytes)
        ⟨a, (r.fields.filter fun f => f.within 0 64 && !f.joined r) ++ r.fields.filter (fun f => f.joined r), v % 2 ^ 64⟩ idx := by
  have h4 : ¬ r.bytes ≤ 4 := by omega
  simp [State.writeNamed, hr, h4, State.regWrite, hl, hm, ho, State.takeWrite, halfPlace, hb', State.heldBits, State.noHalves]

/-- A write of a register of up to four bytes by an agent that may make it. -/
theorem State.writeNamed_word {s : State} {a : Agent} {nm : RegName} {r : RegRow} {idx : List Nat} (hr : regRow nm = some r)
    (hb : r.bytes ≤ 4) (hl : s.agentLive a = true) (hm : s.mayWrite a r.wr idx = true)
    (ho : s.blockOff (r.addr idx) = false) (h : Half) (v : Nat)
    (act : State → Wr → List Nat → State) :
    s.writeNamed a nm idx h v act =
      act (s.noHalves a (r.addr idx) r.bytes)
        ⟨a, (r.fields.filter fun f => f.within 0 32 && !f.joined r) ++ r.fields.filter (fun f => f.joined r), v % 2 ^ 32⟩ idx := by
  simp [State.writeNamed, hr, hb, State.regWrite, hl, hm, ho, State.takeWrite, State.heldBits, State.noHalves]

/-- A write by an agent whose accesses are not made, or that may not write the register, or of a block that is off, does nothing (R12, R456). -/
theorem State.writeNamed_denied {s : State} {a : Agent} {nm : RegName} {r : RegRow} {idx : List Nat} (hr : regRow nm = some r)
    (h : (s.agentLive a && s.mayWrite a r.wr idx && !s.blockOff (r.addr idx)) = false) (hf : Half) (v : Nat) (act : State → Wr → List Nat → State) :
    s.writeNamed a nm idx hf v act = s := by
  simp [State.writeNamed, hr, State.regWrite, h]

end Sys2Proof.Machine
end

