-- ==== Sys2Proof/Laws/Regs.lean ====
section
/-! SUPPORT. Laws/Regs.lean: what a whole write of each register that has a command of its own hands to the register, for
an agent that may write it. -/
namespace Sys2Proof.Machine
open Reg

theorem write_PTP_INCR {s : State} {a : Agent} (hl : s.agentLive a = true) (hm : s.mayWrite a .p0 [] = true) (v : Nat)
    (act : State → Wr → List Nat → State) :
    s.writeNamed a .PTP_INCR [] .whole v act =
      act (s.noHalves a (0x500010 + strideSum [] []) 8)
        ⟨a, [PTP_INCR.incr_clamped, PTP_INCR.incr_ns, PTP_INCR.incr_frac], v % 2 ^ 64⟩ [] :=
  State.writeNamed_whole (r := ⟨.PTP_INCR, 0x500010, [], 8, false, [PTP_INCR.incr_clamped, PTP_INCR.incr_ns, PTP_INCR.incr_frac], .safelight, .p0, .all⟩) rfl (by decide) (by decide) hl hm (by simp [State.blockOff, RegRow.addr, strideSum]) v act

theorem denied_PTP_INCR {s : State} {a : Agent} {idx : List Nat} (h : (s.agentLive a && s.mayWrite a .p0 idx && !s.blockOff (0x500010 + strideSum [] idx)) = false) (hf : Half) (v : Nat)
    (act : State → Wr → List Nat → State) : s.writeNamed a .PTP_INCR idx hf v act = s :=
  State.writeNamed_denied (r := ⟨.PTP_INCR, 0x500010, [], 8, false, [PTP_INCR.incr_clamped, PTP_INCR.incr_ns, PTP_INCR.incr_frac], .safelight, .p0, .all⟩) rfl h hf v act

theorem write_PTP_STEP {s : State} {a : Agent} (hl : s.agentLive a = true) (hm : s.mayWrite a .p0 [] = true) (v : Nat)
    (act : State → Wr → List Nat → State) :
    s.writeNamed a .PTP_STEP [] .whole v act =
      act (s.noHalves a (0x500018 + strideSum [] []) 8)
        ⟨a, [PTP_STEP.step_ns], v % 2 ^ 64⟩ [] :=
  State.writeNamed_whole (r := ⟨.PTP_STEP, 0x500018, [], 8, false, [PTP_STEP.step_ns], .safelight, .p0, .all⟩) rfl (by decide) (by decide) hl hm (by simp [State.blockOff, RegRow.addr, strideSum]) v act

theorem denied_PTP_STEP {s : State} {a : Agent} {idx : List Nat} (h : (s.agentLive a && s.mayWrite a .p0 idx && !s.blockOff (0x500018 + strideSum [] idx)) = false) (hf : Half) (v : Nat)
    (act : State → Wr → List Nat → State) : s.writeNamed a .PTP_STEP idx hf v act = s :=
  State.writeNamed_denied (r := ⟨.PTP_STEP, 0x500018, [], 8, false, [PTP_STEP.step_ns], .safelight, .p0, .all⟩) rfl h hf v act

theorem write_PTP_STEP_CTRL {s : State} {a : Agent} (hl : s.agentLive a = true) (hm : s.mayWrite a .p0 [] = true) (v : Nat)
    (act : State → Wr → List Nat → State) :
    s.writeNamed a .PTP_STEP_CTRL [] .whole v act =
      act (s.noHalves a (0x500020 + strideSum [] []) 8)
        ⟨a, [PTP_STEP_CTRL.step_gen, PTP_STEP_CTRL.refused_count, PTP_STEP_CTRL.pending, PTP_STEP_CTRL.refused, PTP_STEP_CTRL.confirm, PTP_STEP_CTRL.discard, PTP_STEP_CTRL.threshold_ns], v % 2 ^ 64⟩ [] :=
  State.writeNamed_whole (r := ⟨.PTP_STEP_CTRL, 0x500020, [], 8, false, [PTP_STEP_CTRL.step_gen, PTP_STEP_CTRL.refused_count, PTP_STEP_CTRL.pending, PTP_STEP_CTRL.refused, PTP_STEP_CTRL.confirm, PTP_STEP_CTRL.discard, PTP_STEP_CTRL.threshold_ns], .safelight, .p0, .all⟩) rfl (by decide) (by decide) hl hm (by simp [State.blockOff, RegRow.addr, strideSum]) v act

theorem denied_PTP_STEP_CTRL {s : State} {a : Agent} {idx : List Nat} (h : (s.agentLive a && s.mayWrite a .p0 idx && !s.blockOff (0x500020 + strideSum [] idx)) = false) (hf : Half) (v : Nat)
    (act : State → Wr → List Nat → State) : s.writeNamed a .PTP_STEP_CTRL idx hf v act = s :=
  State.writeNamed_denied (r := ⟨.PTP_STEP_CTRL, 0x500020, [], 8, false, [PTP_STEP_CTRL.step_gen, PTP_STEP_CTRL.refused_count, PTP_STEP_CTRL.pending, PTP_STEP_CTRL.refused, PTP_STEP_CTRL.confirm, PTP_STEP_CTRL.discard, PTP_STEP_CTRL.threshold_ns], .safelight, .p0, .all⟩) rfl h hf v act

theorem write_PTP_PULSE_CTRL {s : State} {a : Agent} {i0 : Nat} (hl : s.agentLive a = true) (hm : s.mayWrite a .p0 [i0] = true) (ho : s.blockOff (0x500100 + strideSum [0x20] [i0]) = false) (h : Half) (v : Nat)
    (act : State → Wr → List Nat → State) :
    s.writeNamed a .PTP_PULSE_CTRL [i0] h v act =
      act (s.noHalves a (0x500100 + strideSum [0x20] [i0]) 4)
        ⟨a, [PTP_PULSE_CTRL.missed_count, PTP_PULSE_CTRL.cfg_err, PTP_PULSE_CTRL.active_low, PTP_PULSE_CTRL.periodic, PTP_PULSE_CTRL.arm], v % 2 ^ 32⟩ [i0] :=
  State.writeNamed_word (r := ⟨.PTP_PULSE_CTRL, 0x500100, [(4, 0x20)], 4, false, [PTP_PULSE_CTRL.missed_count, PTP_PULSE_CTRL.cfg_err, PTP_PULSE_CTRL.active_low, PTP_PULSE_CTRL.periodic, PTP_PULSE_CTRL.arm], .device, .p0, .all⟩) rfl (by decide) hl hm ho h v act

theorem denied_PTP_PULSE_CTRL {s : State} {a : Agent} {idx : List Nat} (h : (s.agentLive a && s.mayWrite a .p0 idx && !s.blockOff (0x500100 + strideSum [0x20] idx)) = false) (hf : Half) (v : Nat)
    (act : State → Wr → List Nat → State) : s.writeNamed a .PTP_PULSE_CTRL idx hf v act = s :=
  State.writeNamed_denied (r := ⟨.PTP_PULSE_CTRL, 0x500100, [(4, 0x20)], 4, false, [PTP_PULSE_CTRL.missed_count, PTP_PULSE_CTRL.cfg_err, PTP_PULSE_CTRL.active_low, PTP_PULSE_CTRL.periodic, PTP_PULSE_CTRL.arm], .device, .p0, .all⟩) rfl h hf v act

theorem write_ETH_TXQ_PTR {s : State} {a : Agent} {i0 : Nat} (hl : s.agentLive a = true) (hm : s.mayWrite a .p0 [i0] = true) (ho : s.blockOff (0x600048 + strideSum [0x10000] [i0]) = false) (v : Nat)
    (act : State → Wr → List Nat → State) :
    s.writeNamed a .ETH_TXQ_PTR [i0] .whole v act =
      act (s.noHalves a (0x600048 + strideSum [0x10000] [i0]) 8)
        ⟨a, [ETH_TXQ_PTR.so_en, ETH_TXQ_PTR.done_so, ETH_TXQ_PTR.head, ETH_TXQ_PTR.tail], v % 2 ^ 64⟩ [i0] :=
  State.writeNamed_whole (r := ⟨.ETH_TXQ_PTR, 0x600048, [(8, 0x10000)], 8, false, [ETH_TXQ_PTR.so_en, ETH_TXQ_PTR.done_so, ETH_TXQ_PTR.head, ETH_TXQ_PTR.tail], .device, .p0, .all⟩) rfl (by decide) (by decide) hl hm ho v act

theorem denied_ETH_TXQ_PTR {s : State} {a : Agent} {idx : List Nat} (h : (s.agentLive a && s.mayWrite a .p0 idx && !s.blockOff (0x600048 + strideSum [0x10000] idx)) = false) (hf : Half) (v : Nat)
    (act : State → Wr → List Nat → State) : s.writeNamed a .ETH_TXQ_PTR idx hf v act = s :=
  State.writeNamed_denied (r := ⟨.ETH_TXQ_PTR, 0x600048, [(8, 0x10000)], 8, false, [ETH_TXQ_PTR.so_en, ETH_TXQ_PTR.done_so, ETH_TXQ_PTR.head, ETH_TXQ_PTR.tail], .device, .p0, .all⟩) rfl h hf v act

theorem write_ETH_RXQ_PTR {s : State} {a : Agent} {i0 : Nat} (hl : s.agentLive a = true) (hm : s.mayWrite a .p0 [i0] = true) (ho : s.blockOff (0x600058 + strideSum [0x10000] [i0]) = false) (v : Nat)
    (act : State → Wr → List Nat → State) :
    s.writeNamed a .ETH_RXQ_PTR [i0] .whole v act =
      act (s.noHalves a (0x600058 + strideSum [0x10000] [i0]) 8)
        ⟨a, [ETH_RXQ_PTR.so_en, ETH_RXQ_PTR.done_so, ETH_RXQ_PTR.head, ETH_RXQ_PTR.tail], v % 2 ^ 64⟩ [i0] :=
  State.writeNamed_whole (r := ⟨.ETH_RXQ_PTR, 0x600058, [(8, 0x10000)], 8, false, [ETH_RXQ_PTR.so_en, ETH_RXQ_PTR.done_so, ETH_RXQ_PTR.head, ETH_RXQ_PTR.tail], .device, .p0, .all⟩) rfl (by decide) (by decide) hl hm ho v act

theorem denied_ETH_RXQ_PTR {s : State} {a : Agent} {idx : List Nat} (h : (s.agentLive a && s.mayWrite a .p0 idx && !s.blockOff (0x600058 + strideSum [0x10000] idx)) = false) (hf : Half) (v : Nat)
    (act : State → Wr → List Nat → State) : s.writeNamed a .ETH_RXQ_PTR idx hf v act = s :=
  State.writeNamed_denied (r := ⟨.ETH_RXQ_PTR, 0x600058, [(8, 0x10000)], 8, false, [ETH_RXQ_PTR.so_en, ETH_RXQ_PTR.done_so, ETH_RXQ_PTR.head, ETH_RXQ_PTR.tail], .device, .p0, .all⟩) rfl h hf v act

theorem write_ETH_MDIO {s : State} {a : Agent} {i0 : Nat} (hl : s.agentLive a = true) (hm : s.mayWrite a .p0 [i0] = true) (ho : s.blockOff (0x600080 + strideSum [0x40000] [i0]) = false) (v : Nat)
    (act : State → Wr → List Nat → State) :
    s.writeNamed a .ETH_MDIO [i0] .whole v act =
      act (s.noHalves a (0x600080 + strideSum [0x40000] [i0]) 8)
        ⟨a, [ETH_MDIO.busy, ETH_MDIO.start, ETH_MDIO.clause45, ETH_MDIO.op, ETH_MDIO.prtad, ETH_MDIO.devad, ETH_MDIO.mdc_div, ETH_MDIO.data], v % 2 ^ 64⟩ [i0] :=
  State.writeNamed_whole (r := ⟨.ETH_MDIO, 0x600080, [(2, 0x40000)], 8, false, [ETH_MDIO.busy, ETH_MDIO.start, ETH_MDIO.clause45, ETH_MDIO.op, ETH_MDIO.prtad, ETH_MDIO.devad, ETH_MDIO.mdc_div, ETH_MDIO.data], .device, .p0, .all⟩) rfl (by decide) (by decide) hl hm ho v act

theorem denied_ETH_MDIO {s : State} {a : Agent} {idx : List Nat} (h : (s.agentLive a && s.mayWrite a .p0 idx && !s.blockOff (0x600080 + strideSum [0x40000] idx)) = false) (hf : Half) (v : Nat)
    (act : State → Wr → List Nat → State) : s.writeNamed a .ETH_MDIO idx hf v act = s :=
  State.writeNamed_denied (r := ⟨.ETH_MDIO, 0x600080, [(2, 0x40000)], 8, false, [ETH_MDIO.busy, ETH_MDIO.start, ETH_MDIO.clause45, ETH_MDIO.op, ETH_MDIO.prtad, ETH_MDIO.devad, ETH_MDIO.mdc_div, ETH_MDIO.data], .device, .p0, .all⟩) rfl h hf v act

theorem write_FE_IMU_XFER {s : State} {a : Agent} (hl : s.agentLive a = true) (hm : s.mayWrite a .p0 [] = true) (ho : s.blockOff (0x701018 + strideSum [] []) = false) (v : Nat)
    (act : State → Wr → List Nat → State) :
    s.writeNamed a .FE_IMU_XFER [] .whole v act =
      act (s.noHalves a (0x701018 + strideSum [] []) 8)
        ⟨a, [FE_IMU_XFER.busy, FE_IMU_XFER.start, FE_IMU_XFER.hold_cs, FE_IMU_XFER.len, FE_IMU_XFER.data], v % 2 ^ 64⟩ [] :=
  State.writeNamed_whole (r := ⟨.FE_IMU_XFER, 0x701018, [], 8, false, [FE_IMU_XFER.busy, FE_IMU_XFER.start, FE_IMU_XFER.hold_cs, FE_IMU_XFER.len, FE_IMU_XFER.data], .device, .p0, .all⟩) rfl (by decide) (by decide) hl hm ho v act

theorem denied_FE_IMU_XFER {s : State} {a : Agent} {idx : List Nat} (h : (s.agentLive a && s.mayWrite a .p0 idx && !s.blockOff (0x701018 + strideSum [] idx)) = false) (hf : Half) (v : Nat)
    (act : State → Wr → List Nat → State) : s.writeNamed a .FE_IMU_XFER idx hf v act = s :=
  State.writeNamed_denied (r := ⟨.FE_IMU_XFER, 0x701018, [], 8, false, [FE_IMU_XFER.busy, FE_IMU_XFER.start, FE_IMU_XFER.hold_cs, FE_IMU_XFER.len, FE_IMU_XFER.data], .device, .p0, .all⟩) rfl h hf v act

theorem write_ARR_CTRL {s : State} {a : Agent} {i0 : Nat} (hl : s.agentLive a = true) (hm : s.mayWrite a .p0 [i0] = true) (ho : s.blockOff (0x1001000 + strideSum [0x100000] [i0]) = false) (h : Half) (v : Nat)
    (act : State → Wr → List Nat → State) :
    s.writeNamed a .ARR_CTRL [i0] h v act =
      act (s.noHalves a (0x1001000 + strideSum [0x100000] [i0]) 4)
        ⟨a, [ARR_CTRL.perf_clr, ARR_CTRL.mv_threshold, ARR_CTRL.ramp_step], v % 2 ^ 32⟩ [i0] :=
  State.writeNamed_word (r := ⟨.ARR_CTRL, 0x1001000, [(32, 0x100000)], 4, false, [ARR_CTRL.perf_clr, ARR_CTRL.mv_threshold, ARR_CTRL.ramp_step], .core, .p0, .all⟩) rfl (by decide) hl hm ho h v act

theorem denied_ARR_CTRL {s : State} {a : Agent} {idx : List Nat} (h : (s.agentLive a && s.mayWrite a .p0 idx && !s.blockOff (0x1001000 + strideSum [0x100000] idx)) = false) (hf : Half) (v : Nat)
    (act : State → Wr → List Nat → State) : s.writeNamed a .ARR_CTRL idx hf v act = s :=
  State.writeNamed_denied (r := ⟨.ARR_CTRL, 0x1001000, [(32, 0x100000)], 4, false, [ARR_CTRL.perf_clr, ARR_CTRL.mv_threshold, ARR_CTRL.ramp_step], .core, .p0, .all⟩) rfl h hf v act

theorem write_DVL_CTRL {s : State} {a : Agent} {i0 : Nat} (hl : s.agentLive a = true) (hm : s.mayWrite a .p0 [i0] = true) (ho : s.blockOff (0x1002000 + strideSum [0x100000] [i0]) = false) (h : Half) (v : Nat)
    (act : State → Wr → List Nat → State) :
    s.writeNamed a .DVL_CTRL [i0] h v act =
      act (s.noHalves a (0x1002000 + strideSum [0x100000] [i0]) 4)
        ⟨a, [DVL_CTRL.perf_clr, DVL_CTRL.ahead_slots, DVL_CTRL.strip_fill, DVL_CTRL.strip_audit], v % 2 ^ 32⟩ [i0] :=
  State.writeNamed_word (r := ⟨.DVL_CTRL, 0x1002000, [(32, 0x100000)], 4, false, [DVL_CTRL.perf_clr, DVL_CTRL.ahead_slots, DVL_CTRL.strip_fill, DVL_CTRL.strip_audit], .core, .p0, .all⟩) rfl (by decide) hl hm ho h v act

theorem denied_DVL_CTRL {s : State} {a : Agent} {idx : List Nat} (h : (s.agentLive a && s.mayWrite a .p0 idx && !s.blockOff (0x1002000 + strideSum [0x100000] idx)) = false) (hf : Half) (v : Nat)
    (act : State → Wr → List Nat → State) : s.writeNamed a .DVL_CTRL idx hf v act = s :=
  State.writeNamed_denied (r := ⟨.DVL_CTRL, 0x1002000, [(32, 0x100000)], 4, false, [DVL_CTRL.perf_clr, DVL_CTRL.ahead_slots, DVL_CTRL.strip_fill, DVL_CTRL.strip_audit], .core, .p0, .all⟩) rfl h hf v act

theorem write_SEL_CTRL {s : State} {a : Agent} {i0 : Nat} (hl : s.agentLive a = true) (hm : s.mayWrite a .p0 [i0] = true) (ho : s.blockOff (0x1002800 + strideSum [0x100000] [i0]) = false) (h : Half) (v : Nat)
    (act : State → Wr → List Nat → State) :
    s.writeNamed a .SEL_CTRL [i0] h v act =
      act (s.noHalves a (0x1002800 + strideSum [0x100000] [i0]) 4)
        ⟨a, [SEL_CTRL.perf_clr, SEL_CTRL.merge_timeout_us], v % 2 ^ 32⟩ [i0] :=
  State.writeNamed_word (r := ⟨.SEL_CTRL, 0x1002800, [(32, 0x100000)], 4, false, [SEL_CTRL.perf_clr, SEL_CTRL.merge_timeout_us], .core, .p0, .all⟩) rfl (by decide) hl hm ho h v act

theorem denied_SEL_CTRL {s : State} {a : Agent} {idx : List Nat} (h : (s.agentLive a && s.mayWrite a .p0 idx && !s.blockOff (0x1002800 + strideSum [0x100000] idx)) = false) (hf : Half) (v : Nat)
    (act : State → Wr → List Nat → State) : s.writeNamed a .SEL_CTRL idx hf v act = s :=
  State.writeNamed_denied (r := ⟨.SEL_CTRL, 0x1002800, [(32, 0x100000)], 4, false, [SEL_CTRL.perf_clr, SEL_CTRL.merge_timeout_us], .core, .p0, .all⟩) rfl h hf v act

theorem write_SRT_CTRL {s : State} {a : Agent} {i0 : Nat} (hl : s.agentLive a = true) (hm : s.mayWrite a .p0 [i0] = true) (ho : s.blockOff (0x1003000 + strideSum [0x100000] [i0]) = false) (h : Half) (v : Nat)
    (act : State → Wr → List Nat → State) :
    s.writeNamed a .SRT_CTRL [i0] h v act =
      act (s.noHalves a (0x1003000 + strideSum [0x100000] [i0]) 4)
        ⟨a, [SRT_CTRL.perf_clr], v % 2 ^ 32⟩ [i0] :=
  State.writeNamed_word (r := ⟨.SRT_CTRL, 0x1003000, [(32, 0x100000)], 4, false, [SRT_CTRL.perf_clr], .core, .p0, .all⟩) rfl (by decide) hl hm ho h v act

theorem denied_SRT_CTRL {s : State} {a : Agent} {idx : List Nat} (h : (s.agentLive a && s.mayWrite a .p0 idx && !s.blockOff (0x1003000 + strideSum [0x100000] idx)) = false) (hf : Half) (v : Nat)
    (act : State → Wr → List Nat → State) : s.writeNamed a .SRT_CTRL idx hf v act = s :=
  State.writeNamed_denied (r := ⟨.SRT_CTRL, 0x1003000, [(32, 0x100000)], 4, false, [SRT_CTRL.perf_clr], .core, .p0, .all⟩) rfl h hf v act

theorem write_TBL_CTRL {s : State} {a : Agent} (hl : s.agentLive a = true) (hm : s.mayWrite a .p0 [] = true) (h : Half) (v : Nat)
    (act : State → Wr → List Nat → State) :
    s.writeNamed a .TBL_CTRL [] h v act =
      act (s.noHalves a (0x900000 + strideSum [] []) 4)
        ⟨a, [TBL_CTRL.perf_clr, TBL_CTRL.rebuild_share, TBL_CTRL.sweep_rate], v % 2 ^ 32⟩ [] :=
  State.writeNamed_word (r := ⟨.TBL_CTRL, 0x900000, [], 4, false, [TBL_CTRL.perf_clr, TBL_CTRL.rebuild_share, TBL_CTRL.sweep_rate], .device, .p0, .all⟩) rfl (by decide) hl hm (by simp [State.blockOff, RegRow.addr, strideSum]) h v act

theorem denied_TBL_CTRL {s : State} {a : Agent} {idx : List Nat} (h : (s.agentLive a && s.mayWrite a .p0 idx && !s.blockOff (0x900000 + strideSum [] idx)) = false) (hf : Half) (v : Nat)
    (act : State → Wr → List Nat → State) : s.writeNamed a .TBL_CTRL idx hf v act = s :=
  State.writeNamed_denied (r := ⟨.TBL_CTRL, 0x900000, [], 4, false, [TBL_CTRL.perf_clr, TBL_CTRL.rebuild_share, TBL_CTRL.sweep_rate], .device, .p0, .all⟩) rfl h hf v act

theorem write_TBL_REBUILD {s : State} {a : Agent} (hl : s.agentLive a = true) (hm : s.mayWrite a .p0 [] = true) (h : Half) (v : Nat)
    (act : State → Wr → List Nat → State) :
    s.writeNamed a .TBL_REBUILD [] h v act =
      act (s.noHalves a (0x900020 + strideSum [] []) 4)
        ⟨a, [TBL_REBUILD.start, TBL_REBUILD.stop, TBL_REBUILD.table], v % 2 ^ 32⟩ [] :=
  State.writeNamed_word (r := ⟨.TBL_REBUILD, 0x900020, [], 4, false, [TBL_REBUILD.start, TBL_REBUILD.stop, TBL_REBUILD.table], .device, .p0, .all⟩) rfl (by decide) hl hm (by simp [State.blockOff, RegRow.addr, strideSum]) h v act

theorem denied_TBL_REBUILD {s : State} {a : Agent} {idx : List Nat} (h : (s.agentLive a && s.mayWrite a .p0 idx && !s.blockOff (0x900020 + strideSum [] idx)) = false) (hf : Half) (v : Nat)
    (act : State → Wr → List Nat → State) : s.writeNamed a .TBL_REBUILD idx hf v act = s :=
  State.writeNamed_denied (r := ⟨.TBL_REBUILD, 0x900020, [], 4, false, [TBL_REBUILD.start, TBL_REBUILD.stop, TBL_REBUILD.table], .device, .p0, .all⟩) rfl h hf v act

theorem write_SPM_CTRL {s : State} {a : Agent} {i0 : Nat} (hl : s.agentLive a = true) (hm : s.mayWrite a .p0 [i0] = true) (ho : s.blockOff (0x1004000 + strideSum [0x100000] [i0]) = false) (h : Half) (v : Nat)
    (act : State → Wr → List Nat → State) :
    s.writeNamed a .SPM_CTRL [i0] h v act =
      act (s.noHalves a (0x1004000 + strideSum [0x100000] [i0]) 4)
        ⟨a, [SPM_CTRL.perf_clr, SPM_CTRL.steal_age], v % 2 ^ 32⟩ [i0] :=
  State.writeNamed_word (r := ⟨.SPM_CTRL, 0x1004000, [(32, 0x100000)], 4, false, [SPM_CTRL.perf_clr, SPM_CTRL.steal_age], .core, .p0, .all⟩) rfl (by decide) hl hm ho h v act

theorem denied_SPM_CTRL {s : State} {a : Agent} {idx : List Nat} (h : (s.agentLive a && s.mayWrite a .p0 idx && !s.blockOff (0x1004000 + strideSum [0x100000] idx)) = false) (hf : Half) (v : Nat)
    (act : State → Wr → List Nat → State) : s.writeNamed a .SPM_CTRL idx hf v act = s :=
  State.writeNamed_denied (r := ⟨.SPM_CTRL, 0x1004000, [(32, 0x100000)], 4, false, [SPM_CTRL.perf_clr, SPM_CTRL.steal_age], .core, .p0, .all⟩) rfl h hf v act

theorem write_SPM_CHUNK_OWN {s : State} {a : Agent} {i0 i1 : Nat} (hl : s.agentLive a = true) (hm : s.mayWrite a .p0 [i0, i1] = true) (ho : s.blockOff (0x1004100 + strideSum [0x100000, 0x4] [i0, i1]) = false) (h : Half) (v : Nat)
    (act : State → Wr → List Nat → State) :
    s.writeNamed a .SPM_CHUNK_OWN [i0, i1] h v act =
      act (s.noHalves a (0x1004100 + strideSum [0x100000, 0x4] [i0, i1]) 4)
        ⟨a, [SPM_CHUNK_OWN.assigned, SPM_CHUNK_OWN.shared, SPM_CHUNK_OWN.ctx], v % 2 ^ 32⟩ [i0, i1] :=
  State.writeNamed_word (r := ⟨.SPM_CHUNK_OWN, 0x1004100, [(32, 0x100000), (48, 0x4)], 4, false, [SPM_CHUNK_OWN.assigned, SPM_CHUNK_OWN.shared, SPM_CHUNK_OWN.ctx], .core, .p0, .all⟩) rfl (by decide) hl hm ho h v act

theorem denied_SPM_CHUNK_OWN {s : State} {a : Agent} {idx : List Nat} (h : (s.agentLive a && s.mayWrite a .p0 idx && !s.blockOff (0x1004100 + strideSum [0x100000, 0x4] idx)) = false) (hf : Half) (v : Nat)
    (act : State → Wr → List Nat → State) : s.writeNamed a .SPM_CHUNK_OWN idx hf v act = s :=
  State.writeNamed_denied (r := ⟨.SPM_CHUNK_OWN, 0x1004100, [(32, 0x100000), (48, 0x4)], 4, false, [SPM_CHUNK_OWN.assigned, SPM_CHUNK_OWN.shared, SPM_CHUNK_OWN.ctx], .core, .p0, .all⟩) rfl h hf v act

theorem write_SPM_WIN {s : State} {a : Agent} {i0 i1 : Nat} (hl : s.agentLive a = true) (hm : s.mayWrite a .p0 [i0, i1] = true) (ho : s.blockOff (0x1004200 + strideSum [0x100000, 0x8] [i0, i1]) = false) (v : Nat)
    (act : State → Wr → List Nat → State) :
    s.writeNamed a .SPM_WIN [i0, i1] .whole v act =
      act (s.noHalves a (0x1004200 + strideSum [0x100000, 0x8] [i0, i1]) 8)
        ⟨a, [SPM_WIN.open, SPM_WIN.close, SPM_WIN.rd, SPM_WIN.wr, SPM_WIN.ext, SPM_WIN.slot, SPM_WIN.part_mask, SPM_WIN.counter, SPM_WIN.handle, SPM_WIN.core_mask], v % 2 ^ 64⟩ [i0, i1] :=
  State.writeNamed_whole (r := ⟨.SPM_WIN, 0x1004200, [(32, 0x100000), (8, 0x8)], 8, false, [SPM_WIN.open, SPM_WIN.close, SPM_WIN.rd, SPM_WIN.wr, SPM_WIN.ext, SPM_WIN.slot, SPM_WIN.part_mask, SPM_WIN.counter, SPM_WIN.handle, SPM_WIN.core_mask], .core, .p0, .all⟩) rfl (by decide) (by decide) hl hm ho v act

theorem denied_SPM_WIN {s : State} {a : Agent} {idx : List Nat} (h : (s.agentLive a && s.mayWrite a .p0 idx && !s.blockOff (0x1004200 + strideSum [0x100000, 0x8] idx)) = false) (hf : Half) (v : Nat)
    (act : State → Wr → List Nat → State) : s.writeNamed a .SPM_WIN idx hf v act = s :=
  State.writeNamed_denied (r := ⟨.SPM_WIN, 0x1004200, [(32, 0x100000), (8, 0x8)], 8, false, [SPM_WIN.open, SPM_WIN.close, SPM_WIN.rd, SPM_WIN.wr, SPM_WIN.ext, SPM_WIN.slot, SPM_WIN.part_mask, SPM_WIN.counter, SPM_WIN.handle, SPM_WIN.core_mask], .core, .p0, .all⟩) rfl h hf v act

theorem write_SO_VALUE {s : State} {a : Agent} {i0 : Nat} (hl : s.agentLive a = true) (hm : s.mayWrite a .soRule [i0] = true) (ho : s.blockOff (0xD00000 + strideSum [0x8] [i0]) = false) (v : Nat)
    (act : State → Wr → List Nat → State) :
    s.writeNamed a .SO_VALUE [i0] .whole v act =
      act (s.noHalves a (0xD00000 + strideSum [0x8] [i0]) 8)
        ⟨a, [SO_VALUE.value], v % 2 ^ 64⟩ [i0] :=
  State.writeNamed_whole (r := ⟨.SO_VALUE, 0xD00000, [(16384, 0x8)], 8, false, [SO_VALUE.value], .device, .soRule, .soRule⟩) rfl (by decide) (by decide) hl hm ho v act

theorem denied_SO_VALUE {s : State} {a : Agent} {idx : List Nat} (h : (s.agentLive a && s.mayWrite a .soRule idx && !s.blockOff (0xD00000 + strideSum [0x8] idx)) = false) (hf : Half) (v : Nat)
    (act : State → Wr → List Nat → State) : s.writeNamed a .SO_VALUE idx hf v act = s :=
  State.writeNamed_denied (r := ⟨.SO_VALUE, 0xD00000, [(16384, 0x8)], 8, false, [SO_VALUE.value], .device, .soRule, .soRule⟩) rfl h hf v act

theorem write_SO_CTRL {s : State} {a : Agent} (hl : s.agentLive a = true) (hm : s.mayWrite a .any [] = true) (v : Nat)
    (act : State → Wr → List Nat → State) :
    s.writeNamed a .SO_CTRL [] .whole v act =
      act (s.noHalves a (0xD20000 + strideSum [] []) 8)
        ⟨a, [SO_CTRL.denied_count, SO_CTRL.reset, SO_CTRL.reset_err, SO_CTRL.object], v % 2 ^ 64⟩ [] :=
  State.writeNamed_whole (r := ⟨.SO_CTRL, 0xD20000, [], 8, false, [SO_CTRL.denied_count, SO_CTRL.reset, SO_CTRL.reset_err, SO_CTRL.object], .device, .any, .all⟩) rfl (by decide) (by decide) hl hm (by simp [State.blockOff, RegRow.addr, strideSum]) v act

theorem denied_SO_CTRL {s : State} {a : Agent} {idx : List Nat} (h : (s.agentLive a && s.mayWrite a .any idx && !s.blockOff (0xD20000 + strideSum [] idx)) = false) (hf : Half) (v : Nat)
    (act : State → Wr → List Nat → State) : s.writeNamed a .SO_CTRL idx hf v act = s :=
  State.writeNamed_denied (r := ⟨.SO_CTRL, 0xD20000, [], 8, false, [SO_CTRL.denied_count, SO_CTRL.reset, SO_CTRL.reset_err, SO_CTRL.object], .device, .any, .all⟩) rfl h hf v act

theorem write_SO_ATTR {s : State} {a : Agent} {i0 : Nat} (hl : s.agentLive a = true) (hm : s.mayWrite a .soRule [i0] = true) (ho : s.blockOff (0xD30000 + strideSum [0x4] [i0]) = false) (h : Half) (v : Nat)
    (act : State → Wr → List Nat → State) :
    s.writeNamed a .SO_ATTR [i0] h v act =
      act (s.noHalves a (0xD30000 + strideSum [0x4] [i0]) 4)
        ⟨a, [SO_ATTR.own_valid, SO_ATTR.owner, SO_ATTR.share, SO_ATTR.arm, SO_ATTR.sat, SO_ATTR.vector], v % 2 ^ 32⟩ [i0] :=
  State.writeNamed_word (r := ⟨.SO_ATTR, 0xD30000, [(16384, 0x4)], 4, false, [SO_ATTR.own_valid, SO_ATTR.owner, SO_ATTR.share, SO_ATTR.arm, SO_ATTR.sat, SO_ATTR.vector], .device, .soRule, .all⟩) rfl (by decide) hl hm ho h v act

theorem denied_SO_ATTR {s : State} {a : Agent} {idx : List Nat} (h : (s.agentLive a && s.mayWrite a .soRule idx && !s.blockOff (0xD30000 + strideSum [0x4] idx)) = false) (hf : Half) (v : Nat)
    (act : State → Wr → List Nat → State) : s.writeNamed a .SO_ATTR idx hf v act = s :=
  State.writeNamed_denied (r := ⟨.SO_ATTR, 0xD30000, [(16384, 0x4)], 4, false, [SO_ATTR.own_valid, SO_ATTR.owner, SO_ATTR.share, SO_ATTR.arm, SO_ATTR.sat, SO_ATTR.vector], .device, .soRule, .all⟩) rfl h hf v act

theorem write_SO_CTX_CFG {s : State} {a : Agent} {i0 : Nat} (hl : s.agentLive a = true) (hm : s.mayWrite a .p0 [i0] = true) (ho : s.blockOff (0xD21000 + strideSum [0x40] [i0]) = false) (v : Nat)
    (act : State → Wr → List Nat → State) :
    s.writeNamed a .SO_CTX_CFG [i0] .whole v act =
      act (s.noHalves a (0xD21000 + strideSum [0x40] [i0]) 8)
        ⟨a, [SO_CTX_CFG.save_off, SO_CTX_CFG.en, SO_CTX_CFG.part, SO_CTX_CFG.core], v % 2 ^ 64⟩ [i0] :=
  State.writeNamed_whole (r := ⟨.SO_CTX_CFG, 0xD21000, [(256, 0x40)], 8, false, [SO_CTX_CFG.save_off, SO_CTX_CFG.en, SO_CTX_CFG.part, SO_CTX_CFG.core], .device, .p0, .ctxOwnerOrP0⟩) rfl (by decide) (by decide) hl hm ho v act

theorem denied_SO_CTX_CFG {s : State} {a : Agent} {idx : List Nat} (h : (s.agentLive a && s.mayWrite a .p0 idx && !s.blockOff (0xD21000 + strideSum [0x40] idx)) = false) (hf : Half) (v : Nat)
    (act : State → Wr → List Nat → State) : s.writeNamed a .SO_CTX_CFG idx hf v act = s :=
  State.writeNamed_denied (r := ⟨.SO_CTX_CFG, 0xD21000, [(256, 0x40)], 8, false, [SO_CTX_CFG.save_off, SO_CTX_CFG.en, SO_CTX_CFG.part, SO_CTX_CFG.core], .device, .p0, .ctxOwnerOrP0⟩) rfl h hf v act

theorem write_SO_CTX_BIND {s : State} {a : Agent} {i0 : Nat} (hl : s.agentLive a = true) (hm : s.mayWrite a .ctxOwner [i0] = true) (ho : s.blockOff (0xD21008 + strideSum [0x40] [i0]) = false) (v : Nat)
    (act : State → Wr → List Nat → State) :
    s.writeNamed a .SO_CTX_BIND [i0] .whole v act =
      act (s.noHalves a (0xD21008 + strideSum [0x40] [i0]) 8)
        ⟨a, [SO_CTX_BIND.bind, SO_CTX_BIND.prio, SO_CTX_BIND.prog], v % 2 ^ 64⟩ [i0] :=
  State.writeNamed_whole (r := ⟨.SO_CTX_BIND, 0xD21008, [(256, 0x40)], 8, false, [SO_CTX_BIND.bind, SO_CTX_BIND.prio, SO_CTX_BIND.prog], .device, .ctxOwner, .ctxOwnerOrP0⟩) rfl (by decide) (by decide) hl hm ho v act

theorem denied_SO_CTX_BIND {s : State} {a : Agent} {idx : List Nat} (h : (s.agentLive a && s.mayWrite a .ctxOwner idx && !s.blockOff (0xD21008 + strideSum [0x40] idx)) = false) (hf : Half) (v : Nat)
    (act : State → Wr → List Nat → State) : s.writeNamed a .SO_CTX_BIND idx hf v act = s :=
  State.writeNamed_denied (r := ⟨.SO_CTX_BIND, 0xD21008, [(256, 0x40)], 8, false, [SO_CTX_BIND.bind, SO_CTX_BIND.prio, SO_CTX_BIND.prog], .device, .ctxOwner, .ctxOwnerOrP0⟩) rfl h hf v act

theorem write_SO_CTX_STATE {s : State} {a : Agent} {i0 : Nat} (hl : s.agentLive a = true) (hm : s.mayWrite a .ctxOwner [i0] = true) (ho : s.blockOff (0xD21010 + strideSum [0x40] [i0]) = false) (v : Nat)
    (act : State → Wr → List Nat → State) :
    s.writeNamed a .SO_CTX_STATE [i0] .whole v act =
      act (s.noHalves a (0xD21010 + strideSum [0x40] [i0]) 8)
        ⟨a, [SO_CTX_STATE.resume, SO_CTX_STATE.kill, SO_CTX_STATE.bind_err, SO_CTX_STATE.fault_so_en, SO_CTX_STATE.fault_so, SO_CTX_STATE.slot, SO_CTX_STATE.resident, SO_CTX_STATE.state], v % 2 ^ 64⟩ [i0] :=
  State.writeNamed_whole (r := ⟨.SO_CTX_STATE, 0xD21010, [(256, 0x40)], 8, false, [SO_CTX_STATE.resume, SO_CTX_STATE.kill, SO_CTX_STATE.bind_err, SO_CTX_STATE.fault_so_en, SO_CTX_STATE.fault_so, SO_CTX_STATE.slot, SO_CTX_STATE.resident, SO_CTX_STATE.state], .device, .ctxOwner, .ctxOwnerOrP0⟩) rfl (by decide) (by decide) hl hm ho v act

theorem denied_SO_CTX_STATE {s : State} {a : Agent} {idx : List Nat} (h : (s.agentLive a && s.mayWrite a .ctxOwner idx && !s.blockOff (0xD21010 + strideSum [0x40] idx)) = false) (hf : Half) (v : Nat)
    (act : State → Wr → List Nat → State) : s.writeNamed a .SO_CTX_STATE idx hf v act = s :=
  State.writeNamed_denied (r := ⟨.SO_CTX_STATE, 0xD21010, [(256, 0x40)], 8, false, [SO_CTX_STATE.resume, SO_CTX_STATE.kill, SO_CTX_STATE.bind_err, SO_CTX_STATE.fault_so_en, SO_CTX_STATE.fault_so, SO_CTX_STATE.slot, SO_CTX_STATE.resident, SO_CTX_STATE.state], .device, .ctxOwner, .ctxOwnerOrP0⟩) rfl h hf v act

theorem write_CORE_CTR_GRP {s : State} {a : Agent} {i0 i1 : Nat} (hl : s.agentLive a = true) (hm : s.mayWrite a .p0 [i0, i1] = true) (ho : s.blockOff (0x10000C0 + strideSum [0x100000, 0x4] [i0, i1]) = false) (h : Half) (v : Nat)
    (act : State → Wr → List Nat → State) :
    s.writeNamed a .CORE_CTR_GRP [i0, i1] h v act =
      act (s.noHalves a (0x10000C0 + strideSum [0x100000, 0x4] [i0, i1]) 4)
        ⟨a, [CORE_CTR_GRP.assigned, CORE_CTR_GRP.shared, CORE_CTR_GRP.ctx], v % 2 ^ 32⟩ [i0, i1] :=
  State.writeNamed_word (r := ⟨.CORE_CTR_GRP, 0x10000C0, [(32, 0x100000), (8, 0x4)], 4, false, [CORE_CTR_GRP.assigned, CORE_CTR_GRP.shared, CORE_CTR_GRP.ctx], .core, .p0, .all⟩) rfl (by decide) hl hm ho h v act

theorem denied_CORE_CTR_GRP {s : State} {a : Agent} {idx : List Nat} (h : (s.agentLive a && s.mayWrite a .p0 idx && !s.blockOff (0x10000C0 + strideSum [0x100000, 0x4] idx)) = false) (hf : Half) (v : Nat)
    (act : State → Wr → List Nat → State) : s.writeNamed a .CORE_CTR_GRP idx hf v act = s :=
  State.writeNamed_denied (r := ⟨.CORE_CTR_GRP, 0x10000C0, [(32, 0x100000), (8, 0x4)], 4, false, [CORE_CTR_GRP.assigned, CORE_CTR_GRP.shared, CORE_CTR_GRP.ctx], .core, .p0, .all⟩) rfl h hf v act

theorem write_DMA_OWN {s : State} {a : Agent} {i0 : Nat} (hl : s.agentLive a = true) (hm : s.mayWrite a .p0 [i0] = true) (ho : s.blockOff (0xB00800 + strideSum [0x4] [i0]) = false) (h : Half) (v : Nat)
    (act : State → Wr → List Nat → State) :
    s.writeNamed a .DMA_OWN [i0] h v act =
      act (s.noHalves a (0xB00800 + strideSum [0x4] [i0]) 4)
        ⟨a, [DMA_OWN.part], v % 2 ^ 32⟩ [i0] :=
  State.writeNamed_word (r := ⟨.DMA_OWN, 0xB00800, [(32, 0x4)], 4, false, [DMA_OWN.part], .device, .p0, .all⟩) rfl (by decide) hl hm ho h v act

theorem denied_DMA_OWN {s : State} {a : Agent} {idx : List Nat} (h : (s.agentLive a && s.mayWrite a .p0 idx && !s.blockOff (0xB00800 + strideSum [0x4] idx)) = false) (hf : Half) (v : Nat)
    (act : State → Wr → List Nat → State) : s.writeNamed a .DMA_OWN idx hf v act = s :=
  State.writeNamed_denied (r := ⟨.DMA_OWN, 0xB00800, [(32, 0x4)], 4, false, [DMA_OWN.part], .device, .p0, .all⟩) rfl h hf v act

theorem write_DMA_PRINT_RING {s : State} {a : Agent} {i0 : Nat} (hl : s.agentLive a = true) (hm : s.mayWrite a .p0 [i0] = true) (ho : s.blockOff (0xB01000 + strideSum [0x20] [i0]) = false) (v : Nat)
    (act : State → Wr → List Nat → State) :
    s.writeNamed a .DMA_PRINT_RING [i0] .whole v act =
      act (s.noHalves a (0xB01000 + strideSum [0x20] [i0]) 8)
        ⟨a, [DMA_PRINT_RING.en, DMA_PRINT_RING.slot_log2, DMA_PRINT_RING.size_log2, DMA_PRINT_RING.base], v % 2 ^ 64⟩ [i0] :=
  State.writeNamed_whole (r := ⟨.DMA_PRINT_RING, 0xB01000, [(4, 0x20)], 8, false, [DMA_PRINT_RING.en, DMA_PRINT_RING.base, DMA_PRINT_RING.slot_log2, DMA_PRINT_RING.size_log2], .device, .p0, .all⟩) rfl (by decide) (by decide) hl hm ho v act

theorem denied_DMA_PRINT_RING {s : State} {a : Agent} {idx : List Nat} (h : (s.agentLive a && s.mayWrite a .p0 idx && !s.blockOff (0xB01000 + strideSum [0x20] idx)) = false) (hf : Half) (v : Nat)
    (act : State → Wr → List Nat → State) : s.writeNamed a .DMA_PRINT_RING idx hf v act = s :=
  State.writeNamed_denied (r := ⟨.DMA_PRINT_RING, 0xB01000, [(4, 0x20)], 8, false, [DMA_PRINT_RING.en, DMA_PRINT_RING.base, DMA_PRINT_RING.slot_log2, DMA_PRINT_RING.size_log2], .device, .p0, .all⟩) rfl h hf v act

theorem write_DMA_CTRL {s : State} {a : Agent} {i0 : Nat} (hl : s.agentLive a = true) (hm : s.mayWrite a .channelOwner [i0] = true) (ho : s.blockOff (0xB00018 + strideSum [0x40] [i0]) = false) (v : Nat)
    (act : State → Wr → List Nat → State) :
    s.writeNamed a .DMA_CTRL [i0] .whole v act =
      act (s.noHalves a (0xB00018 + strideSum [0x40] [i0]) 8)
        ⟨a, [DMA_CTRL.start, DMA_CTRL.bg, DMA_CTRL.prio, DMA_CTRL.swap, DMA_CTRL.mode, DMA_CTRL.cfmt, DMA_CTRL.share, DMA_CTRL.so_en, DMA_CTRL.so_on_halt, DMA_CTRL.bell_en, DMA_CTRL.bell_w, DMA_CTRL.done_so], v % 2 ^ 64⟩ [i0] :=
  State.writeNamed_whole (r := ⟨.DMA_CTRL, 0xB00018, [(32, 0x40)], 8, false, [DMA_CTRL.start, DMA_CTRL.bg, DMA_CTRL.prio, DMA_CTRL.swap, DMA_CTRL.mode, DMA_CTRL.cfmt, DMA_CTRL.share, DMA_CTRL.so_en, DMA_CTRL.done_so, DMA_CTRL.so_on_halt, DMA_CTRL.bell_en, DMA_CTRL.bell_w], .device, .channelOwner, .all⟩) rfl (by decide) (by decide) hl hm ho v act

theorem denied_DMA_CTRL {s : State} {a : Agent} {idx : List Nat} (h : (s.agentLive a && s.mayWrite a .channelOwner idx && !s.blockOff (0xB00018 + strideSum [0x40] idx)) = false) (hf : Half) (v : Nat)
    (act : State → Wr → List Nat → State) : s.writeNamed a .DMA_CTRL idx hf v act = s :=
  State.writeNamed_denied (r := ⟨.DMA_CTRL, 0xB00018, [(32, 0x40)], 8, false, [DMA_CTRL.start, DMA_CTRL.bg, DMA_CTRL.prio, DMA_CTRL.swap, DMA_CTRL.mode, DMA_CTRL.cfmt, DMA_CTRL.share, DMA_CTRL.so_en, DMA_CTRL.done_so, DMA_CTRL.so_on_halt, DMA_CTRL.bell_en, DMA_CTRL.bell_w], .device, .channelOwner, .all⟩) rfl h hf v act

theorem write_DMA_PRINT_PTR {s : State} {a : Agent} {i0 : Nat} (hl : s.agentLive a = true) (hm : s.mayWrite a .p0OrPart [i0] = true) (ho : s.blockOff (0xB01008 + strideSum [0x20] [i0]) = false) (v : Nat)
    (act : State → Wr → List Nat → State) :
    s.writeNamed a .DMA_PRINT_PTR [i0] .whole v act =
      act (s.noHalves a (0xB01008 + strideSum [0x20] [i0]) 8)
        ⟨a, [DMA_PRINT_PTR.head, DMA_PRINT_PTR.tail], v % 2 ^ 64⟩ [i0] :=
  State.writeNamed_whole (r := ⟨.DMA_PRINT_PTR, 0xB01008, [(4, 0x20)], 8, false, [DMA_PRINT_PTR.head, DMA_PRINT_PTR.tail], .device, .p0OrPart, .p0OrPart⟩) rfl (by decide) (by decide) hl hm ho v act

theorem denied_DMA_PRINT_PTR {s : State} {a : Agent} {idx : List Nat} (h : (s.agentLive a && s.mayWrite a .p0OrPart idx && !s.blockOff (0xB01008 + strideSum [0x20] idx)) = false) (hf : Half) (v : Nat)
    (act : State → Wr → List Nat → State) : s.writeNamed a .DMA_PRINT_PTR idx hf v act = s :=
  State.writeNamed_denied (r := ⟨.DMA_PRINT_PTR, 0xB01008, [(4, 0x20)], 8, false, [DMA_PRINT_PTR.head, DMA_PRINT_PTR.tail], .device, .p0OrPart, .p0OrPart⟩) rfl h hf v act

theorem write_MEM_CFG {s : State} {a : Agent} (hl : s.agentLive a = true) (hm : s.mayWrite a .p0 [] = true) (h : Half) (v : Nat)
    (act : State → Wr → List Nat → State) :
    s.writeNamed a .MEM_CFG [] h v act =
      act (s.noHalves a (0xA00000 + strideSum [] []) 4)
        ⟨a, [MEM_CFG.trained, MEM_CFG.installed_gib, MEM_CFG.cfg_err, MEM_CFG.ranks, MEM_CFG.density, MEM_CFG.rate], v % 2 ^ 32⟩ [] :=
  State.writeNamed_word (r := ⟨.MEM_CFG, 0xA00000, [], 4, false, [MEM_CFG.trained, MEM_CFG.installed_gib, MEM_CFG.cfg_err, MEM_CFG.ranks, MEM_CFG.density, MEM_CFG.rate], .device, .p0, .all⟩) rfl (by decide) hl hm (by simp [State.blockOff, RegRow.addr, strideSum]) h v act

theorem denied_MEM_CFG {s : State} {a : Agent} {idx : List Nat} (h : (s.agentLive a && s.mayWrite a .p0 idx && !s.blockOff (0xA00000 + strideSum [] idx)) = false) (hf : Half) (v : Nat)
    (act : State → Wr → List Nat → State) : s.writeNamed a .MEM_CFG idx hf v act = s :=
  State.writeNamed_denied (r := ⟨.MEM_CFG, 0xA00000, [], 4, false, [MEM_CFG.trained, MEM_CFG.installed_gib, MEM_CFG.cfg_err, MEM_CFG.ranks, MEM_CFG.density, MEM_CFG.rate], .device, .p0, .all⟩) rfl h hf v act

theorem write_MEM_ZERO {s : State} {a : Agent} (hl : s.agentLive a = true) (hm : s.mayWrite a .p0 [] = true) (v : Nat)
    (act : State → Wr → List Nat → State) :
    s.writeNamed a .MEM_ZERO [] .whole v act =
      act (s.noHalves a (0xA00020 + strideSum [] []) 8)
        ⟨a, [MEM_ZERO.start, MEM_ZERO.busy, MEM_ZERO.nblocks, MEM_ZERO.first], v % 2 ^ 64⟩ [] :=
  State.writeNamed_whole (r := ⟨.MEM_ZERO, 0xA00020, [], 8, false, [MEM_ZERO.start, MEM_ZERO.busy, MEM_ZERO.nblocks, MEM_ZERO.first], .device, .p0, .all⟩) rfl (by decide) (by decide) hl hm (by simp [State.blockOff, RegRow.addr, strideSum]) v act

theorem denied_MEM_ZERO {s : State} {a : Agent} {idx : List Nat} (h : (s.agentLive a && s.mayWrite a .p0 idx && !s.blockOff (0xA00020 + strideSum [] idx)) = false) (hf : Half) (v : Nat)
    (act : State → Wr → List Nat → State) : s.writeNamed a .MEM_ZERO idx hf v act = s :=
  State.writeNamed_denied (r := ⟨.MEM_ZERO, 0xA00020, [], 8, false, [MEM_ZERO.start, MEM_ZERO.busy, MEM_ZERO.nblocks, MEM_ZERO.first], .device, .p0, .all⟩) rfl h hf v act

theorem write_ECC_REMAP_DRAM {s : State} {a : Agent} {i0 i1 : Nat} (hl : s.agentLive a = true) (hm : s.mayWrite a .p0 [i0, i1] = true) (ho : s.blockOff (0xA10000 + strideSum [0x100, 0x8] [i0, i1]) = false) (v : Nat)
    (act : State → Wr → List Nat → State) :
    s.writeNamed a .ECC_REMAP_DRAM [i0, i1] .whole v act =
      act (s.noHalves a (0xA10000 + strideSum [0x100, 0x8] [i0, i1]) 8)
        ⟨a, [ECC_REMAP_DRAM.valid, ECC_REMAP_DRAM.page], v % 2 ^ 64⟩ [i0, i1] :=
  State.writeNamed_whole (r := ⟨.ECC_REMAP_DRAM, 0xA10000, [(16, 0x100), (32, 0x8)], 8, false, [ECC_REMAP_DRAM.valid, ECC_REMAP_DRAM.page], .remap, .p0, .all⟩) rfl (by decide) (by decide) hl hm ho v act

theorem denied_ECC_REMAP_DRAM {s : State} {a : Agent} {idx : List Nat} (h : (s.agentLive a && s.mayWrite a .p0 idx && !s.blockOff (0xA10000 + strideSum [0x100, 0x8] idx)) = false) (hf : Half) (v : Nat)
    (act : State → Wr → List Nat → State) : s.writeNamed a .ECC_REMAP_DRAM idx hf v act = s :=
  State.writeNamed_denied (r := ⟨.ECC_REMAP_DRAM, 0xA10000, [(16, 0x100), (32, 0x8)], 8, false, [ECC_REMAP_DRAM.valid, ECC_REMAP_DRAM.page], .remap, .p0, .all⟩) rfl h hf v act

theorem write_ECC_REMAP_SRAM {s : State} {a : Agent} {i0 i1 : Nat} (hl : s.agentLive a = true) (hm : s.mayWrite a .p0 [i0, i1] = true) (ho : s.blockOff (0xA20000 + strideSum [0x80, 0x8] [i0, i1]) = false) (v : Nat)
    (act : State → Wr → List Nat → State) :
    s.writeNamed a .ECC_REMAP_SRAM [i0, i1] .whole v act =
      act (s.noHalves a (0xA20000 + strideSum [0x80, 0x8] [i0, i1]) 8)
        ⟨a, [ECC_REMAP_SRAM.valid, ECC_REMAP_SRAM.line], v % 2 ^ 64⟩ [i0, i1] :=
  State.writeNamed_whole (r := ⟨.ECC_REMAP_SRAM, 0xA20000, [(613, 0x80), (16, 0x8)], 8, false, [ECC_REMAP_SRAM.valid, ECC_REMAP_SRAM.line], .remap, .p0, .all⟩) rfl (by decide) (by decide) hl hm ho v act

theorem denied_ECC_REMAP_SRAM {s : State} {a : Agent} {idx : List Nat} (h : (s.agentLive a && s.mayWrite a .p0 idx && !s.blockOff (0xA20000 + strideSum [0x80, 0x8] idx)) = false) (hf : Half) (v : Nat)
    (act : State → Wr → List Nat → State) : s.writeNamed a .ECC_REMAP_SRAM idx hf v act = s :=
  State.writeNamed_denied (r := ⟨.ECC_REMAP_SRAM, 0xA20000, [(613, 0x80), (16, 0x8)], 8, false, [ECC_REMAP_SRAM.valid, ECC_REMAP_SRAM.line], .remap, .p0, .all⟩) rfl h hf v act

theorem write_CFG_TXN {s : State} {a : Agent} (hl : s.agentLive a = true) (hm : s.mayWrite a .any [] = true) (h : Half) (v : Nat)
    (act : State → Wr → List Nat → State) :
    s.writeNamed a .CFG_TXN [] h v act =
      act (s.noHalves a (0x100000 + strideSum [] []) 4)
        ⟨a, [CFG_TXN.begin, CFG_TXN.commit, CFG_TXN.rollback, CFG_TXN.when, CFG_TXN.staged], v % 2 ^ 32⟩ [] :=
  State.writeNamed_word (r := ⟨.CFG_TXN, 0x100000, [], 4, true, [CFG_TXN.begin, CFG_TXN.commit, CFG_TXN.rollback, CFG_TXN.when, CFG_TXN.staged], .device, .any, .all⟩) rfl (by decide) hl hm (by simp [State.blockOff, RegRow.addr, strideSum]) h v act

theorem denied_CFG_TXN {s : State} {a : Agent} {idx : List Nat} (h : (s.agentLive a && s.mayWrite a .any idx && !s.blockOff (0x100000 + strideSum [] idx)) = false) (hf : Half) (v : Nat)
    (act : State → Wr → List Nat → State) : s.writeNamed a .CFG_TXN idx hf v act = s :=
  State.writeNamed_denied (r := ⟨.CFG_TXN, 0x100000, [], 4, true, [CFG_TXN.begin, CFG_TXN.commit, CFG_TXN.rollback, CFG_TXN.when, CFG_TXN.staged], .device, .any, .all⟩) rfl h hf v act

theorem write_HOST_FN_BIND {s : State} {a : Agent} {i0 : Nat} (hl : s.agentLive a = true) (hm : s.mayWrite a .p0 [i0] = true) (ho : s.blockOff (0xC00010 + strideSum [0x4] [i0]) = false) (h : Half) (v : Nat)
    (act : State → Wr → List Nat → State) :
    s.writeNamed a .HOST_FN_BIND [i0] h v act =
      act (s.noHalves a (0xC00010 + strideSum [0x4] [i0]) 4)
        ⟨a, [HOST_FN_BIND.part], v % 2 ^ 32⟩ [i0] :=
  State.writeNamed_word (r := ⟨.HOST_FN_BIND, 0xC00010, [(8, 0x4)], 4, false, [HOST_FN_BIND.part], .device, .p0, .all⟩) rfl (by decide) hl hm ho h v act

theorem denied_HOST_FN_BIND {s : State} {a : Agent} {idx : List Nat} (h : (s.agentLive a && s.mayWrite a .p0 idx && !s.blockOff (0xC00010 + strideSum [0x4] idx)) = false) (hf : Half) (v : Nat)
    (act : State → Wr → List Nat → State) : s.writeNamed a .HOST_FN_BIND idx hf v act = s :=
  State.writeNamed_denied (r := ⟨.HOST_FN_BIND, 0xC00010, [(8, 0x4)], 4, false, [HOST_FN_BIND.part], .device, .p0, .all⟩) rfl h hf v act

theorem write_HOST_PART_CTRL {s : State} {a : Agent} {i0 : Nat} (hl : s.agentLive a = true) (hm : s.mayWrite a .p0 [i0] = true) (ho : s.blockOff (0xC00100 + strideSum [0x20] [i0]) = false) (h : Half) (v : Nat)
    (act : State → Wr → List Nat → State) :
    s.writeNamed a .HOST_PART_CTRL [i0] h v act =
      act (s.noHalves a (0xC00100 + strideSum [0x20] [i0]) 4)
        ⟨a, [HOST_PART_CTRL.reset, HOST_PART_CTRL.stopped, HOST_PART_CTRL.share], v % 2 ^ 32⟩ [i0] :=
  State.writeNamed_word (r := ⟨.HOST_PART_CTRL, 0xC00100, [(4, 0x20)], 4, false, [HOST_PART_CTRL.reset, HOST_PART_CTRL.stopped, HOST_PART_CTRL.share], .device, .p0, .all⟩) rfl (by decide) hl hm ho h v act

theorem denied_HOST_PART_CTRL {s : State} {a : Agent} {idx : List Nat} (h : (s.agentLive a && s.mayWrite a .p0 idx && !s.blockOff (0xC00100 + strideSum [0x20] idx)) = false) (hf : Half) (v : Nat)
    (act : State → Wr → List Nat → State) : s.writeNamed a .HOST_PART_CTRL idx hf v act = s :=
  State.writeNamed_denied (r := ⟨.HOST_PART_CTRL, 0xC00100, [(4, 0x20)], 4, false, [HOST_PART_CTRL.reset, HOST_PART_CTRL.stopped, HOST_PART_CTRL.share], .device, .p0, .all⟩) rfl h hf v act

theorem write_HOST_MAP {s : State} {a : Agent} {i0 i1 : Nat} (hl : s.agentLive a = true) (hm : s.mayWrite a .p0 [i0, i1] = true) (ho : s.blockOff (0xC10000 + strideSum [0x8000, 0x8] [i0, i1]) = false) (v : Nat)
    (act : State → Wr → List Nat → State) :
    s.writeNamed a .HOST_MAP [i0, i1] .whole v act =
      act (s.noHalves a (0xC10000 + strideSum [0x8000, 0x8] [i0, i1]) 8)
        ⟨a, [HOST_MAP.valid, HOST_MAP.rd, HOST_MAP.wr, HOST_MAP.page], v % 2 ^ 64⟩ [i0, i1] :=
  State.writeNamed_whole (r := ⟨.HOST_MAP, 0xC10000, [(4, 0x8000), (4096, 0x8)], 8, false, [HOST_MAP.valid, HOST_MAP.rd, HOST_MAP.wr, HOST_MAP.page], .device, .p0, .ownPart⟩) rfl (by decide) (by decide) hl hm ho v act

theorem denied_HOST_MAP {s : State} {a : Agent} {idx : List Nat} (h : (s.agentLive a && s.mayWrite a .p0 idx && !s.blockOff (0xC10000 + strideSum [0x8000, 0x8] idx)) = false) (hf : Half) (v : Nat)
    (act : State → Wr → List Nat → State) : s.writeNamed a .HOST_MAP idx hf v act = s :=
  State.writeNamed_denied (r := ⟨.HOST_MAP, 0xC10000, [(4, 0x8000), (4096, 0x8)], 8, false, [HOST_MAP.valid, HOST_MAP.rd, HOST_MAP.wr, HOST_MAP.page], .device, .p0, .ownPart⟩) rfl h hf v act

theorem write_SAFE_CTRL {s : State} {a : Agent} (hl : s.agentLive a = true) (hm : s.mayWrite a .safetyOwner [] = true) (ho : s.blockOff (0x400000 + strideSum [] []) = false) (h : Half) (v : Nat)
    (act : State → Wr → List Nat → State) :
    s.writeNamed a .SAFE_CTRL [] h v act =
      act (s.noHalves a (0x400000 + strideSum [] []) 4)
        ⟨a, [SAFE_CTRL.key, SAFE_CTRL.restart, SAFE_CTRL.force, SAFE_CTRL.kick, SAFE_CTRL.kick_ms], v % 2 ^ 32⟩ [] :=
  State.writeNamed_word (r := ⟨.SAFE_CTRL, 0x400000, [], 4, false, [SAFE_CTRL.key, SAFE_CTRL.restart, SAFE_CTRL.force, SAFE_CTRL.kick, SAFE_CTRL.kick_ms], .device, .safetyOwner, .all⟩) rfl (by decide) hl hm ho h v act

theorem denied_SAFE_CTRL {s : State} {a : Agent} {idx : List Nat} (h : (s.agentLive a && s.mayWrite a .safetyOwner idx && !s.blockOff (0x400000 + strideSum [] idx)) = false) (hf : Half) (v : Nat)
    (act : State → Wr → List Nat → State) : s.writeNamed a .SAFE_CTRL idx hf v act = s :=
  State.writeNamed_denied (r := ⟨.SAFE_CTRL, 0x400000, [], 4, false, [SAFE_CTRL.key, SAFE_CTRL.restart, SAFE_CTRL.force, SAFE_CTRL.kick, SAFE_CTRL.kick_ms], .device, .safetyOwner, .all⟩) rfl h hf v act

theorem write_SAFE_STEST {s : State} {a : Agent} (hl : s.agentLive a = true) (hm : s.mayWrite a .p0OrSafetyOwner [] = true) (ho : s.blockOff (0x400030 + strideSum [] []) = false) (h : Half) (v : Nat)
    (act : State → Wr → List Nat → State) :
    s.writeNamed a .SAFE_STEST [] h v act =
      act (s.noHalves a (0x400030 + strideSum [] []) 4)
        ⟨a, [SAFE_STEST.start, SAFE_STEST.release, SAFE_STEST.max_out, SAFE_STEST.core], v % 2 ^ 32⟩ [] :=
  State.writeNamed_word (r := ⟨.SAFE_STEST, 0x400030, [], 4, false, [SAFE_STEST.start, SAFE_STEST.release, SAFE_STEST.max_out, SAFE_STEST.core], .device, .p0OrSafetyOwner, .all⟩) rfl (by decide) hl hm ho h v act

theorem denied_SAFE_STEST {s : State} {a : Agent} {idx : List Nat} (h : (s.agentLive a && s.mayWrite a .p0OrSafetyOwner idx && !s.blockOff (0x400030 + strideSum [] idx)) = false) (hf : Half) (v : Nat)
    (act : State → Wr → List Nat → State) : s.writeNamed a .SAFE_STEST idx hf v act = s :=
  State.writeNamed_denied (r := ⟨.SAFE_STEST, 0x400030, [], 4, false, [SAFE_STEST.start, SAFE_STEST.release, SAFE_STEST.max_out, SAFE_STEST.core], .device, .p0OrSafetyOwner, .all⟩) rfl h hf v act

theorem write_PWR_CORE_GATE {s : State} {a : Agent} (hl : s.agentLive a = true) (hm : s.mayWrite a .p0 [] = true) (v : Nat)
    (act : State → Wr → List Nat → State) :
    s.writeNamed a .PWR_CORE_GATE [] .whole v act =
      act (s.noHalves a (0x200020 + strideSum [] []) 8)
        ⟨a, [PWR_CORE_GATE.ready, PWR_CORE_GATE.gate], v % 2 ^ 64⟩ [] :=
  State.writeNamed_whole (r := ⟨.PWR_CORE_GATE, 0x200020, [], 8, false, [PWR_CORE_GATE.ready, PWR_CORE_GATE.gate], .device, .p0, .all⟩) rfl (by decide) (by decide) hl hm (by simp [State.blockOff, RegRow.addr, strideSum]) v act

theorem denied_PWR_CORE_GATE {s : State} {a : Agent} {idx : List Nat} (h : (s.agentLive a && s.mayWrite a .p0 idx && !s.blockOff (0x200020 + strideSum [] idx)) = false) (hf : Half) (v : Nat)
    (act : State → Wr → List Nat → State) : s.writeNamed a .PWR_CORE_GATE idx hf v act = s :=
  State.writeNamed_denied (r := ⟨.PWR_CORE_GATE, 0x200020, [], 8, false, [PWR_CORE_GATE.ready, PWR_CORE_GATE.gate], .device, .p0, .all⟩) rfl h hf v act

theorem write_PWR_SLEEP {s : State} {a : Agent} (hl : s.agentLive a = true) (hm : s.mayWrite a .p0 [] = true) (v : Nat)
    (act : State → Wr → List Nat → State) :
    s.writeNamed a .PWR_SLEEP [] .whole v act =
      act (s.noHalves a (0x200030 + strideSum [] []) 8)
        ⟨a, [PWR_SLEEP.sleep, PWR_SLEEP.sleep_err, PWR_SLEEP.last_wake, PWR_SLEEP.wake_en], v % 2 ^ 64⟩ [] :=
  State.writeNamed_whole (r := ⟨.PWR_SLEEP, 0x200030, [], 8, false, [PWR_SLEEP.sleep, PWR_SLEEP.sleep_err, PWR_SLEEP.last_wake, PWR_SLEEP.wake_en], .safelight, .p0, .all⟩) rfl (by decide) (by decide) hl hm (by simp [State.blockOff, RegRow.addr, strideSum]) v act

theorem denied_PWR_SLEEP {s : State} {a : Agent} {idx : List Nat} (h : (s.agentLive a && s.mayWrite a .p0 idx && !s.blockOff (0x200030 + strideSum [] idx)) = false) (hf : Half) (v : Nat)
    (act : State → Wr → List Nat → State) : s.writeNamed a .PWR_SLEEP idx hf v act = s :=
  State.writeNamed_denied (r := ⟨.PWR_SLEEP, 0x200030, [], 8, false, [PWR_SLEEP.sleep, PWR_SLEEP.sleep_err, PWR_SLEEP.last_wake, PWR_SLEEP.wake_en], .safelight, .p0, .all⟩) rfl h hf v act

theorem write_BOOT_CTRL {s : State} {a : Agent} (hl : s.agentLive a = true) (hm : s.mayWrite a .p0 [] = true) (v : Nat)
    (act : State → Wr → List Nat → State) :
    s.writeNamed a .BOOT_CTRL [] .whole v act =
      act (s.noHalves a (0x300008 + strideSum [] []) 8)
        ⟨a, [BOOT_CTRL.done, BOOT_CTRL.sw_reset, BOOT_CTRL.key, BOOT_CTRL.next_slot], v % 2 ^ 64⟩ [] :=
  State.writeNamed_whole (r := ⟨.BOOT_CTRL, 0x300008, [], 8, false, [BOOT_CTRL.done, BOOT_CTRL.sw_reset, BOOT_CTRL.key, BOOT_CTRL.next_slot], .safelight, .p0, .all⟩) rfl (by decide) (by decide) hl hm (by simp [State.blockOff, RegRow.addr, strideSum]) v act

theorem denied_BOOT_CTRL {s : State} {a : Agent} {idx : List Nat} (h : (s.agentLive a && s.mayWrite a .p0 idx && !s.blockOff (0x300008 + strideSum [] idx)) = false) (hf : Half) (v : Nat)
    (act : State → Wr → List Nat → State) : s.writeNamed a .BOOT_CTRL idx hf v act = s :=
  State.writeNamed_denied (r := ⟨.BOOT_CTRL, 0x300008, [], 8, false, [BOOT_CTRL.done, BOOT_CTRL.sw_reset, BOOT_CTRL.key, BOOT_CTRL.next_slot], .safelight, .p0, .all⟩) rfl h hf v act

theorem write_SEC_LOCK {s : State} {a : Agent} (hl : s.agentLive a = true) (hm : s.mayWrite a .p0 [] = true) (h : Half) (v : Nat)
    (act : State → Wr → List Nat → State) :
    s.writeNamed a .SEC_LOCK [] h v act =
      act (s.noHalves a (0x300040 + strideSum [] []) 4)
        ⟨a, [SEC_LOCK.lock, SEC_LOCK.otp_err, SEC_LOCK.jtag_open, SEC_LOCK.locked], v % 2 ^ 32⟩ [] :=
  State.writeNamed_word (r := ⟨.SEC_LOCK, 0x300040, [], 4, false, [SEC_LOCK.lock, SEC_LOCK.otp_err, SEC_LOCK.jtag_open, SEC_LOCK.locked], .device, .p0, .all⟩) rfl (by decide) hl hm (by simp [State.blockOff, RegRow.addr, strideSum]) h v act

theorem denied_SEC_LOCK {s : State} {a : Agent} {idx : List Nat} (h : (s.agentLive a && s.mayWrite a .p0 idx && !s.blockOff (0x300040 + strideSum [] idx)) = false) (hf : Half) (v : Nat)
    (act : State → Wr → List Nat → State) : s.writeNamed a .SEC_LOCK idx hf v act = s :=
  State.writeNamed_denied (r := ⟨.SEC_LOCK, 0x300040, [], 4, false, [SEC_LOCK.lock, SEC_LOCK.otp_err, SEC_LOCK.jtag_open, SEC_LOCK.locked], .device, .p0, .all⟩) rfl h hf v act

theorem write_SEC_KEY {s : State} {a : Agent} {i0 : Nat} (hl : s.agentLive a = true) (hm : s.mayWrite a .p0 [i0] = true) (ho : s.blockOff (0x300100 + strideSum [0x8] [i0]) = false) (h : Half) (v : Nat)
    (act : State → Wr → List Nat → State) :
    s.writeNamed a .SEC_KEY [i0] h v act =
      act (s.noHalves a (0x300100 + strideSum [0x8] [i0]) 4)
        ⟨a, [SEC_KEY.programmed, SEC_KEY.revoked, SEC_KEY.revoke, SEC_KEY.in_use], v % 2 ^ 32⟩ [i0] :=
  State.writeNamed_word (r := ⟨.SEC_KEY, 0x300100, [(4, 0x8)], 4, false, [SEC_KEY.programmed, SEC_KEY.revoked, SEC_KEY.revoke, SEC_KEY.in_use], .device, .p0, .all⟩) rfl (by decide) hl hm ho h v act

theorem denied_SEC_KEY {s : State} {a : Agent} {idx : List Nat} (h : (s.agentLive a && s.mayWrite a .p0 idx && !s.blockOff (0x300100 + strideSum [0x8] idx)) = false) (hf : Half) (v : Nat)
    (act : State → Wr → List Nat → State) : s.writeNamed a .SEC_KEY idx hf v act = s :=
  State.writeNamed_denied (r := ⟨.SEC_KEY, 0x300100, [(4, 0x8)], 4, false, [SEC_KEY.programmed, SEC_KEY.revoked, SEC_KEY.revoke, SEC_KEY.in_use], .device, .p0, .all⟩) rfl h hf v act

theorem write_SEC_ROLLBACK {s : State} {a : Agent} (hl : s.agentLive a = true) (hm : s.mayWrite a .p0 [] = true) (v : Nat)
    (act : State → Wr → List Nat → State) :
    s.writeNamed a .SEC_ROLLBACK [] .whole v act =
      act (s.noHalves a (0x300200 + strideSum [] []) 8)
        ⟨a, [SEC_ROLLBACK.advance, SEC_ROLLBACK.target, SEC_ROLLBACK.count], v % 2 ^ 64⟩ [] :=
  State.writeNamed_whole (r := ⟨.SEC_ROLLBACK, 0x300200, [], 8, false, [SEC_ROLLBACK.advance, SEC_ROLLBACK.target, SEC_ROLLBACK.count], .device, .p0, .all⟩) rfl (by decide) (by decide) hl hm (by simp [State.blockOff, RegRow.addr, strideSum]) v act

theorem denied_SEC_ROLLBACK {s : State} {a : Agent} {idx : List Nat} (h : (s.agentLive a && s.mayWrite a .p0 idx && !s.blockOff (0x300200 + strideSum [] idx)) = false) (hf : Half) (v : Nat)
    (act : State → Wr → List Nat → State) : s.writeNamed a .SEC_ROLLBACK idx hf v act = s :=
  State.writeNamed_denied (r := ⟨.SEC_ROLLBACK, 0x300200, [], 8, false, [SEC_ROLLBACK.advance, SEC_ROLLBACK.target, SEC_ROLLBACK.count], .device, .p0, .all⟩) rfl h hf v act

theorem write_SEC_MEASURE {s : State} {a : Agent} (hl : s.agentLive a = true) (hm : s.mayWrite a .p0 [] = true) (v : Nat)
    (act : State → Wr → List Nat → State) :
    s.writeNamed a .SEC_MEASURE [] .whole v act =
      act (s.noHalves a (0x300300 + strideSum [] []) 8)
        ⟨a, [SEC_MEASURE.extend, SEC_MEASURE.type, SEC_MEASURE.entry], v % 2 ^ 64⟩ [] :=
  State.writeNamed_whole (r := ⟨.SEC_MEASURE, 0x300300, [], 8, false, [SEC_MEASURE.extend, SEC_MEASURE.type, SEC_MEASURE.entry], .device, .p0, .all⟩) rfl (by decide) (by decide) hl hm (by simp [State.blockOff, RegRow.addr, strideSum]) v act

theorem denied_SEC_MEASURE {s : State} {a : Agent} {idx : List Nat} (h : (s.agentLive a && s.mayWrite a .p0 idx && !s.blockOff (0x300300 + strideSum [] idx)) = false) (hf : Half) (v : Nat)
    (act : State → Wr → List Nat → State) : s.writeNamed a .SEC_MEASURE idx hf v act = s :=
  State.writeNamed_denied (r := ⟨.SEC_MEASURE, 0x300300, [], 8, false, [SEC_MEASURE.extend, SEC_MEASURE.type, SEC_MEASURE.entry], .device, .p0, .all⟩) rfl h hf v act

/-! ### What one field takes from a write -/

@[simp] theorem writeField_PTP_INCR_incr_clamped (s : State) (w : Wr) (i : List Nat) : s.writeField w i PTP_INCR.incr_clamped = if w.get PTP_INCR.incr_clamped = 0 then s else s.setReg PTP_INCR.incr_clamped i 0 := rfl
@[simp] theorem width_PTP_INCR_incr_clamped : PTP_INCR.incr_clamped.width = 1 := rfl
@[simp] theorem get_PTP_INCR_incr_clamped (w : Wr) : w.get PTP_INCR.incr_clamped = w.val / 2 ^ 63 % 2 ^ 1 := rfl
@[simp] theorem writeField_PTP_INCR_incr_ns (s : State) (w : Wr) (i : List Nat) : s.writeField w i PTP_INCR.incr_ns = s.setReg PTP_INCR.incr_ns i (w.get PTP_INCR.incr_ns) := rfl
@[simp] theorem width_PTP_INCR_incr_ns : PTP_INCR.incr_ns.width = 8 := rfl
@[simp] theorem get_PTP_INCR_incr_ns (w : Wr) : w.get PTP_INCR.incr_ns = w.val / 2 ^ 32 % 2 ^ 8 := rfl
@[simp] theorem writeField_PTP_INCR_incr_frac (s : State) (w : Wr) (i : List Nat) : s.writeField w i PTP_INCR.incr_frac = s.setReg PTP_INCR.incr_frac i (w.get PTP_INCR.incr_frac) := rfl
@[simp] theorem width_PTP_INCR_incr_frac : PTP_INCR.incr_frac.width = 32 := rfl
@[simp] theorem get_PTP_INCR_incr_frac (w : Wr) : w.get PTP_INCR.incr_frac = w.val / 2 ^ 0 % 2 ^ 32 := rfl
@[simp] theorem writeField_PTP_STEP_step_ns (s : State) (w : Wr) (i : List Nat) : s.writeField w i PTP_STEP.step_ns = s := rfl
@[simp] theorem width_PTP_STEP_step_ns : PTP_STEP.step_ns.width = 64 := rfl
@[simp] theorem get_PTP_STEP_step_ns (w : Wr) : w.get PTP_STEP.step_ns = w.val / 2 ^ 0 % 2 ^ 64 := rfl
@[simp] theorem writeField_PTP_STEP_CTRL_step_gen (s : State) (w : Wr) (i : List Nat) : s.writeField w i PTP_STEP_CTRL.step_gen = s := rfl
@[simp] theorem width_PTP_STEP_CTRL_step_gen : PTP_STEP_CTRL.step_gen.width = 8 := rfl
@[simp] theorem get_PTP_STEP_CTRL_step_gen (w : Wr) : w.get PTP_STEP_CTRL.step_gen = w.val / 2 ^ 56 % 2 ^ 8 := rfl
@[simp] theorem writeField_PTP_STEP_CTRL_refused_count (s : State) (w : Wr) (i : List Nat) : s.writeField w i PTP_STEP_CTRL.refused_count = s := rfl
@[simp] theorem width_PTP_STEP_CTRL_refused_count : PTP_STEP_CTRL.refused_count.width = 8 := rfl
@[simp] theorem get_PTP_STEP_CTRL_refused_count (w : Wr) : w.get PTP_STEP_CTRL.refused_count = w.val / 2 ^ 48 % 2 ^ 8 := rfl
@[simp] theorem writeField_PTP_STEP_CTRL_pending (s : State) (w : Wr) (i : List Nat) : s.writeField w i PTP_STEP_CTRL.pending = s := rfl
@[simp] theorem width_PTP_STEP_CTRL_pending : PTP_STEP_CTRL.pending.width = 1 := rfl
@[simp] theorem get_PTP_STEP_CTRL_pending (w : Wr) : w.get PTP_STEP_CTRL.pending = w.val / 2 ^ 47 % 2 ^ 1 := rfl
@[simp] theorem writeField_PTP_STEP_CTRL_refused (s : State) (w : Wr) (i : List Nat) : s.writeField w i PTP_STEP_CTRL.refused = if w.get PTP_STEP_CTRL.refused = 0 then s else s.setReg PTP_STEP_CTRL.refused i 0 := rfl
@[simp] theorem width_PTP_STEP_CTRL_refused : PTP_STEP_CTRL.refused.width = 1 := rfl
@[simp] theorem get_PTP_STEP_CTRL_refused (w : Wr) : w.get PTP_STEP_CTRL.refused = w.val / 2 ^ 46 % 2 ^ 1 := rfl
@[simp] theorem writeField_PTP_STEP_CTRL_confirm (s : State) (w : Wr) (i : List Nat) : s.writeField w i PTP_STEP_CTRL.confirm = s := rfl
@[simp] theorem width_PTP_STEP_CTRL_confirm : PTP_STEP_CTRL.confirm.width = 1 := rfl
@[simp] theorem get_PTP_STEP_CTRL_confirm (w : Wr) : w.get PTP_STEP_CTRL.confirm = w.val / 2 ^ 45 % 2 ^ 1 := rfl
@[simp] theorem writeField_PTP_STEP_CTRL_discard (s : State) (w : Wr) (i : List Nat) : s.writeField w i PTP_STEP_CTRL.discard = s := rfl
@[simp] theorem width_PTP_STEP_CTRL_discard : PTP_STEP_CTRL.discard.width = 1 := rfl
@[simp] theorem get_PTP_STEP_CTRL_discard (w : Wr) : w.get PTP_STEP_CTRL.discard = w.val / 2 ^ 44 % 2 ^ 1 := rfl
@[simp] theorem writeField_PTP_STEP_CTRL_threshold_ns (s : State) (w : Wr) (i : List Nat) : s.writeField w i PTP_STEP_CTRL.threshold_ns = s.setReg PTP_STEP_CTRL.threshold_ns i (w.get PTP_STEP_CTRL.threshold_ns) := rfl
@[simp] theorem width_PTP_STEP_CTRL_threshold_ns : PTP_STEP_CTRL.threshold_ns.width = 30 := rfl
@[simp] theorem get_PTP_STEP_CTRL_threshold_ns (w : Wr) : w.get PTP_STEP_CTRL.threshold_ns = w.val / 2 ^ 0 % 2 ^ 30 := rfl
@[simp] theorem writeField_PTP_PULSE_CTRL_missed_count (s : State) (w : Wr) (i : List Nat) : s.writeField w i PTP_PULSE_CTRL.missed_count = s := rfl
@[simp] theorem width_PTP_PULSE_CTRL_missed_count : PTP_PULSE_CTRL.missed_count.width = 16 := rfl
@[simp] theorem get_PTP_PULSE_CTRL_missed_count (w : Wr) : w.get PTP_PULSE_CTRL.missed_count = w.val / 2 ^ 16 % 2 ^ 16 := rfl
@[simp] theorem writeField_PTP_PULSE_CTRL_cfg_err (s : State) (w : Wr) (i : List Nat) : s.writeField w i PTP_PULSE_CTRL.cfg_err = if w.get PTP_PULSE_CTRL.cfg_err = 0 then s else s.setReg PTP_PULSE_CTRL.cfg_err i 0 := rfl
@[simp] theorem width_PTP_PULSE_CTRL_cfg_err : PTP_PULSE_CTRL.cfg_err.width = 1 := rfl
@[simp] theorem get_PTP_PULSE_CTRL_cfg_err (w : Wr) : w.get PTP_PULSE_CTRL.cfg_err = w.val / 2 ^ 3 % 2 ^ 1 := rfl
@[simp] theorem writeField_PTP_PULSE_CTRL_active_low (s : State) (w : Wr) (i : List Nat) : s.writeField w i PTP_PULSE_CTRL.active_low = s.setReg PTP_PULSE_CTRL.active_low i (w.get PTP_PULSE_CTRL.active_low) := rfl
@[simp] theorem width_PTP_PULSE_CTRL_active_low : PTP_PULSE_CTRL.active_low.width = 1 := rfl
@[simp] theorem get_PTP_PULSE_CTRL_active_low (w : Wr) : w.get PTP_PULSE_CTRL.active_low = w.val / 2 ^ 2 % 2 ^ 1 := rfl
@[simp] theorem writeField_PTP_PULSE_CTRL_periodic (s : State) (w : Wr) (i : List Nat) : s.writeField w i PTP_PULSE_CTRL.periodic = s.setReg PTP_PULSE_CTRL.periodic i (w.get PTP_PULSE_CTRL.periodic) := rfl
@[simp] theorem width_PTP_PULSE_CTRL_periodic : PTP_PULSE_CTRL.periodic.width = 1 := rfl
@[simp] theorem get_PTP_PULSE_CTRL_periodic (w : Wr) : w.get PTP_PULSE_CTRL.periodic = w.val / 2 ^ 1 % 2 ^ 1 := rfl
@[simp] theorem writeField_PTP_PULSE_CTRL_arm (s : State) (w : Wr) (i : List Nat) : s.writeField w i PTP_PULSE_CTRL.arm = s.setReg PTP_PULSE_CTRL.arm i (w.get PTP_PULSE_CTRL.arm) := rfl
@[simp] theorem width_PTP_PULSE_CTRL_arm : PTP_PULSE_CTRL.arm.width = 1 := rfl
@[simp] theorem get_PTP_PULSE_CTRL_arm (w : Wr) : w.get PTP_PULSE_CTRL.arm = w.val / 2 ^ 0 % 2 ^ 1 := rfl
@[simp] theorem writeField_ETH_TXQ_PTR_so_en (s : State) (w : Wr) (i : List Nat) : s.writeField w i ETH_TXQ_PTR.so_en = s.setReg ETH_TXQ_PTR.so_en i (w.get ETH_TXQ_PTR.so_en) := rfl
@[simp] theorem width_ETH_TXQ_PTR_so_en : ETH_TXQ_PTR.so_en.width = 1 := rfl
@[simp] theorem get_ETH_TXQ_PTR_so_en (w : Wr) : w.get ETH_TXQ_PTR.so_en = w.val / 2 ^ 63 % 2 ^ 1 := rfl
@[simp] theorem writeField_ETH_TXQ_PTR_done_so (s : State) (w : Wr) (i : List Nat) : s.writeField w i ETH_TXQ_PTR.done_so = s.setReg ETH_TXQ_PTR.done_so i (w.get ETH_TXQ_PTR.done_so) := rfl
@[simp] theorem width_ETH_TXQ_PTR_done_so : ETH_TXQ_PTR.done_so.width = 14 := rfl
@[simp] theorem get_ETH_TXQ_PTR_done_so (w : Wr) : w.get ETH_TXQ_PTR.done_so = w.val / 2 ^ 42 % 2 ^ 14 := rfl
@[simp] theorem writeField_ETH_TXQ_PTR_head (s : State) (w : Wr) (i : List Nat) : s.writeField w i ETH_TXQ_PTR.head = s := rfl
@[simp] theorem width_ETH_TXQ_PTR_head : ETH_TXQ_PTR.head.width = 10 := rfl
@[simp] theorem get_ETH_TXQ_PTR_head (w : Wr) : w.get ETH_TXQ_PTR.head = w.val / 2 ^ 32 % 2 ^ 10 := rfl
@[simp] theorem writeField_ETH_TXQ_PTR_tail (s : State) (w : Wr) (i : List Nat) : s.writeField w i ETH_TXQ_PTR.tail = s.setReg ETH_TXQ_PTR.tail i (w.get ETH_TXQ_PTR.tail) := rfl
@[simp] theorem width_ETH_TXQ_PTR_tail : ETH_TXQ_PTR.tail.width = 10 := rfl
@[simp] theorem get_ETH_TXQ_PTR_tail (w : Wr) : w.get ETH_TXQ_PTR.tail = w.val / 2 ^ 0 % 2 ^ 10 := rfl
@[simp] theorem writeField_ETH_RXQ_PTR_so_en (s : State) (w : Wr) (i : List Nat) : s.writeField w i ETH_RXQ_PTR.so_en = s.setReg ETH_RXQ_PTR.so_en i (w.get ETH_RXQ_PTR.so_en) := rfl
@[simp] theorem width_ETH_RXQ_PTR_so_en : ETH_RXQ_PTR.so_en.width = 1 := rfl
@[simp] theorem get_ETH_RXQ_PTR_so_en (w : Wr) : w.get ETH_RXQ_PTR.so_en = w.val / 2 ^ 63 % 2 ^ 1 := rfl
@[simp] theorem writeField_ETH_RXQ_PTR_done_so (s : State) (w : Wr) (i : List Nat) : s.writeField w i ETH_RXQ_PTR.done_so = s.setReg ETH_RXQ_PTR.done_so i (w.get ETH_RXQ_PTR.done_so) := rfl
@[simp] theorem width_ETH_RXQ_PTR_done_so : ETH_RXQ_PTR.done_so.width = 14 := rfl
@[simp] theorem get_ETH_RXQ_PTR_done_so (w : Wr) : w.get ETH_RXQ_PTR.done_so = w.val / 2 ^ 42 % 2 ^ 14 := rfl
@[simp] theorem writeField_ETH_RXQ_PTR_head (s : State) (w : Wr) (i : List Nat) : s.writeField w i ETH_RXQ_PTR.head = s := rfl
@[simp] theorem width_ETH_RXQ_PTR_head : ETH_RXQ_PTR.head.width = 10 := rfl
@[simp] theorem get_ETH_RXQ_PTR_head (w : Wr) : w.get ETH_RXQ_PTR.head = w.val / 2 ^ 32 % 2 ^ 10 := rfl
@[simp] theorem writeField_ETH_RXQ_PTR_tail (s : State) (w : Wr) (i : List Nat) : s.writeField w i ETH_RXQ_PTR.tail = s.setReg ETH_RXQ_PTR.tail i (w.get ETH_RXQ_PTR.tail) := rfl
@[simp] theorem width_ETH_RXQ_PTR_tail : ETH_RXQ_PTR.tail.width = 10 := rfl
@[simp] theorem get_ETH_RXQ_PTR_tail (w : Wr) : w.get ETH_RXQ_PTR.tail = w.val / 2 ^ 0 % 2 ^ 10 := rfl
@[simp] theorem writeField_ETH_MDIO_busy (s : State) (w : Wr) (i : List Nat) : s.writeField w i ETH_MDIO.busy = s := rfl
@[simp] theorem width_ETH_MDIO_busy : ETH_MDIO.busy.width = 1 := rfl
@[simp] theorem get_ETH_MDIO_busy (w : Wr) : w.get ETH_MDIO.busy = w.val / 2 ^ 63 % 2 ^ 1 := rfl
@[simp] theorem writeField_ETH_MDIO_start (s : State) (w : Wr) (i : List Nat) : s.writeField w i ETH_MDIO.start = s := rfl
@[simp] theorem width_ETH_MDIO_start : ETH_MDIO.start.width = 1 := rfl
@[simp] theorem get_ETH_MDIO_start (w : Wr) : w.get ETH_MDIO.start = w.val / 2 ^ 62 % 2 ^ 1 := rfl
@[simp] theorem writeField_ETH_MDIO_clause45 (s : State) (w : Wr) (i : List Nat) : s.writeField w i ETH_MDIO.clause45 = s.setReg ETH_MDIO.clause45 i (w.get ETH_MDIO.clause45) := rfl
@[simp] theorem width_ETH_MDIO_clause45 : ETH_MDIO.clause45.width = 1 := rfl
@[simp] theorem get_ETH_MDIO_clause45 (w : Wr) : w.get ETH_MDIO.clause45 = w.val / 2 ^ 61 % 2 ^ 1 := rfl
@[simp] theorem writeField_ETH_MDIO_op (s : State) (w : Wr) (i : List Nat) : s.writeField w i ETH_MDIO.op = s.setReg ETH_MDIO.op i (w.get ETH_MDIO.op) := rfl
@[simp] theorem width_ETH_MDIO_op : ETH_MDIO.op.width = 2 := rfl
@[simp] theorem get_ETH_MDIO_op (w : Wr) : w.get ETH_MDIO.op = w.val / 2 ^ 58 % 2 ^ 2 := rfl
@[simp] theorem writeField_ETH_MDIO_prtad (s : State) (w : Wr) (i : List Nat) : s.writeField w i ETH_MDIO.prtad = s.setReg ETH_MDIO.prtad i (w.get ETH_MDIO.prtad) := rfl
@[simp] theorem width_ETH_MDIO_prtad : ETH_MDIO.prtad.width = 5 := rfl
@[simp] theorem get_ETH_MDIO_prtad (w : Wr) : w.get ETH_MDIO.prtad = w.val / 2 ^ 48 % 2 ^ 5 := rfl
@[simp] theorem writeField_ETH_MDIO_devad (s : State) (w : Wr) (i : List Nat) : s.writeField w i ETH_MDIO.devad = s.setReg ETH_MDIO.devad i (w.get ETH_MDIO.devad) := rfl
@[simp] theorem width_ETH_MDIO_devad : ETH_MDIO.devad.width = 5 := rfl
@[simp] theorem get_ETH_MDIO_devad (w : Wr) : w.get ETH_MDIO.devad = w.val / 2 ^ 40 % 2 ^ 5 := rfl
@[simp] theorem writeField_ETH_MDIO_mdc_div (s : State) (w : Wr) (i : List Nat) : s.writeField w i ETH_MDIO.mdc_div = s.setReg ETH_MDIO.mdc_div i (w.get ETH_MDIO.mdc_div) := rfl
@[simp] theorem width_ETH_MDIO_mdc_div : ETH_MDIO.mdc_div.width = 8 := rfl
@[simp] theorem get_ETH_MDIO_mdc_div (w : Wr) : w.get ETH_MDIO.mdc_div = w.val / 2 ^ 32 % 2 ^ 8 := rfl
@[simp] theorem writeField_ETH_MDIO_data (s : State) (w : Wr) (i : List Nat) : s.writeField w i ETH_MDIO.data = s.setReg ETH_MDIO.data i (w.get ETH_MDIO.data) := rfl
@[simp] theorem width_ETH_MDIO_data : ETH_MDIO.data.width = 16 := rfl
@[simp] theorem get_ETH_MDIO_data (w : Wr) : w.get ETH_MDIO.data = w.val / 2 ^ 0 % 2 ^ 16 := rfl
@[simp] theorem writeField_FE_IMU_XFER_busy (s : State) (w : Wr) (i : List Nat) : s.writeField w i FE_IMU_XFER.busy = s := rfl
@[simp] theorem width_FE_IMU_XFER_busy : FE_IMU_XFER.busy.width = 1 := rfl
@[simp] theorem get_FE_IMU_XFER_busy (w : Wr) : w.get FE_IMU_XFER.busy = w.val / 2 ^ 63 % 2 ^ 1 := rfl
@[simp] theorem writeField_FE_IMU_XFER_start (s : State) (w : Wr) (i : List Nat) : s.writeField w i FE_IMU_XFER.start = s := rfl
@[simp] theorem width_FE_IMU_XFER_start : FE_IMU_XFER.start.width = 1 := rfl
@[simp] theorem get_FE_IMU_XFER_start (w : Wr) : w.get FE_IMU_XFER.start = w.val / 2 ^ 62 % 2 ^ 1 := rfl
@[simp] theorem writeField_FE_IMU_XFER_hold_cs (s : State) (w : Wr) (i : List Nat) : s.writeField w i FE_IMU_XFER.hold_cs = s.setReg FE_IMU_XFER.hold_cs i (w.get FE_IMU_XFER.hold_cs) := rfl
@[simp] theorem width_FE_IMU_XFER_hold_cs : FE_IMU_XFER.hold_cs.width = 1 := rfl
@[simp] theorem get_FE_IMU_XFER_hold_cs (w : Wr) : w.get FE_IMU_XFER.hold_cs = w.val / 2 ^ 61 % 2 ^ 1 := rfl
@[simp] theorem writeField_FE_IMU_XFER_len (s : State) (w : Wr) (i : List Nat) : s.writeField w i FE_IMU_XFER.len = s.setReg FE_IMU_XFER.len i (w.get FE_IMU_XFER.len) := rfl
@[simp] theorem width_FE_IMU_XFER_len : FE_IMU_XFER.len.width = 4 := rfl
@[simp] theorem get_FE_IMU_XFER_len (w : Wr) : w.get FE_IMU_XFER.len = w.val / 2 ^ 56 % 2 ^ 4 := rfl
@[simp] theorem writeField_FE_IMU_XFER_data (s : State) (w : Wr) (i : List Nat) : s.writeField w i FE_IMU_XFER.data = s.setReg FE_IMU_XFER.data i (w.get FE_IMU_XFER.data) := rfl
@[simp] theorem width_FE_IMU_XFER_data : FE_IMU_XFER.data.width = 32 := rfl
@[simp] theorem get_FE_IMU_XFER_data (w : Wr) : w.get FE_IMU_XFER.data = w.val / 2 ^ 0 % 2 ^ 32 := rfl
@[simp] theorem writeField_ARR_CTRL_perf_clr (s : State) (w : Wr) (i : List Nat) : s.writeField w i ARR_CTRL.perf_clr = s := rfl
@[simp] theorem width_ARR_CTRL_perf_clr : ARR_CTRL.perf_clr.width = 1 := rfl
@[simp] theorem get_ARR_CTRL_perf_clr (w : Wr) : w.get ARR_CTRL.perf_clr = w.val / 2 ^ 31 % 2 ^ 1 := rfl
@[simp] theorem writeField_ARR_CTRL_mv_threshold (s : State) (w : Wr) (i : List Nat) : s.writeField w i ARR_CTRL.mv_threshold = s.setReg ARR_CTRL.mv_threshold i (w.get ARR_CTRL.mv_threshold) := rfl
@[simp] theorem width_ARR_CTRL_mv_threshold : ARR_CTRL.mv_threshold.width = 8 := rfl
@[simp] theorem get_ARR_CTRL_mv_threshold (w : Wr) : w.get ARR_CTRL.mv_threshold = w.val / 2 ^ 16 % 2 ^ 8 := rfl
@[simp] theorem writeField_ARR_CTRL_ramp_step (s : State) (w : Wr) (i : List Nat) : s.writeField w i ARR_CTRL.ramp_step = s.setReg ARR_CTRL.ramp_step i (w.get ARR_CTRL.ramp_step) := rfl
@[simp] theorem width_ARR_CTRL_ramp_step : ARR_CTRL.ramp_step.width = 5 := rfl
@[simp] theorem get_ARR_CTRL_ramp_step (w : Wr) : w.get ARR_CTRL.ramp_step = w.val / 2 ^ 0 % 2 ^ 5 := rfl
@[simp] theorem writeField_DVL_CTRL_perf_clr (s : State) (w : Wr) (i : List Nat) : s.writeField w i DVL_CTRL.perf_clr = s := rfl
@[simp] theorem width_DVL_CTRL_perf_clr : DVL_CTRL.perf_clr.width = 1 := rfl
@[simp] theorem get_DVL_CTRL_perf_clr (w : Wr) : w.get DVL_CTRL.perf_clr = w.val / 2 ^ 31 % 2 ^ 1 := rfl
@[simp] theorem writeField_DVL_CTRL_ahead_slots (s : State) (w : Wr) (i : List Nat) : s.writeField w i DVL_CTRL.ahead_slots = s.setReg DVL_CTRL.ahead_slots i (w.get DVL_CTRL.ahead_slots) := rfl
@[simp] theorem width_DVL_CTRL_ahead_slots : DVL_CTRL.ahead_slots.width = 5 := rfl
@[simp] theorem get_DVL_CTRL_ahead_slots (w : Wr) : w.get DVL_CTRL.ahead_slots = w.val / 2 ^ 8 % 2 ^ 5 := rfl
@[simp] theorem writeField_DVL_CTRL_strip_fill (s : State) (w : Wr) (i : List Nat) : s.writeField w i DVL_CTRL.strip_fill = s.setReg DVL_CTRL.strip_fill i (w.get DVL_CTRL.strip_fill) := rfl
@[simp] theorem width_DVL_CTRL_strip_fill : DVL_CTRL.strip_fill.width = 1 := rfl
@[simp] theorem get_DVL_CTRL_strip_fill (w : Wr) : w.get DVL_CTRL.strip_fill = w.val / 2 ^ 2 % 2 ^ 1 := rfl
@[simp] theorem writeField_DVL_CTRL_strip_audit (s : State) (w : Wr) (i : List Nat) : s.writeField w i DVL_CTRL.strip_audit = s.setReg DVL_CTRL.strip_audit i (w.get DVL_CTRL.strip_audit) := rfl
@[simp] theorem width_DVL_CTRL_strip_audit : DVL_CTRL.strip_audit.width = 1 := rfl
@[simp] theorem get_DVL_CTRL_strip_audit (w : Wr) : w.get DVL_CTRL.strip_audit = w.val / 2 ^ 1 % 2 ^ 1 := rfl
@[simp] theorem writeField_SEL_CTRL_perf_clr (s : State) (w : Wr) (i : List Nat) : s.writeField w i SEL_CTRL.perf_clr = s := rfl
@[simp] theorem width_SEL_CTRL_perf_clr : SEL_CTRL.perf_clr.width = 1 := rfl
@[simp] theorem get_SEL_CTRL_perf_clr (w : Wr) : w.get SEL_CTRL.perf_clr = w.val / 2 ^ 31 % 2 ^ 1 := rfl
@[simp] theorem writeField_SEL_CTRL_merge_timeout_us (s : State) (w : Wr) (i : List Nat) : s.writeField w i SEL_CTRL.merge_timeout_us = s.setReg SEL_CTRL.merge_timeout_us i (w.get SEL_CTRL.merge_timeout_us) := rfl
@[simp] theorem width_SEL_CTRL_merge_timeout_us : SEL_CTRL.merge_timeout_us.width = 16 := rfl
@[simp] theorem get_SEL_CTRL_merge_timeout_us (w : Wr) : w.get SEL_CTRL.merge_timeout_us = w.val / 2 ^ 0 % 2 ^ 16 := rfl
@[simp] theorem writeField_SRT_CTRL_perf_clr (s : State) (w : Wr) (i : List Nat) : s.writeField w i SRT_CTRL.perf_clr = s := rfl
@[simp] theorem width_SRT_CTRL_perf_clr : SRT_CTRL.perf_clr.width = 1 := rfl
@[simp] theorem get_SRT_CTRL_perf_clr (w : Wr) : w.get SRT_CTRL.perf_clr = w.val / 2 ^ 31 % 2 ^ 1 := rfl
@[simp] theorem writeField_TBL_CTRL_perf_clr (s : State) (w : Wr) (i : List Nat) : s.writeField w i TBL_CTRL.perf_clr = s := rfl
@[simp] theorem width_TBL_CTRL_perf_clr : TBL_CTRL.perf_clr.width = 1 := rfl
@[simp] theorem get_TBL_CTRL_perf_clr (w : Wr) : w.get TBL_CTRL.perf_clr = w.val / 2 ^ 31 % 2 ^ 1 := rfl
@[simp] theorem writeField_TBL_CTRL_rebuild_share (s : State) (w : Wr) (i : List Nat) : s.writeField w i TBL_CTRL.rebuild_share = s.setReg TBL_CTRL.rebuild_share i (w.get TBL_CTRL.rebuild_share) := rfl
@[simp] theorem width_TBL_CTRL_rebuild_share : TBL_CTRL.rebuild_share.width = 8 := rfl
@[simp] theorem get_TBL_CTRL_rebuild_share (w : Wr) : w.get TBL_CTRL.rebuild_share = w.val / 2 ^ 16 % 2 ^ 8 := rfl
@[simp] theorem writeField_TBL_CTRL_sweep_rate (s : State) (w : Wr) (i : List Nat) : s.writeField w i TBL_CTRL.sweep_rate = s.setReg TBL_CTRL.sweep_rate i (w.get TBL_CTRL.sweep_rate) := rfl
@[simp] theorem width_TBL_CTRL_sweep_rate : TBL_CTRL.sweep_rate.width = 8 := rfl
@[simp] theorem get_TBL_CTRL_sweep_rate (w : Wr) : w.get TBL_CTRL.sweep_rate = w.val / 2 ^ 0 % 2 ^ 8 := rfl
@[simp] theorem writeField_TBL_REBUILD_start (s : State) (w : Wr) (i : List Nat) : s.writeField w i TBL_REBUILD.start = s := rfl
@[simp] theorem width_TBL_REBUILD_start : TBL_REBUILD.start.width = 1 := rfl
@[simp] theorem get_TBL_REBUILD_start (w : Wr) : w.get TBL_REBUILD.start = w.val / 2 ^ 31 % 2 ^ 1 := rfl
@[simp] theorem writeField_TBL_REBUILD_stop (s : State) (w : Wr) (i : List Nat) : s.writeField w i TBL_REBUILD.stop = s := rfl
@[simp] theorem width_TBL_REBUILD_stop : TBL_REBUILD.stop.width = 1 := rfl
@[simp] theorem get_TBL_REBUILD_stop (w : Wr) : w.get TBL_REBUILD.stop = w.val / 2 ^ 30 % 2 ^ 1 := rfl
@[simp] theorem writeField_TBL_REBUILD_table (s : State) (w : Wr) (i : List Nat) : s.writeField w i TBL_REBUILD.table = s.setReg TBL_REBUILD.table i (w.get TBL_REBUILD.table) := rfl
@[simp] theorem width_TBL_REBUILD_table : TBL_REBUILD.table.width = 4 := rfl
@[simp] theorem get_TBL_REBUILD_table (w : Wr) : w.get TBL_REBUILD.table = w.val / 2 ^ 0 % 2 ^ 4 := rfl
@[simp] theorem writeField_SPM_CTRL_perf_clr (s : State) (w : Wr) (i : List Nat) : s.writeField w i SPM_CTRL.perf_clr = s := rfl
@[simp] theorem width_SPM_CTRL_perf_clr : SPM_CTRL.perf_clr.width = 1 := rfl
@[simp] theorem get_SPM_CTRL_perf_clr (w : Wr) : w.get SPM_CTRL.perf_clr = w.val / 2 ^ 31 % 2 ^ 1 := rfl
@[simp] theorem writeField_SPM_CTRL_steal_age (s : State) (w : Wr) (i : List Nat) : s.writeField w i SPM_CTRL.steal_age = s.setReg SPM_CTRL.steal_age i (w.get SPM_CTRL.steal_age) := rfl
@[simp] theorem width_SPM_CTRL_steal_age : SPM_CTRL.steal_age.width = 6 := rfl
@[simp] theorem get_SPM_CTRL_steal_age (w : Wr) : w.get SPM_CTRL.steal_age = w.val / 2 ^ 0 % 2 ^ 6 := rfl
@[simp] theorem writeField_SPM_CHUNK_OWN_assigned (s : State) (w : Wr) (i : List Nat) : s.writeField w i SPM_CHUNK_OWN.assigned = s.setReg SPM_CHUNK_OWN.assigned i (w.get SPM_CHUNK_OWN.assigned) := rfl
@[simp] theorem width_SPM_CHUNK_OWN_assigned : SPM_CHUNK_OWN.assigned.width = 1 := rfl
@[simp] theorem get_SPM_CHUNK_OWN_assigned (w : Wr) : w.get SPM_CHUNK_OWN.assigned = w.val / 2 ^ 15 % 2 ^ 1 := rfl
@[simp] theorem writeField_SPM_CHUNK_OWN_shared (s : State) (w : Wr) (i : List Nat) : s.writeField w i SPM_CHUNK_OWN.shared = s.setReg SPM_CHUNK_OWN.shared i (w.get SPM_CHUNK_OWN.shared) := rfl
@[simp] theorem width_SPM_CHUNK_OWN_shared : SPM_CHUNK_OWN.shared.width = 1 := rfl
@[simp] theorem get_SPM_CHUNK_OWN_shared (w : Wr) : w.get SPM_CHUNK_OWN.shared = w.val / 2 ^ 14 % 2 ^ 1 := rfl
@[simp] theorem writeField_SPM_CHUNK_OWN_ctx (s : State) (w : Wr) (i : List Nat) : s.writeField w i SPM_CHUNK_OWN.ctx = s.setReg SPM_CHUNK_OWN.ctx i (w.get SPM_CHUNK_OWN.ctx) := rfl
@[simp] theorem width_SPM_CHUNK_OWN_ctx : SPM_CHUNK_OWN.ctx.width = 8 := rfl
@[simp] theorem get_SPM_CHUNK_OWN_ctx (w : Wr) : w.get SPM_CHUNK_OWN.ctx = w.val / 2 ^ 0 % 2 ^ 8 := rfl
@[simp] theorem writeField_SPM_WIN_open (s : State) (w : Wr) (i : List Nat) : s.writeField w i SPM_WIN.open = s := rfl
@[simp] theorem width_SPM_WIN_open : SPM_WIN.open.width = 1 := rfl
@[simp] theorem get_SPM_WIN_open (w : Wr) : w.get SPM_WIN.open = w.val / 2 ^ 63 % 2 ^ 1 := rfl
@[simp] theorem writeField_SPM_WIN_close (s : State) (w : Wr) (i : List Nat) : s.writeField w i SPM_WIN.close = s := rfl
@[simp] theorem width_SPM_WIN_close : SPM_WIN.close.width = 1 := rfl
@[simp] theorem get_SPM_WIN_close (w : Wr) : w.get SPM_WIN.close = w.val / 2 ^ 62 % 2 ^ 1 := rfl
@[simp] theorem writeField_SPM_WIN_rd (s : State) (w : Wr) (i : List Nat) : s.writeField w i SPM_WIN.rd = s := rfl
@[simp] theorem width_SPM_WIN_rd : SPM_WIN.rd.width = 1 := rfl
@[simp] theorem get_SPM_WIN_rd (w : Wr) : w.get SPM_WIN.rd = w.val / 2 ^ 61 % 2 ^ 1 := rfl
@[simp] theorem writeField_SPM_WIN_wr (s : State) (w : Wr) (i : List Nat) : s.writeField w i SPM_WIN.wr = s := rfl
@[simp] theorem width_SPM_WIN_wr : SPM_WIN.wr.width = 1 := rfl
@[simp] theorem get_SPM_WIN_wr (w : Wr) : w.get SPM_WIN.wr = w.val / 2 ^ 60 % 2 ^ 1 := rfl
@[simp] theorem writeField_SPM_WIN_ext (s : State) (w : Wr) (i : List Nat) : s.writeField w i SPM_WIN.ext = s := rfl
@[simp] theorem width_SPM_WIN_ext : SPM_WIN.ext.width = 1 := rfl
@[simp] theorem get_SPM_WIN_ext (w : Wr) : w.get SPM_WIN.ext = w.val / 2 ^ 59 % 2 ^ 1 := rfl
@[simp] theorem writeField_SPM_WIN_slot (s : State) (w : Wr) (i : List Nat) : s.writeField w i SPM_WIN.slot = s := rfl
@[simp] theorem width_SPM_WIN_slot : SPM_WIN.slot.width = 2 := rfl
@[simp] theorem get_SPM_WIN_slot (w : Wr) : w.get SPM_WIN.slot = w.val / 2 ^ 56 % 2 ^ 2 := rfl
@[simp] theorem writeField_SPM_WIN_part_mask (s : State) (w : Wr) (i : List Nat) : s.writeField w i SPM_WIN.part_mask = s := rfl
@[simp] theorem width_SPM_WIN_part_mask : SPM_WIN.part_mask.width = 4 := rfl
@[simp] theorem get_SPM_WIN_part_mask (w : Wr) : w.get SPM_WIN.part_mask = w.val / 2 ^ 52 % 2 ^ 4 := rfl
@[simp] theorem writeField_SPM_WIN_counter (s : State) (w : Wr) (i : List Nat) : s.writeField w i SPM_WIN.counter = s := rfl
@[simp] theorem width_SPM_WIN_counter : SPM_WIN.counter.width = 6 := rfl
@[simp] theorem get_SPM_WIN_counter (w : Wr) : w.get SPM_WIN.counter = w.val / 2 ^ 46 % 2 ^ 6 := rfl
@[simp] theorem writeField_SPM_WIN_handle (s : State) (w : Wr) (i : List Nat) : s.writeField w i SPM_WIN.handle = s := rfl
@[simp] theorem width_SPM_WIN_handle : SPM_WIN.handle.width = 8 := rfl
@[simp] theorem get_SPM_WIN_handle (w : Wr) : w.get SPM_WIN.handle = w.val / 2 ^ 38 % 2 ^ 8 := rfl
@[simp] theorem writeField_SPM_WIN_core_mask (s : State) (w : Wr) (i : List Nat) : s.writeField w i SPM_WIN.core_mask = s := rfl
@[simp] theorem width_SPM_WIN_core_mask : SPM_WIN.core_mask.width = 32 := rfl
@[simp] theorem get_SPM_WIN_core_mask (w : Wr) : w.get SPM_WIN.core_mask = w.val / 2 ^ 0 % 2 ^ 32 := rfl
@[simp] theorem writeField_SO_VALUE_value (s : State) (w : Wr) (i : List Nat) : s.writeField w i SO_VALUE.value = s.setReg SO_VALUE.value i (w.get SO_VALUE.value) := rfl
@[simp] theorem width_SO_VALUE_value : SO_VALUE.value.width = 64 := rfl
@[simp] theorem get_SO_VALUE_value (w : Wr) : w.get SO_VALUE.value = w.val / 2 ^ 0 % 2 ^ 64 := rfl
@[simp] theorem writeField_SO_CTRL_denied_count (s : State) (w : Wr) (i : List Nat) : s.writeField w i SO_CTRL.denied_count = s := rfl
@[simp] theorem width_SO_CTRL_denied_count : SO_CTRL.denied_count.width = 32 := rfl
@[simp] theorem get_SO_CTRL_denied_count (w : Wr) : w.get SO_CTRL.denied_count = w.val / 2 ^ 32 % 2 ^ 32 := rfl
@[simp] theorem writeField_SO_CTRL_reset (s : State) (w : Wr) (i : List Nat) : s.writeField w i SO_CTRL.reset = s := rfl
@[simp] theorem width_SO_CTRL_reset : SO_CTRL.reset.width = 1 := rfl
@[simp] theorem get_SO_CTRL_reset (w : Wr) : w.get SO_CTRL.reset = w.val / 2 ^ 31 % 2 ^ 1 := rfl
@[simp] theorem writeField_SO_CTRL_reset_err (s : State) (w : Wr) (i : List Nat) : s.writeField w i SO_CTRL.reset_err = if w.get SO_CTRL.reset_err = 0 then s else s.setReg SO_CTRL.reset_err i 0 := rfl
@[simp] theorem width_SO_CTRL_reset_err : SO_CTRL.reset_err.width = 1 := rfl
@[simp] theorem get_SO_CTRL_reset_err (w : Wr) : w.get SO_CTRL.reset_err = w.val / 2 ^ 30 % 2 ^ 1 := rfl
@[simp] theorem writeField_SO_CTRL_object (s : State) (w : Wr) (i : List Nat) : s.writeField w i SO_CTRL.object = s.setReg SO_CTRL.object i (w.get SO_CTRL.object) := rfl
@[simp] theorem width_SO_CTRL_object : SO_CTRL.object.width = 14 := rfl
@[simp] theorem get_SO_CTRL_object (w : Wr) : w.get SO_CTRL.object = w.val / 2 ^ 0 % 2 ^ 14 := rfl
@[simp] theorem writeField_SO_ATTR_own_valid (s : State) (w : Wr) (i : List Nat) : s.writeField w i SO_ATTR.own_valid = s.setReg SO_ATTR.own_valid i (w.get SO_ATTR.own_valid) := rfl
@[simp] theorem width_SO_ATTR_own_valid : SO_ATTR.own_valid.width = 1 := rfl
@[simp] theorem get_SO_ATTR_own_valid (w : Wr) : w.get SO_ATTR.own_valid = w.val / 2 ^ 31 % 2 ^ 1 := rfl
@[simp] theorem writeField_SO_ATTR_owner (s : State) (w : Wr) (i : List Nat) : s.writeField w i SO_ATTR.owner = s.setReg SO_ATTR.owner i (w.get SO_ATTR.owner) := rfl
@[simp] theorem width_SO_ATTR_owner : SO_ATTR.owner.width = 2 := rfl
@[simp] theorem get_SO_ATTR_owner (w : Wr) : w.get SO_ATTR.owner = w.val / 2 ^ 28 % 2 ^ 2 := rfl
@[simp] theorem writeField_SO_ATTR_share (s : State) (w : Wr) (i : List Nat) : s.writeField w i SO_ATTR.share = s.setReg SO_ATTR.share i (w.get SO_ATTR.share) := rfl
@[simp] theorem width_SO_ATTR_share : SO_ATTR.share.width = 4 := rfl
@[simp] theorem get_SO_ATTR_share (w : Wr) : w.get SO_ATTR.share = w.val / 2 ^ 24 % 2 ^ 4 := rfl
@[simp] theorem writeField_SO_ATTR_arm (s : State) (w : Wr) (i : List Nat) : s.writeField w i SO_ATTR.arm = s.setReg SO_ATTR.arm i (w.get SO_ATTR.arm) := rfl
@[simp] theorem width_SO_ATTR_arm : SO_ATTR.arm.width = 1 := rfl
@[simp] theorem get_SO_ATTR_arm (w : Wr) : w.get SO_ATTR.arm = w.val / 2 ^ 15 % 2 ^ 1 := rfl
@[simp] theorem writeField_SO_ATTR_sat (s : State) (w : Wr) (i : List Nat) : s.writeField w i SO_ATTR.sat = if w.get SO_ATTR.sat = 0 then s else s.setReg SO_ATTR.sat i 0 := rfl
@[simp] theorem width_SO_ATTR_sat : SO_ATTR.sat.width = 1 := rfl
@[simp] theorem get_SO_ATTR_sat (w : Wr) : w.get SO_ATTR.sat = w.val / 2 ^ 14 % 2 ^ 1 := rfl
@[simp] theorem writeField_SO_ATTR_vector (s : State) (w : Wr) (i : List Nat) : s.writeField w i SO_ATTR.vector = s.setReg SO_ATTR.vector i (w.get SO_ATTR.vector) := rfl
@[simp] theorem width_SO_ATTR_vector : SO_ATTR.vector.width = 6 := rfl
@[simp] theorem get_SO_ATTR_vector (w : Wr) : w.get SO_ATTR.vector = w.val / 2 ^ 0 % 2 ^ 6 := rfl
@[simp] theorem writeField_SO_CTX_CFG_save_off (s : State) (w : Wr) (i : List Nat) : s.writeField w i SO_CTX_CFG.save_off = s.setReg SO_CTX_CFG.save_off i (w.get SO_CTX_CFG.save_off) := rfl
@[simp] theorem width_SO_CTX_CFG_save_off : SO_CTX_CFG.save_off.width = 12 := rfl
@[simp] theorem get_SO_CTX_CFG_save_off (w : Wr) : w.get SO_CTX_CFG.save_off = w.val / 2 ^ 14 % 2 ^ 12 := rfl
@[simp] theorem writeField_SO_CTX_CFG_en (s : State) (w : Wr) (i : List Nat) : s.writeField w i SO_CTX_CFG.en = s.setReg SO_CTX_CFG.en i (w.get SO_CTX_CFG.en) := rfl
@[simp] theorem width_SO_CTX_CFG_en : SO_CTX_CFG.en.width = 1 := rfl
@[simp] theorem get_SO_CTX_CFG_en (w : Wr) : w.get SO_CTX_CFG.en = w.val / 2 ^ 12 % 2 ^ 1 := rfl
@[simp] theorem writeField_SO_CTX_CFG_part (s : State) (w : Wr) (i : List Nat) : s.writeField w i SO_CTX_CFG.part = s.setReg SO_CTX_CFG.part i (w.get SO_CTX_CFG.part) := rfl
@[simp] theorem width_SO_CTX_CFG_part : SO_CTX_CFG.part.width = 2 := rfl
@[simp] theorem get_SO_CTX_CFG_part (w : Wr) : w.get SO_CTX_CFG.part = w.val / 2 ^ 8 % 2 ^ 2 := rfl
@[simp] theorem writeField_SO_CTX_CFG_core (s : State) (w : Wr) (i : List Nat) : s.writeField w i SO_CTX_CFG.core = s.setReg SO_CTX_CFG.core i (w.get SO_CTX_CFG.core) := rfl
@[simp] theorem width_SO_CTX_CFG_core : SO_CTX_CFG.core.width = 5 := rfl
@[simp] theorem get_SO_CTX_CFG_core (w : Wr) : w.get SO_CTX_CFG.core = w.val / 2 ^ 0 % 2 ^ 5 := rfl
@[simp] theorem writeField_SO_CTX_BIND_bind (s : State) (w : Wr) (i : List Nat) : s.writeField w i SO_CTX_BIND.bind = s := rfl
@[simp] theorem width_SO_CTX_BIND_bind : SO_CTX_BIND.bind.width = 1 := rfl
@[simp] theorem get_SO_CTX_BIND_bind (w : Wr) : w.get SO_CTX_BIND.bind = w.val / 2 ^ 63 % 2 ^ 1 := rfl
@[simp] theorem writeField_SO_CTX_BIND_prio (s : State) (w : Wr) (i : List Nat) : s.writeField w i SO_CTX_BIND.prio = s.setReg SO_CTX_BIND.prio i (w.get SO_CTX_BIND.prio) := rfl
@[simp] theorem width_SO_CTX_BIND_prio : SO_CTX_BIND.prio.width = 3 := rfl
@[simp] theorem get_SO_CTX_BIND_prio (w : Wr) : w.get SO_CTX_BIND.prio = w.val / 2 ^ 48 % 2 ^ 3 := rfl
@[simp] theorem writeField_SO_CTX_BIND_prog (s : State) (w : Wr) (i : List Nat) : s.writeField w i SO_CTX_BIND.prog = s.setReg SO_CTX_BIND.prog i (w.get SO_CTX_BIND.prog) := rfl
@[simp] theorem width_SO_CTX_BIND_prog : SO_CTX_BIND.prog.width = 45 := rfl
@[simp] theorem get_SO_CTX_BIND_prog (w : Wr) : w.get SO_CTX_BIND.prog = w.val / 2 ^ 3 % 2 ^ 45 := rfl
@[simp] theorem writeField_SO_CTX_STATE_resume (s : State) (w : Wr) (i : List Nat) : s.writeField w i SO_CTX_STATE.resume = s := rfl
@[simp] theorem width_SO_CTX_STATE_resume : SO_CTX_STATE.resume.width = 1 := rfl
@[simp] theorem get_SO_CTX_STATE_resume (w : Wr) : w.get SO_CTX_STATE.resume = w.val / 2 ^ 63 % 2 ^ 1 := rfl
@[simp] theorem writeField_SO_CTX_STATE_kill (s : State) (w : Wr) (i : List Nat) : s.writeField w i SO_CTX_STATE.kill = s := rfl
@[simp] theorem width_SO_CTX_STATE_kill : SO_CTX_STATE.kill.width = 1 := rfl
@[simp] theorem get_SO_CTX_STATE_kill (w : Wr) : w.get SO_CTX_STATE.kill = w.val / 2 ^ 62 % 2 ^ 1 := rfl
@[simp] theorem writeField_SO_CTX_STATE_bind_err (s : State) (w : Wr) (i : List Nat) : s.writeField w i SO_CTX_STATE.bind_err = if w.get SO_CTX_STATE.bind_err = 0 then s else s.setReg SO_CTX_STATE.bind_err i 0 := rfl
@[simp] theorem width_SO_CTX_STATE_bind_err : SO_CTX_STATE.bind_err.width = 1 := rfl
@[simp] theorem get_SO_CTX_STATE_bind_err (w : Wr) : w.get SO_CTX_STATE.bind_err = w.val / 2 ^ 61 % 2 ^ 1 := rfl
@[simp] theorem writeField_SO_CTX_STATE_fault_so_en (s : State) (w : Wr) (i : List Nat) : s.writeField w i SO_CTX_STATE.fault_so_en = s.setReg SO_CTX_STATE.fault_so_en i (w.get SO_CTX_STATE.fault_so_en) := rfl
@[simp] theorem width_SO_CTX_STATE_fault_so_en : SO_CTX_STATE.fault_so_en.width = 1 := rfl
@[simp] theorem get_SO_CTX_STATE_fault_so_en (w : Wr) : w.get SO_CTX_STATE.fault_so_en = w.val / 2 ^ 60 % 2 ^ 1 := rfl
@[simp] theorem writeField_SO_CTX_STATE_fault_so (s : State) (w : Wr) (i : List Nat) : s.writeField w i SO_CTX_STATE.fault_so = s.setReg SO_CTX_STATE.fault_so i (w.get SO_CTX_STATE.fault_so) := rfl
@[simp] theorem width_SO_CTX_STATE_fault_so : SO_CTX_STATE.fault_so.width = 14 := rfl
@[simp] theorem get_SO_CTX_STATE_fault_so (w : Wr) : w.get SO_CTX_STATE.fault_so = w.val / 2 ^ 32 % 2 ^ 14 := rfl
@[simp] theorem writeField_SO_CTX_STATE_slot (s : State) (w : Wr) (i : List Nat) : s.writeField w i SO_CTX_STATE.slot = s := rfl
@[simp] theorem width_SO_CTX_STATE_slot : SO_CTX_STATE.slot.width = 2 := rfl
@[simp] theorem get_SO_CTX_STATE_slot (w : Wr) : w.get SO_CTX_STATE.slot = w.val / 2 ^ 6 % 2 ^ 2 := rfl
@[simp] theorem writeField_SO_CTX_STATE_resident (s : State) (w : Wr) (i : List Nat) : s.writeField w i SO_CTX_STATE.resident = s := rfl
@[simp] theorem width_SO_CTX_STATE_resident : SO_CTX_STATE.resident.width = 1 := rfl
@[simp] theorem get_SO_CTX_STATE_resident (w : Wr) : w.get SO_CTX_STATE.resident = w.val / 2 ^ 5 % 2 ^ 1 := rfl
@[simp] theorem writeField_SO_CTX_STATE_state (s : State) (w : Wr) (i : List Nat) : s.writeField w i SO_CTX_STATE.state = s := rfl
@[simp] theorem width_SO_CTX_STATE_state : SO_CTX_STATE.state.width = 4 := rfl
@[simp] theorem get_SO_CTX_STATE_state (w : Wr) : w.get SO_CTX_STATE.state = w.val / 2 ^ 0 % 2 ^ 4 := rfl
@[simp] theorem writeField_CORE_CTR_GRP_assigned (s : State) (w : Wr) (i : List Nat) : s.writeField w i CORE_CTR_GRP.assigned = s.setReg CORE_CTR_GRP.assigned i (w.get CORE_CTR_GRP.assigned) := rfl
@[simp] theorem width_CORE_CTR_GRP_assigned : CORE_CTR_GRP.assigned.width = 1 := rfl
@[simp] theorem get_CORE_CTR_GRP_assigned (w : Wr) : w.get CORE_CTR_GRP.assigned = w.val / 2 ^ 15 % 2 ^ 1 := rfl
@[simp] theorem writeField_CORE_CTR_GRP_shared (s : State) (w : Wr) (i : List Nat) : s.writeField w i CORE_CTR_GRP.shared = s.setReg CORE_CTR_GRP.shared i (w.get CORE_CTR_GRP.shared) := rfl
@[simp] theorem width_CORE_CTR_GRP_shared : CORE_CTR_GRP.shared.width = 1 := rfl
@[simp] theorem get_CORE_CTR_GRP_shared (w : Wr) : w.get CORE_CTR_GRP.shared = w.val / 2 ^ 14 % 2 ^ 1 := rfl
@[simp] theorem writeField_CORE_CTR_GRP_ctx (s : State) (w : Wr) (i : List Nat) : s.writeField w i CORE_CTR_GRP.ctx = s.setReg CORE_CTR_GRP.ctx i (w.get CORE_CTR_GRP.ctx) := rfl
@[simp] theorem width_CORE_CTR_GRP_ctx : CORE_CTR_GRP.ctx.width = 8 := rfl
@[simp] theorem get_CORE_CTR_GRP_ctx (w : Wr) : w.get CORE_CTR_GRP.ctx = w.val / 2 ^ 0 % 2 ^ 8 := rfl
@[simp] theorem writeField_DMA_OWN_part (s : State) (w : Wr) (i : List Nat) : s.writeField w i DMA_OWN.part = s.setReg DMA_OWN.part i (w.get DMA_OWN.part) := rfl
@[simp] theorem width_DMA_OWN_part : DMA_OWN.part.width = 2 := rfl
@[simp] theorem get_DMA_OWN_part (w : Wr) : w.get DMA_OWN.part = w.val / 2 ^ 0 % 2 ^ 2 := rfl
@[simp] theorem writeField_DMA_PRINT_RING_en (s : State) (w : Wr) (i : List Nat) : s.writeField w i DMA_PRINT_RING.en = s.setReg DMA_PRINT_RING.en i (w.get DMA_PRINT_RING.en) := rfl
@[simp] theorem width_DMA_PRINT_RING_en : DMA_PRINT_RING.en.width = 1 := rfl
@[simp] theorem get_DMA_PRINT_RING_en (w : Wr) : w.get DMA_PRINT_RING.en = w.val / 2 ^ 63 % 2 ^ 1 := rfl
@[simp] theorem writeField_DMA_PRINT_RING_base (s : State) (w : Wr) (i : List Nat) : s.writeField w i DMA_PRINT_RING.base = s.setReg DMA_PRINT_RING.base i (w.get DMA_PRINT_RING.base) := rfl
@[simp] theorem width_DMA_PRINT_RING_base : DMA_PRINT_RING.base.width = 36 := rfl
@[simp] theorem get_DMA_PRINT_RING_base (w : Wr) : w.get DMA_PRINT_RING.base = w.val / 2 ^ 12 % 2 ^ 36 := rfl
@[simp] theorem writeField_DMA_PRINT_RING_slot_log2 (s : State) (w : Wr) (i : List Nat) : s.writeField w i DMA_PRINT_RING.slot_log2 = s.setReg DMA_PRINT_RING.slot_log2 i (w.get DMA_PRINT_RING.slot_log2) := rfl
@[simp] theorem width_DMA_PRINT_RING_slot_log2 : DMA_PRINT_RING.slot_log2.width = 4 := rfl
@[simp] theorem get_DMA_PRINT_RING_slot_log2 (w : Wr) : w.get DMA_PRINT_RING.slot_log2 = w.val / 2 ^ 8 % 2 ^ 4 := rfl
@[simp] theorem writeField_DMA_PRINT_RING_size_log2 (s : State) (w : Wr) (i : List Nat) : s.writeField w i DMA_PRINT_RING.size_log2 = s.setReg DMA_PRINT_RING.size_log2 i (w.get DMA_PRINT_RING.size_log2) := rfl
@[simp] theorem width_DMA_PRINT_RING_size_log2 : DMA_PRINT_RING.size_log2.width = 5 := rfl
@[simp] theorem get_DMA_PRINT_RING_size_log2 (w : Wr) : w.get DMA_PRINT_RING.size_log2 = w.val / 2 ^ 0 % 2 ^ 5 := rfl
@[simp] theorem writeField_DMA_CTRL_start (s : State) (w : Wr) (i : List Nat) : s.writeField w i DMA_CTRL.start = s := rfl
@[simp] theorem width_DMA_CTRL_start : DMA_CTRL.start.width = 1 := rfl
@[simp] theorem get_DMA_CTRL_start (w : Wr) : w.get DMA_CTRL.start = w.val / 2 ^ 63 % 2 ^ 1 := rfl
@[simp] theorem writeField_DMA_CTRL_bg (s : State) (w : Wr) (i : List Nat) : s.writeField w i DMA_CTRL.bg = s.setReg DMA_CTRL.bg i (w.get DMA_CTRL.bg) := rfl
@[simp] theorem width_DMA_CTRL_bg : DMA_CTRL.bg.width = 1 := rfl
@[simp] theorem get_DMA_CTRL_bg (w : Wr) : w.get DMA_CTRL.bg = w.val / 2 ^ 62 % 2 ^ 1 := rfl
@[simp] theorem writeField_DMA_CTRL_prio (s : State) (w : Wr) (i : List Nat) : s.writeField w i DMA_CTRL.prio = s.setReg DMA_CTRL.prio i (w.get DMA_CTRL.prio) := rfl
@[simp] theorem width_DMA_CTRL_prio : DMA_CTRL.prio.width = 3 := rfl
@[simp] theorem get_DMA_CTRL_prio (w : Wr) : w.get DMA_CTRL.prio = w.val / 2 ^ 59 % 2 ^ 3 := rfl
@[simp] theorem writeField_DMA_CTRL_swap (s : State) (w : Wr) (i : List Nat) : s.writeField w i DMA_CTRL.swap = s.setReg DMA_CTRL.swap i (w.get DMA_CTRL.swap) := rfl
@[simp] theorem width_DMA_CTRL_swap : DMA_CTRL.swap.width = 3 := rfl
@[simp] theorem get_DMA_CTRL_swap (w : Wr) : w.get DMA_CTRL.swap = w.val / 2 ^ 56 % 2 ^ 3 := rfl
@[simp] theorem writeField_DMA_CTRL_mode (s : State) (w : Wr) (i : List Nat) : s.writeField w i DMA_CTRL.mode = s.setReg DMA_CTRL.mode i (w.get DMA_CTRL.mode) := rfl
@[simp] theorem width_DMA_CTRL_mode : DMA_CTRL.mode.width = 3 := rfl
@[simp] theorem get_DMA_CTRL_mode (w : Wr) : w.get DMA_CTRL.mode = w.val / 2 ^ 53 % 2 ^ 3 := rfl
@[simp] theorem writeField_DMA_CTRL_cfmt (s : State) (w : Wr) (i : List Nat) : s.writeField w i DMA_CTRL.cfmt = s.setReg DMA_CTRL.cfmt i (w.get DMA_CTRL.cfmt) := rfl
@[simp] theorem width_DMA_CTRL_cfmt : DMA_CTRL.cfmt.width = 1 := rfl
@[simp] theorem get_DMA_CTRL_cfmt (w : Wr) : w.get DMA_CTRL.cfmt = w.val / 2 ^ 52 % 2 ^ 1 := rfl
@[simp] theorem writeField_DMA_CTRL_share (s : State) (w : Wr) (i : List Nat) : s.writeField w i DMA_CTRL.share = s.setReg DMA_CTRL.share i (w.get DMA_CTRL.share) := rfl
@[simp] theorem width_DMA_CTRL_share : DMA_CTRL.share.width = 8 := rfl
@[simp] theorem get_DMA_CTRL_share (w : Wr) : w.get DMA_CTRL.share = w.val / 2 ^ 44 % 2 ^ 8 := rfl
@[simp] theorem writeField_DMA_CTRL_so_en (s : State) (w : Wr) (i : List Nat) : s.writeField w i DMA_CTRL.so_en = s.setReg DMA_CTRL.so_en i (w.get DMA_CTRL.so_en) := rfl
@[simp] theorem width_DMA_CTRL_so_en : DMA_CTRL.so_en.width = 1 := rfl
@[simp] theorem get_DMA_CTRL_so_en (w : Wr) : w.get DMA_CTRL.so_en = w.val / 2 ^ 43 % 2 ^ 1 := rfl
@[simp] theorem writeField_DMA_CTRL_done_so (s : State) (w : Wr) (i : List Nat) : s.writeField w i DMA_CTRL.done_so = s.setReg DMA_CTRL.done_so i (w.get DMA_CTRL.done_so) := rfl
@[simp] theorem width_DMA_CTRL_done_so : DMA_CTRL.done_so.width = 14 := rfl
@[simp] theorem get_DMA_CTRL_done_so (w : Wr) : w.get DMA_CTRL.done_so = w.val / 2 ^ 29 % 2 ^ 14 := rfl
@[simp] theorem writeField_DMA_CTRL_so_on_halt (s : State) (w : Wr) (i : List Nat) : s.writeField w i DMA_CTRL.so_on_halt = s.setReg DMA_CTRL.so_on_halt i (w.get DMA_CTRL.so_on_halt) := rfl
@[simp] theorem width_DMA_CTRL_so_on_halt : DMA_CTRL.so_on_halt.width = 1 := rfl
@[simp] theorem get_DMA_CTRL_so_on_halt (w : Wr) : w.get DMA_CTRL.so_on_halt = w.val / 2 ^ 28 % 2 ^ 1 := rfl
@[simp] theorem writeField_DMA_CTRL_bell_en (s : State) (w : Wr) (i : List Nat) : s.writeField w i DMA_CTRL.bell_en = s.setReg DMA_CTRL.bell_en i (w.get DMA_CTRL.bell_en) := rfl
@[simp] theorem width_DMA_CTRL_bell_en : DMA_CTRL.bell_en.width = 1 := rfl
@[simp] theorem get_DMA_CTRL_bell_en (w : Wr) : w.get DMA_CTRL.bell_en = w.val / 2 ^ 27 % 2 ^ 1 := rfl
@[simp] theorem writeField_DMA_CTRL_bell_w (s : State) (w : Wr) (i : List Nat) : s.writeField w i DMA_CTRL.bell_w = s.setReg DMA_CTRL.bell_w i (w.get DMA_CTRL.bell_w) := rfl
@[simp] theorem width_DMA_CTRL_bell_w : DMA_CTRL.bell_w.width = 3 := rfl
@[simp] theorem get_DMA_CTRL_bell_w (w : Wr) : w.get DMA_CTRL.bell_w = w.val / 2 ^ 24 % 2 ^ 3 := rfl
@[simp] theorem writeField_DMA_PRINT_PTR_head (s : State) (w : Wr) (i : List Nat) : s.writeField w i DMA_PRINT_PTR.head = s := rfl
@[simp] theorem width_DMA_PRINT_PTR_head : DMA_PRINT_PTR.head.width = 32 := rfl
@[simp] theorem get_DMA_PRINT_PTR_head (w : Wr) : w.get DMA_PRINT_PTR.head = w.val / 2 ^ 32 % 2 ^ 32 := rfl
@[simp] theorem writeField_DMA_PRINT_PTR_tail (s : State) (w : Wr) (i : List Nat) : s.writeField w i DMA_PRINT_PTR.tail = s.setReg DMA_PRINT_PTR.tail i (w.get DMA_PRINT_PTR.tail) := rfl
@[simp] theorem width_DMA_PRINT_PTR_tail : DMA_PRINT_PTR.tail.width = 32 := rfl
@[simp] theorem get_DMA_PRINT_PTR_tail (w : Wr) : w.get DMA_PRINT_PTR.tail = w.val / 2 ^ 0 % 2 ^ 32 := rfl
@[simp] theorem writeField_MEM_CFG_trained (s : State) (w : Wr) (i : List Nat) : s.writeField w i MEM_CFG.trained = s := rfl
@[simp] theorem width_MEM_CFG_trained : MEM_CFG.trained.width = 16 := rfl
@[simp] theorem get_MEM_CFG_trained (w : Wr) : w.get MEM_CFG.trained = w.val / 2 ^ 16 % 2 ^ 16 := rfl
@[simp] theorem writeField_MEM_CFG_installed_gib (s : State) (w : Wr) (i : List Nat) : s.writeField w i MEM_CFG.installed_gib = s := rfl
@[simp] theorem width_MEM_CFG_installed_gib : MEM_CFG.installed_gib.width = 8 := rfl
@[simp] theorem get_MEM_CFG_installed_gib (w : Wr) : w.get MEM_CFG.installed_gib = w.val / 2 ^ 8 % 2 ^ 8 := rfl
@[simp] theorem writeField_MEM_CFG_cfg_err (s : State) (w : Wr) (i : List Nat) : s.writeField w i MEM_CFG.cfg_err = if w.get MEM_CFG.cfg_err = 0 then s else s.setReg MEM_CFG.cfg_err i 0 := rfl
@[simp] theorem width_MEM_CFG_cfg_err : MEM_CFG.cfg_err.width = 1 := rfl
@[simp] theorem get_MEM_CFG_cfg_err (w : Wr) : w.get MEM_CFG.cfg_err = w.val / 2 ^ 7 % 2 ^ 1 := rfl
@[simp] theorem writeField_MEM_CFG_ranks (s : State) (w : Wr) (i : List Nat) : s.writeField w i MEM_CFG.ranks = if s.locked then s else s.setReg MEM_CFG.ranks i (w.get MEM_CFG.ranks) := rfl
@[simp] theorem width_MEM_CFG_ranks : MEM_CFG.ranks.width = 1 := rfl
@[simp] theorem get_MEM_CFG_ranks (w : Wr) : w.get MEM_CFG.ranks = w.val / 2 ^ 6 % 2 ^ 1 := rfl
@[simp] theorem writeField_MEM_CFG_density (s : State) (w : Wr) (i : List Nat) : s.writeField w i MEM_CFG.density = if s.locked then s else s.setReg MEM_CFG.density i (w.get MEM_CFG.density) := rfl
@[simp] theorem width_MEM_CFG_density : MEM_CFG.density.width = 2 := rfl
@[simp] theorem get_MEM_CFG_density (w : Wr) : w.get MEM_CFG.density = w.val / 2 ^ 4 % 2 ^ 2 := rfl
@[simp] theorem writeField_MEM_CFG_rate (s : State) (w : Wr) (i : List Nat) : s.writeField w i MEM_CFG.rate = if s.locked then s else s.setReg MEM_CFG.rate i (w.get MEM_CFG.rate) := rfl
@[simp] theorem width_MEM_CFG_rate : MEM_CFG.rate.width = 3 := rfl
@[simp] theorem get_MEM_CFG_rate (w : Wr) : w.get MEM_CFG.rate = w.val / 2 ^ 0 % 2 ^ 3 := rfl
@[simp] theorem writeField_MEM_ZERO_start (s : State) (w : Wr) (i : List Nat) : s.writeField w i MEM_ZERO.start = s := rfl
@[simp] theorem width_MEM_ZERO_start : MEM_ZERO.start.width = 1 := rfl
@[simp] theorem get_MEM_ZERO_start (w : Wr) : w.get MEM_ZERO.start = w.val / 2 ^ 63 % 2 ^ 1 := rfl
@[simp] theorem writeField_MEM_ZERO_busy (s : State) (w : Wr) (i : List Nat) : s.writeField w i MEM_ZERO.busy = s := rfl
@[simp] theorem width_MEM_ZERO_busy : MEM_ZERO.busy.width = 1 := rfl
@[simp] theorem get_MEM_ZERO_busy (w : Wr) : w.get MEM_ZERO.busy = w.val / 2 ^ 62 % 2 ^ 1 := rfl
@[simp] theorem writeField_MEM_ZERO_nblocks (s : State) (w : Wr) (i : List Nat) : s.writeField w i MEM_ZERO.nblocks = s.setReg MEM_ZERO.nblocks i (w.get MEM_ZERO.nblocks) := rfl
@[simp] theorem width_MEM_ZERO_nblocks : MEM_ZERO.nblocks.width = 24 := rfl
@[simp] theorem get_MEM_ZERO_nblocks (w : Wr) : w.get MEM_ZERO.nblocks = w.val / 2 ^ 32 % 2 ^ 24 := rfl
@[simp] theorem writeField_MEM_ZERO_first (s : State) (w : Wr) (i : List Nat) : s.writeField w i MEM_ZERO.first = s.setReg MEM_ZERO.first i (w.get MEM_ZERO.first) := rfl
@[simp] theorem width_MEM_ZERO_first : MEM_ZERO.first.width = 24 := rfl
@[simp] theorem get_MEM_ZERO_first (w : Wr) : w.get MEM_ZERO.first = w.val / 2 ^ 0 % 2 ^ 24 := rfl
@[simp] theorem writeField_ECC_REMAP_DRAM_valid (s : State) (w : Wr) (i : List Nat) : s.writeField w i ECC_REMAP_DRAM.valid = s.setReg ECC_REMAP_DRAM.valid i (w.get ECC_REMAP_DRAM.valid) := rfl
@[simp] theorem width_ECC_REMAP_DRAM_valid : ECC_REMAP_DRAM.valid.width = 1 := rfl
@[simp] theorem get_ECC_REMAP_DRAM_valid (w : Wr) : w.get ECC_REMAP_DRAM.valid = w.val / 2 ^ 63 % 2 ^ 1 := rfl
@[simp] theorem writeField_ECC_REMAP_DRAM_page (s : State) (w : Wr) (i : List Nat) : s.writeField w i ECC_REMAP_DRAM.page = s.setReg ECC_REMAP_DRAM.page i (w.get ECC_REMAP_DRAM.page) := rfl
@[simp] theorem width_ECC_REMAP_DRAM_page : ECC_REMAP_DRAM.page.width = 24 := rfl
@[simp] theorem get_ECC_REMAP_DRAM_page (w : Wr) : w.get ECC_REMAP_DRAM.page = w.val / 2 ^ 0 % 2 ^ 24 := rfl
@[simp] theorem writeField_ECC_REMAP_SRAM_valid (s : State) (w : Wr) (i : List Nat) : s.writeField w i ECC_REMAP_SRAM.valid = s.setReg ECC_REMAP_SRAM.valid i (w.get ECC_REMAP_SRAM.valid) := rfl
@[simp] theorem width_ECC_REMAP_SRAM_valid : ECC_REMAP_SRAM.valid.width = 1 := rfl
@[simp] theorem get_ECC_REMAP_SRAM_valid (w : Wr) : w.get ECC_REMAP_SRAM.valid = w.val / 2 ^ 63 % 2 ^ 1 := rfl
@[simp] theorem writeField_ECC_REMAP_SRAM_line (s : State) (w : Wr) (i : List Nat) : s.writeField w i ECC_REMAP_SRAM.line = s.setReg ECC_REMAP_SRAM.line i (w.get ECC_REMAP_SRAM.line) := rfl
@[simp] theorem width_ECC_REMAP_SRAM_line : ECC_REMAP_SRAM.line.width = 17 := rfl
@[simp] theorem get_ECC_REMAP_SRAM_line (w : Wr) : w.get ECC_REMAP_SRAM.line = w.val / 2 ^ 0 % 2 ^ 17 := rfl
@[simp] theorem writeField_CFG_TXN_begin (s : State) (w : Wr) (i : List Nat) : s.writeField w i CFG_TXN.begin = s := rfl
@[simp] theorem width_CFG_TXN_begin : CFG_TXN.begin.width = 1 := rfl
@[simp] theorem get_CFG_TXN_begin (w : Wr) : w.get CFG_TXN.begin = w.val / 2 ^ 31 % 2 ^ 1 := rfl
@[simp] theorem writeField_CFG_TXN_commit (s : State) (w : Wr) (i : List Nat) : s.writeField w i CFG_TXN.commit = s := rfl
@[simp] theorem width_CFG_TXN_commit : CFG_TXN.commit.width = 1 := rfl
@[simp] theorem get_CFG_TXN_commit (w : Wr) : w.get CFG_TXN.commit = w.val / 2 ^ 30 % 2 ^ 1 := rfl
@[simp] theorem writeField_CFG_TXN_rollback (s : State) (w : Wr) (i : List Nat) : s.writeField w i CFG_TXN.rollback = s := rfl
@[simp] theorem width_CFG_TXN_rollback : CFG_TXN.rollback.width = 1 := rfl
@[simp] theorem get_CFG_TXN_rollback (w : Wr) : w.get CFG_TXN.rollback = w.val / 2 ^ 29 % 2 ^ 1 := rfl
@[simp] theorem writeField_CFG_TXN_when (s : State) (w : Wr) (i : List Nat) : s.writeField w i CFG_TXN.when = s.setReg CFG_TXN.when i (w.get CFG_TXN.when) := rfl
@[simp] theorem width_CFG_TXN_when : CFG_TXN.when.width = 1 := rfl
@[simp] theorem get_CFG_TXN_when (w : Wr) : w.get CFG_TXN.when = w.val / 2 ^ 28 % 2 ^ 1 := rfl
@[simp] theorem writeField_CFG_TXN_staged (s : State) (w : Wr) (i : List Nat) : s.writeField w i CFG_TXN.staged = s := rfl
@[simp] theorem width_CFG_TXN_staged : CFG_TXN.staged.width = 9 := rfl
@[simp] theorem get_CFG_TXN_staged (w : Wr) : w.get CFG_TXN.staged = w.val / 2 ^ 0 % 2 ^ 9 := rfl
@[simp] theorem writeField_HOST_FN_BIND_part (s : State) (w : Wr) (i : List Nat) : s.writeField w i HOST_FN_BIND.part = if s.locked then s else s.setReg HOST_FN_BIND.part i (w.get HOST_FN_BIND.part) := rfl
@[simp] theorem width_HOST_FN_BIND_part : HOST_FN_BIND.part.width = 2 := rfl
@[simp] theorem get_HOST_FN_BIND_part (w : Wr) : w.get HOST_FN_BIND.part = w.val / 2 ^ 0 % 2 ^ 2 := rfl
@[simp] theorem writeField_HOST_PART_CTRL_reset (s : State) (w : Wr) (i : List Nat) : s.writeField w i HOST_PART_CTRL.reset = s := rfl
@[simp] theorem width_HOST_PART_CTRL_reset : HOST_PART_CTRL.reset.width = 1 := rfl
@[simp] theorem get_HOST_PART_CTRL_reset (w : Wr) : w.get HOST_PART_CTRL.reset = w.val / 2 ^ 31 % 2 ^ 1 := rfl
@[simp] theorem writeField_HOST_PART_CTRL_stopped (s : State) (w : Wr) (i : List Nat) : s.writeField w i HOST_PART_CTRL.stopped = s := rfl
@[simp] theorem width_HOST_PART_CTRL_stopped : HOST_PART_CTRL.stopped.width = 1 := rfl
@[simp] theorem get_HOST_PART_CTRL_stopped (w : Wr) : w.get HOST_PART_CTRL.stopped = w.val / 2 ^ 30 % 2 ^ 1 := rfl
@[simp] theorem writeField_HOST_PART_CTRL_share (s : State) (w : Wr) (i : List Nat) : s.writeField w i HOST_PART_CTRL.share = s.setReg HOST_PART_CTRL.share i (w.get HOST_PART_CTRL.share) := rfl
@[simp] theorem width_HOST_PART_CTRL_share : HOST_PART_CTRL.share.width = 6 := rfl
@[simp] theorem get_HOST_PART_CTRL_share (w : Wr) : w.get HOST_PART_CTRL.share = w.val / 2 ^ 0 % 2 ^ 6 := rfl
@[simp] theorem writeField_HOST_MAP_valid (s : State) (w : Wr) (i : List Nat) : s.writeField w i HOST_MAP.valid = s.setReg HOST_MAP.valid i (w.get HOST_MAP.valid) := rfl
@[simp] theorem width_HOST_MAP_valid : HOST_MAP.valid.width = 1 := rfl
@[simp] theorem get_HOST_MAP_valid (w : Wr) : w.get HOST_MAP.valid = w.val / 2 ^ 63 % 2 ^ 1 := rfl
@[simp] theorem writeField_HOST_MAP_rd (s : State) (w : Wr) (i : List Nat) : s.writeField w i HOST_MAP.rd = s.setReg HOST_MAP.rd i (w.get HOST_MAP.rd) := rfl
@[simp] theorem width_HOST_MAP_rd : HOST_MAP.rd.width = 1 := rfl
@[simp] theorem get_HOST_MAP_rd (w : Wr) : w.get HOST_MAP.rd = w.val / 2 ^ 62 % 2 ^ 1 := rfl
@[simp] theorem writeField_HOST_MAP_wr (s : State) (w : Wr) (i : List Nat) : s.writeField w i HOST_MAP.wr = s.setReg HOST_MAP.wr i (w.get HOST_MAP.wr) := rfl
@[simp] theorem width_HOST_MAP_wr : HOST_MAP.wr.width = 1 := rfl
@[simp] theorem get_HOST_MAP_wr (w : Wr) : w.get HOST_MAP.wr = w.val / 2 ^ 61 % 2 ^ 1 := rfl
@[simp] theorem writeField_HOST_MAP_page (s : State) (w : Wr) (i : List Nat) : s.writeField w i HOST_MAP.page = s.setReg HOST_MAP.page i (w.get HOST_MAP.page) := rfl
@[simp] theorem width_HOST_MAP_page : HOST_MAP.page.width = 27 := rfl
@[simp] theorem get_HOST_MAP_page (w : Wr) : w.get HOST_MAP.page = w.val / 2 ^ 21 % 2 ^ 27 := rfl
@[simp] theorem writeField_SAFE_CTRL_key (s : State) (w : Wr) (i : List Nat) : s.writeField w i SAFE_CTRL.key = s := rfl
@[simp] theorem width_SAFE_CTRL_key : SAFE_CTRL.key.width = 16 := rfl
@[simp] theorem get_SAFE_CTRL_key (w : Wr) : w.get SAFE_CTRL.key = w.val / 2 ^ 16 % 2 ^ 16 := rfl
@[simp] theorem writeField_SAFE_CTRL_restart (s : State) (w : Wr) (i : List Nat) : s.writeField w i SAFE_CTRL.restart = s := rfl
@[simp] theorem width_SAFE_CTRL_restart : SAFE_CTRL.restart.width = 1 := rfl
@[simp] theorem get_SAFE_CTRL_restart (w : Wr) : w.get SAFE_CTRL.restart = w.val / 2 ^ 15 % 2 ^ 1 := rfl
@[simp] theorem writeField_SAFE_CTRL_force (s : State) (w : Wr) (i : List Nat) : s.writeField w i SAFE_CTRL.force = s := rfl
@[simp] theorem width_SAFE_CTRL_force : SAFE_CTRL.force.width = 1 := rfl
@[simp] theorem get_SAFE_CTRL_force (w : Wr) : w.get SAFE_CTRL.force = w.val / 2 ^ 14 % 2 ^ 1 := rfl
@[simp] theorem writeField_SAFE_CTRL_kick (s : State) (w : Wr) (i : List Nat) : s.writeField w i SAFE_CTRL.kick = s := rfl
@[simp] theorem width_SAFE_CTRL_kick : SAFE_CTRL.kick.width = 1 := rfl
@[simp] theorem get_SAFE_CTRL_kick (w : Wr) : w.get SAFE_CTRL.kick = w.val / 2 ^ 13 % 2 ^ 1 := rfl
@[simp] theorem writeField_SAFE_CTRL_kick_ms (s : State) (w : Wr) (i : List Nat) : s.writeField w i SAFE_CTRL.kick_ms = s.setReg SAFE_CTRL.kick_ms i (w.get SAFE_CTRL.kick_ms) := rfl
@[simp] theorem width_SAFE_CTRL_kick_ms : SAFE_CTRL.kick_ms.width = 8 := rfl
@[simp] theorem get_SAFE_CTRL_kick_ms (w : Wr) : w.get SAFE_CTRL.kick_ms = w.val / 2 ^ 0 % 2 ^ 8 := rfl
@[simp] theorem writeField_SAFE_STEST_start (s : State) (w : Wr) (i : List Nat) : s.writeField w i SAFE_STEST.start = s := rfl
@[simp] theorem width_SAFE_STEST_start : SAFE_STEST.start.width = 1 := rfl
@[simp] theorem get_SAFE_STEST_start (w : Wr) : w.get SAFE_STEST.start = w.val / 2 ^ 31 % 2 ^ 1 := rfl
@[simp] theorem writeField_SAFE_STEST_release (s : State) (w : Wr) (i : List Nat) : s.writeField w i SAFE_STEST.release = s := rfl
@[simp] theorem width_SAFE_STEST_release : SAFE_STEST.release.width = 1 := rfl
@[simp] theorem get_SAFE_STEST_release (w : Wr) : w.get SAFE_STEST.release = w.val / 2 ^ 30 % 2 ^ 1 := rfl
@[simp] theorem writeField_SAFE_STEST_max_out (s : State) (w : Wr) (i : List Nat) : s.writeField w i SAFE_STEST.max_out = s.setReg SAFE_STEST.max_out i (w.get SAFE_STEST.max_out) := rfl
@[simp] theorem width_SAFE_STEST_max_out : SAFE_STEST.max_out.width = 2 := rfl
@[simp] theorem get_SAFE_STEST_max_out (w : Wr) : w.get SAFE_STEST.max_out = w.val / 2 ^ 8 % 2 ^ 2 := rfl
@[simp] theorem writeField_SAFE_STEST_core (s : State) (w : Wr) (i : List Nat) : s.writeField w i SAFE_STEST.core = s.setReg SAFE_STEST.core i (w.get SAFE_STEST.core) := rfl
@[simp] theorem width_SAFE_STEST_core : SAFE_STEST.core.width = 5 := rfl
@[simp] theorem get_SAFE_STEST_core (w : Wr) : w.get SAFE_STEST.core = w.val / 2 ^ 0 % 2 ^ 5 := rfl
@[simp] theorem writeField_PWR_CORE_GATE_ready (s : State) (w : Wr) (i : List Nat) : s.writeField w i PWR_CORE_GATE.ready = s := rfl
@[simp] theorem width_PWR_CORE_GATE_ready : PWR_CORE_GATE.ready.width = 32 := rfl
@[simp] theorem get_PWR_CORE_GATE_ready (w : Wr) : w.get PWR_CORE_GATE.ready = w.val / 2 ^ 32 % 2 ^ 32 := rfl
@[simp] theorem writeField_PWR_CORE_GATE_gate (s : State) (w : Wr) (i : List Nat) : s.writeField w i PWR_CORE_GATE.gate = s.setReg PWR_CORE_GATE.gate i (w.get PWR_CORE_GATE.gate) := rfl
@[simp] theorem width_PWR_CORE_GATE_gate : PWR_CORE_GATE.gate.width = 32 := rfl
@[simp] theorem get_PWR_CORE_GATE_gate (w : Wr) : w.get PWR_CORE_GATE.gate = w.val / 2 ^ 0 % 2 ^ 32 := rfl
@[simp] theorem writeField_PWR_SLEEP_sleep (s : State) (w : Wr) (i : List Nat) : s.writeField w i PWR_SLEEP.sleep = s := rfl
@[simp] theorem width_PWR_SLEEP_sleep : PWR_SLEEP.sleep.width = 1 := rfl
@[simp] theorem get_PWR_SLEEP_sleep (w : Wr) : w.get PWR_SLEEP.sleep = w.val / 2 ^ 63 % 2 ^ 1 := rfl
@[simp] theorem writeField_PWR_SLEEP_sleep_err (s : State) (w : Wr) (i : List Nat) : s.writeField w i PWR_SLEEP.sleep_err = if w.get PWR_SLEEP.sleep_err = 0 then s else s.setReg PWR_SLEEP.sleep_err i 0 := rfl
@[simp] theorem width_PWR_SLEEP_sleep_err : PWR_SLEEP.sleep_err.width = 1 := rfl
@[simp] theorem get_PWR_SLEEP_sleep_err (w : Wr) : w.get PWR_SLEEP.sleep_err = w.val / 2 ^ 62 % 2 ^ 1 := rfl
@[simp] theorem writeField_PWR_SLEEP_last_wake (s : State) (w : Wr) (i : List Nat) : s.writeField w i PWR_SLEEP.last_wake = s := rfl
@[simp] theorem width_PWR_SLEEP_last_wake : PWR_SLEEP.last_wake.width = 3 := rfl
@[simp] theorem get_PWR_SLEEP_last_wake (w : Wr) : w.get PWR_SLEEP.last_wake = w.val / 2 ^ 4 % 2 ^ 3 := rfl
@[simp] theorem writeField_PWR_SLEEP_wake_en (s : State) (w : Wr) (i : List Nat) : s.writeField w i PWR_SLEEP.wake_en = s.setReg PWR_SLEEP.wake_en i (w.get PWR_SLEEP.wake_en) := rfl
@[simp] theorem width_PWR_SLEEP_wake_en : PWR_SLEEP.wake_en.width = 3 := rfl
@[simp] theorem get_PWR_SLEEP_wake_en (w : Wr) : w.get PWR_SLEEP.wake_en = w.val / 2 ^ 0 % 2 ^ 3 := rfl
@[simp] theorem writeField_BOOT_CTRL_done (s : State) (w : Wr) (i : List Nat) : s.writeField w i BOOT_CTRL.done = s := rfl
@[simp] theorem width_BOOT_CTRL_done : BOOT_CTRL.done.width = 1 := rfl
@[simp] theorem get_BOOT_CTRL_done (w : Wr) : w.get BOOT_CTRL.done = w.val / 2 ^ 63 % 2 ^ 1 := rfl
@[simp] theorem writeField_BOOT_CTRL_sw_reset (s : State) (w : Wr) (i : List Nat) : s.writeField w i BOOT_CTRL.sw_reset = s := rfl
@[simp] theorem width_BOOT_CTRL_sw_reset : BOOT_CTRL.sw_reset.width = 1 := rfl
@[simp] theorem get_BOOT_CTRL_sw_reset (w : Wr) : w.get BOOT_CTRL.sw_reset = w.val / 2 ^ 62 % 2 ^ 1 := rfl
@[simp] theorem writeField_BOOT_CTRL_key (s : State) (w : Wr) (i : List Nat) : s.writeField w i BOOT_CTRL.key = s := rfl
@[simp] theorem width_BOOT_CTRL_key : BOOT_CTRL.key.width = 16 := rfl
@[simp] theorem get_BOOT_CTRL_key (w : Wr) : w.get BOOT_CTRL.key = w.val / 2 ^ 32 % 2 ^ 16 := rfl
@[simp] theorem writeField_BOOT_CTRL_next_slot (s : State) (w : Wr) (i : List Nat) : s.writeField w i BOOT_CTRL.next_slot = s.setReg BOOT_CTRL.next_slot i (w.get BOOT_CTRL.next_slot) := rfl
@[simp] theorem width_BOOT_CTRL_next_slot : BOOT_CTRL.next_slot.width = 1 := rfl
@[simp] theorem get_BOOT_CTRL_next_slot (w : Wr) : w.get BOOT_CTRL.next_slot = w.val / 2 ^ 0 % 2 ^ 1 := rfl
@[simp] theorem writeField_SEC_LOCK_lock (s : State) (w : Wr) (i : List Nat) : s.writeField w i SEC_LOCK.lock = s := rfl
@[simp] theorem width_SEC_LOCK_lock : SEC_LOCK.lock.width = 1 := rfl
@[simp] theorem get_SEC_LOCK_lock (w : Wr) : w.get SEC_LOCK.lock = w.val / 2 ^ 31 % 2 ^ 1 := rfl
@[simp] theorem writeField_SEC_LOCK_otp_err (s : State) (w : Wr) (i : List Nat) : s.writeField w i SEC_LOCK.otp_err = if w.get SEC_LOCK.otp_err = 0 then s else s.setReg SEC_LOCK.otp_err i 0 := rfl
@[simp] theorem width_SEC_LOCK_otp_err : SEC_LOCK.otp_err.width = 1 := rfl
@[simp] theorem get_SEC_LOCK_otp_err (w : Wr) : w.get SEC_LOCK.otp_err = w.val / 2 ^ 2 % 2 ^ 1 := rfl
@[simp] theorem writeField_SEC_LOCK_jtag_open (s : State) (w : Wr) (i : List Nat) : s.writeField w i SEC_LOCK.jtag_open = s := rfl
@[simp] theorem width_SEC_LOCK_jtag_open : SEC_LOCK.jtag_open.width = 1 := rfl
@[simp] theorem get_SEC_LOCK_jtag_open (w : Wr) : w.get SEC_LOCK.jtag_open = w.val / 2 ^ 1 % 2 ^ 1 := rfl
@[simp] theorem writeField_SEC_LOCK_locked (s : State) (w : Wr) (i : List Nat) : s.writeField w i SEC_LOCK.locked = s := rfl
@[simp] theorem width_SEC_LOCK_locked : SEC_LOCK.locked.width = 1 := rfl
@[simp] theorem get_SEC_LOCK_locked (w : Wr) : w.get SEC_LOCK.locked = w.val / 2 ^ 0 % 2 ^ 1 := rfl
@[simp] theorem writeField_SEC_KEY_programmed (s : State) (w : Wr) (i : List Nat) : s.writeField w i SEC_KEY.programmed = s := rfl
@[simp] theorem width_SEC_KEY_programmed : SEC_KEY.programmed.width = 1 := rfl
@[simp] theorem get_SEC_KEY_programmed (w : Wr) : w.get SEC_KEY.programmed = w.val / 2 ^ 31 % 2 ^ 1 := rfl
@[simp] theorem writeField_SEC_KEY_revoked (s : State) (w : Wr) (i : List Nat) : s.writeField w i SEC_KEY.revoked = s := rfl
@[simp] theorem width_SEC_KEY_revoked : SEC_KEY.revoked.width = 1 := rfl
@[simp] theorem get_SEC_KEY_revoked (w : Wr) : w.get SEC_KEY.revoked = w.val / 2 ^ 30 % 2 ^ 1 := rfl
@[simp] theorem writeField_SEC_KEY_revoke (s : State) (w : Wr) (i : List Nat) : s.writeField w i SEC_KEY.revoke = s := rfl
@[simp] theorem width_SEC_KEY_revoke : SEC_KEY.revoke.width = 1 := rfl
@[simp] theorem get_SEC_KEY_revoke (w : Wr) : w.get SEC_KEY.revoke = w.val / 2 ^ 29 % 2 ^ 1 := rfl
@[simp] theorem writeField_SEC_KEY_in_use (s : State) (w : Wr) (i : List Nat) : s.writeField w i SEC_KEY.in_use = s := rfl
@[simp] theorem width_SEC_KEY_in_use : SEC_KEY.in_use.width = 1 := rfl
@[simp] theorem get_SEC_KEY_in_use (w : Wr) : w.get SEC_KEY.in_use = w.val / 2 ^ 0 % 2 ^ 1 := rfl
@[simp] theorem writeField_SEC_ROLLBACK_advance (s : State) (w : Wr) (i : List Nat) : s.writeField w i SEC_ROLLBACK.advance = s := rfl
@[simp] theorem width_SEC_ROLLBACK_advance : SEC_ROLLBACK.advance.width = 1 := rfl
@[simp] theorem get_SEC_ROLLBACK_advance (w : Wr) : w.get SEC_ROLLBACK.advance = w.val / 2 ^ 63 % 2 ^ 1 := rfl
@[simp] theorem writeField_SEC_ROLLBACK_target (s : State) (w : Wr) (i : List Nat) : s.writeField w i SEC_ROLLBACK.target = s.setReg SEC_ROLLBACK.target i (w.get SEC_ROLLBACK.target) := rfl
@[simp] theorem width_SEC_ROLLBACK_target : SEC_ROLLBACK.target.width = 7 := rfl
@[simp] theorem get_SEC_ROLLBACK_target (w : Wr) : w.get SEC_ROLLBACK.target = w.val / 2 ^ 8 % 2 ^ 7 := rfl
@[simp] theorem writeField_SEC_ROLLBACK_count (s : State) (w : Wr) (i : List Nat) : s.writeField w i SEC_ROLLBACK.count = s := rfl
@[simp] theorem width_SEC_ROLLBACK_count : SEC_ROLLBACK.count.width = 7 := rfl
@[simp] theorem get_SEC_ROLLBACK_count (w : Wr) : w.get SEC_ROLLBACK.count = w.val / 2 ^ 0 % 2 ^ 7 := rfl
@[simp] theorem writeField_SEC_MEASURE_extend (s : State) (w : Wr) (i : List Nat) : s.writeField w i SEC_MEASURE.extend = s := rfl
@[simp] theorem width_SEC_MEASURE_extend : SEC_MEASURE.extend.width = 1 := rfl
@[simp] theorem get_SEC_MEASURE_extend (w : Wr) : w.get SEC_MEASURE.extend = w.val / 2 ^ 63 % 2 ^ 1 := rfl
@[simp] theorem writeField_SEC_MEASURE_type (s : State) (w : Wr) (i : List Nat) : s.writeField w i SEC_MEASURE.type = s.setReg SEC_MEASURE.type i (w.get SEC_MEASURE.type) := rfl
@[simp] theorem width_SEC_MEASURE_type : SEC_MEASURE.type.width = 4 := rfl
@[simp] theorem get_SEC_MEASURE_type (w : Wr) : w.get SEC_MEASURE.type = w.val / 2 ^ 8 % 2 ^ 4 := rfl
@[simp] theorem writeField_SEC_MEASURE_entry (s : State) (w : Wr) (i : List Nat) : s.writeField w i SEC_MEASURE.entry = s.setReg SEC_MEASURE.entry i (w.get SEC_MEASURE.entry) := rfl
@[simp] theorem width_SEC_MEASURE_entry : SEC_MEASURE.entry.width = 4 := rfl
@[simp] theorem get_SEC_MEASURE_entry (w : Wr) : w.get SEC_MEASURE.entry = w.val / 2 ^ 0 % 2 ^ 4 := rfl

end Sys2Proof.Machine
end

