-- ==== Sys2Proof/Laws/Frame.lean ====
section
/-! SUPPORT. Laws/Frame.lean: how SameRegsBut is shown. -/
namespace Sys2Proof.Machine

theorem SameRegsBut.of_csr {s t : State} {l : List (Fld × List Nat)} (h : t.csr = s.csr) : SameRegsBut s t l := by
  intro g j _
  simp only [State.reg, h]

theorem SameRegsBut.refl (s : State) (l : List (Fld × List Nat)) : SameRegsBut s s l := fun _ _ _ => rfl

theorem SameRegsBut.trans {s t u : State} {l : List (Fld × List Nat)} (h : SameRegsBut s t l) (k : SameRegsBut t u l) :
    SameRegsBut s u l := fun f i hf => (k f i hf).trans (h f i hf)

theorem SameRegsBut.set {s t : State} {l : List (Fld × List Nat)} (f : Fld) (i : List Nat) (v : Nat) (hm : (f, i) ∈ l)
    (h : SameRegsBut s t l) : SameRegsBut s (t.setReg f i v) l := by
  intro g j hg
  rw [State.reg_setReg_ne (hg _ hm), h g j hg]

theorem SameRegsBut.bump {s t : State} {l : List (Fld × List Nat)} (f : Fld) (i : List Nat) (n : Nat) (hm : (f, i) ∈ l)
    (h : SameRegsBut s t l) : SameRegsBut s (t.bump f i n) l := h.set f i _ hm

theorem SameRegsBut.wrap {s t : State} {l : List (Fld × List Nat)} (f : Fld) (i : List Nat) (n : Nat) (hm : (f, i) ∈ l)
    (h : SameRegsBut s t l) : SameRegsBut s (t.wrap f i n) l := h.set f i _ hm

theorem SameRegsBut.field {s t : State} {l : List (Fld × List Nat)} (w : Wr) (i : List Nat) (f : Fld) (hm : (f, i) ∈ l)
    (h : SameRegsBut s t l) : SameRegsBut s (t.writeField w i f) l := by
  unfold State.writeField
  split
  · exact h.set f i _ hm
  · split
    · exact h
    · exact h.set f i _ hm
  · split
    · exact h
    · exact h.set f i _ hm
  · exact h

/-- A plain write changes no register fields but those it takes. -/
theorem SameRegsBut.plain {s t : State} {l : List (Fld × List Nat)} (w : Wr) (i : List Nat) (hm : ∀ f ∈ w.taken, (f, i) ∈ l)
    (h : SameRegsBut s t l) : SameRegsBut s (plainWrite t w i) l := by
  unfold plainWrite
  have : ∀ (k : List Fld) (u : State), (∀ f ∈ k, (f, i) ∈ l) → SameRegsBut s u l →
      SameRegsBut s (k.foldl (fun s f => s.writeField w i f) u) l := by
    intro k
    induction k with
    | nil => intro u _ hu; exact hu
    | cons f k ih =>
      intro u hk hu
      exact ih _ (fun g hg => hk g (List.mem_cons_of_mem _ hg)) (hu.field w i f (hk f List.mem_cons_self))
  exact this _ _ hm h

end Sys2Proof.Machine
end

