-- ==== Sys2Proof/Laws/Memory.lean ====
section
/-! SUPPORT. Laws/Memory.lean: the canonical form of memory. Every list operation that stores or removes bytes keeps it. -/
namespace Sys2Proof.Machine

/-! ### Lists of keys and values -/

/-- Rising order, as a relation between every two entries. -/
theorem asorted_iff {α : Type} (l : List (Nat × α)) : asorted l = true ↔ l.Pairwise fun e g => e.1 < g.1 := by
  induction l with
  | nil => simp [asorted]
  | cons e l ih =>
    cases l with
    | nil => simp [asorted]
    | cons g l =>
      simp only [asorted, Bool.and_eq_true, decide_eq_true_eq, ih]
      constructor
      · rintro ⟨h, k⟩
        refine List.pairwise_cons.2 ⟨?_, k⟩
        intro x hx
        rcases List.mem_cons.1 hx with rfl | hx
        · exact h
        · exact Nat.lt_trans h ((List.pairwise_cons.1 k).1 x hx)
      · intro h
        have := List.pairwise_cons.1 h
        exact ⟨this.1 g List.mem_cons_self, this.2⟩

/-- The entries after one is put: the new one, or an old one of another key. -/
theorem mem_aput {α : Type} {k : Nat} {v : α} {l : List (Nat × α)} {e : Nat × α} (h : e ∈ aput k v l) : e = (k, v) ∨ e ∈ l := by
  induction l with
  | nil => simpa [aput] using h
  | cons g l ih =>
    unfold aput at h
    split at h
    · rcases List.mem_cons.1 h with rfl | h
      · exact .inl rfl
      · exact .inr h
    · split at h
      · rcases List.mem_cons.1 h with rfl | h
        · exact .inl rfl
        · exact .inr (List.mem_cons_of_mem _ h)
      · rcases List.mem_cons.1 h with rfl | h
        · exact .inr List.mem_cons_self
        · exact (ih h).imp id (List.mem_cons_of_mem _)

theorem aput_asorted {α : Type} (k : Nat) (v : α) {l : List (Nat × α)} (h : asorted l = true) : asorted (aput k v l) = true := by
  rw [asorted_iff] at *
  induction l with
  | nil => simp [aput]
  | cons g l ih =>
    have hg := List.pairwise_cons.1 h
    unfold aput
    split
    · next hk =>
      refine List.pairwise_cons.2 ⟨?_, h⟩
      intro x hx
      rcases List.mem_cons.1 hx with rfl | hx
      · exact hk
      · exact Nat.lt_trans hk (hg.1 x hx)
    · split
      · next hk hk' =>
        subst hk'
        exact List.pairwise_cons.2 ⟨hg.1, hg.2⟩
      · next hk hk' =>
        refine List.pairwise_cons.2 ⟨?_, ih hg.2⟩
        intro x hx
        rcases mem_aput hx with rfl | hx
        · simp only at hk hk' ⊢; omega
        · exact hg.1 x hx

theorem filter_asorted {α : Type} (p : Nat × α → Bool) {l : List (Nat × α)} (h : asorted l = true) : asorted (l.filter p) = true := by
  rw [asorted_iff] at *
  exact h.sublist List.filter_sublist

/-! ### Memory -/

theorem memory_wf_iff (m : List Host.Cell) : Memory.wf m = true ↔ asorted m = true ∧ ∀ e ∈ m, e.2 ≠ 0 := by
  simp [Memory.wf, List.all_eq_true]

/-- Removing bytes keeps the form. -/
theorem filter_wf (p : Host.Cell → Bool) {m : List Host.Cell} (h : Memory.wf m = true) : Memory.wf (m.filter p) = true := by
  rw [memory_wf_iff] at *
  exact ⟨filter_asorted p h.1, fun e he => h.2 e (List.mem_filter.1 he).1⟩

/-- Storing a byte keeps the form. -/
theorem aset_wf (a : Nat) (b : Byte) {m : List Host.Cell} (h : Memory.wf m = true) : Memory.wf (aset a b 0 m) = true := by
  unfold aset
  split
  · exact filter_wf _ h
  · next hb =>
    rw [memory_wf_iff] at *
    refine ⟨aput_asorted a b h.1, ?_⟩
    intro e he
    rcases mem_aput he with rfl | he
    · exact hb
    · exact h.2 e he

theorem memPut_wf (a : Nat) (b : Byte) {m : List Host.Cell} (h : Memory.wf m = true) : Memory.wf (memPut m a b) = true := aset_wf a b h

theorem memPutAll_wf (base : Nat) (l : List (Nat × Byte)) {m : List Host.Cell} (h : Memory.wf m = true) :
    Memory.wf (memPutAll m base l) = true := by
  induction l with
  | nil => exact h
  | cons e l ih => exact memPut_wf _ _ ih

theorem memPutBytes_wf (bs : List Byte) : ∀ (a : Nat) {m : List Host.Cell}, Memory.wf m = true → Memory.wf (memPutBytes m a bs) = true := by
  induction bs with
  | nil => intro a m h; exact h
  | cons b bs ih => intro a m h; exact ih _ (memPut_wf a b h)

theorem xorBytes_wf (n : Nat) : ∀ (a e : Nat) {m : List Host.Cell}, Memory.wf m = true → Memory.wf (xorBytes m a e n) = true := by
  induction n with
  | zero => intro a e m h; exact h
  | succ n ih => intro a e m h; exact ih _ _ (aset_wf _ _ h)

end Sys2Proof.Machine
end

