-- ==== Sys2Proof/Laws/MemoryOps.lean ====
section
/-! SUPPORT. Laws/MemoryOps.lean: which shared operations leave memory as it is, and that those which write it keep its canonical form. -/
namespace Sys2Proof.Machine
open Reg

/-! ### Operations that leave memory as it is -/

theorem foldl_mem {α : Type} (f : State → α → State) (hf : ∀ s a, (f s a).mem = s.mem) (l : List α) (s : State) :
    (l.foldl f s).mem = s.mem := by
  induction l generalizing s with
  | nil => rfl
  | cons a l ih => rw [List.foldl_cons, ih, hf]

/-- Both branches leave memory. -/
theorem ite_mem {p : Prop} [Decidable p] {a b : State} {m : List Host.Cell} (ha : a.mem = m) (hb : b.mem = m) :
    (if p then a else b).mem = m := by
  by_cases h : p
  · rw [if_pos h]; exact ha
  · rw [if_neg h]; exact hb

/-- Both branches keep the form. -/
theorem ite_wf {p : Prop} [Decidable p] {a b : State} (ha : Memory.wf a.mem = true) (hb : Memory.wf b.mem = true) :
    Memory.wf (if p then a else b).mem = true := by
  by_cases h : p
  · rw [if_pos h]; exact ha
  · rw [if_neg h]; exact hb

/-- What leaves memory keeps the form. -/
theorem wf_of_mem {s t : State} (h : t.mem = s.mem) (hs : Memory.wf s.mem = true) : Memory.wf t.mem = true := h ▸ hs

@[simp] theorem State.frameUpdate_mem (s : State) : s.frameUpdate.mem = s.mem := by
  unfold State.frameUpdate
  exact ite_mem rfl (State.setReg_mem _ _ _ _)
@[simp] theorem State.noteCold_mem (s : State) (c : Nat) : (s.noteCold c).mem = s.mem := by
  unfold State.noteCold
  exact ite_mem rfl rfl
@[simp] theorem State.enterSafe_mem (s : State) (c d e : Nat) : (s.enterSafe c d e).mem = s.mem := by
  unfold State.enterSafe
  exact State.frameUpdate_mem _
@[simp] theorem State.moreSafe_mem (s : State) (c d e : Nat) : (s.moreSafe c d e).mem = s.mem := by
  unfold State.moreSafe
  refine (State.frameUpdate_mem _).trans (ite_mem ?_ ?_)
  · exact ite_mem rfl rfl
  · exact ite_mem rfl rfl
@[simp] theorem State.detect_mem (s : State) (c d : Nat) (o : Option Nat) : (s.detect c d o).mem = s.mem := by
  unfold State.detect
  refine ite_mem (ite_mem ?_ ?_) rfl
  · exact (State.moreSafe_mem _ _ _ _).trans (State.noteCold_mem _ _)
  · exact (State.enterSafe_mem _ _ _ _).trans (State.noteCold_mem _ _)
/-- The detection of an early completion. -/
theorem State.stageEarly_mem (s : State) (g : Judge) (j st t : Nat) :
    (if g.stageOn st = true then
      match g.stageRef st with
      | some t0 => if elapsedUs t0 t < g.wdg st SAFE_WDG.min_us then s.detect 0x10 st (some j) else s
      | none => s
    else s).mem = s.mem := by
  cases g.stageRef st with
  | none => exact ite_mem rfl rfl
  | some t0 => exact ite_mem (ite_mem (State.detect_mem _ _ _ _) rfl) rfl
@[simp] theorem State.stageComplete_mem (s : State) (j st : Nat) : (s.stageComplete j st).mem = s.mem := by
  unfold State.stageComplete
  cases s.judge j with
  | none => rfl
  | some g => exact ite_mem rfl (State.stageEarly_mem _ _ _ _ _)
@[simp] theorem State.proofBegin_mem (s : State) (o v : Nat) : (s.proofBegin o v).mem = s.mem := rfl
@[simp] theorem State.proofSignal_mem (s : State) (o v : Nat) : (s.proofSignal o v).mem = s.mem := by
  unfold State.proofSignal
  exact (State.proofBegin_mem _ _ _).trans (foldl_mem _ (fun s g => State.stageComplete_mem s _ _) _ _)

@[simp] theorem State.stopRunning_mem (s : State) (n : CoreId) (v : Nat) : (s.stopRunning n v).mem = s.mem := by
  unfold State.stopRunning
  cases s.runningOn n <;> rfl
@[simp] theorem State.loseOthers_mem (s : State) (n : CoreId) (c : CtxId) : (s.loseOthers n c).mem = s.mem := by
  unfold State.loseOthers
  exact foldl_mem _ (fun s d => State.setCtx_mem s d _) _ _
@[simp] theorem State.startRunning_mem (s : State) (n : CoreId) (c : CtxId) : (s.startRunning n c).mem = s.mem := by
  unfold State.startRunning
  exact State.loseOthers_mem _ _ _
@[simp] theorem State.pickNext_mem (s : State) (n : CoreId) : (s.pickNext n).mem = s.mem := by
  unfold State.pickNext
  cases s.cores[n].run with
  | some _ => rfl
  | none =>
    cases s.bestOf (s.readyOn n) with
    | none => rfl
    | some c => exact State.startRunning_mem _ _ _
@[simp] theorem State.wake_mem (s : State) (c : CtxId) : (s.wake c).mem = s.mem := by
  unfold State.wake
  exact ite_mem rfl (State.pickNext_mem _ _)
@[simp] theorem State.sleep_mem (s : State) (c : CtxId) : (s.sleep c).mem = s.mem := by
  unfold State.sleep
  exact ite_mem ((State.pickNext_mem _ _).trans (State.stopRunning_mem _ _ _)) rfl
@[simp] theorem State.sendMsix_mem (s : State) (f : Fin 8) (v : Nat) : (s.sendMsix f v).mem = s.mem := by
  unfold State.sendMsix
  exact ite_mem rfl (ite_mem rfl rfl)
@[simp] theorem State.raiseVector_mem (s : State) (p : PartId) (v : Nat) : (s.raiseVector p v).mem = s.mem := by
  unfold State.raiseVector
  dsimp only
  split
  · exact ite_mem rfl rfl
  · exact (State.sendMsix_mem _ _ _).trans (ite_mem rfl rfl)
@[simp] theorem State.judgeArm_mem (s : State) (o : Nat) : (s.judgeArm o).mem = s.mem := by
  unfold State.judgeArm
  exact ite_mem (State.raiseVector_mem _ _ _) rfl
@[simp] theorem State.freeEffect_mem (s : State) (e : Effect) : (s.freeEffect e).2.mem = s.mem := by
  cases e <;> rfl
@[simp] theorem State.spoil_mem (s : State) (c : CtxId) (p : Issued → Bool) : (s.spoil c p).mem = s.mem := rfl
@[simp] theorem State.allowed_mem (s : State) (c : CtxId) (e : Effect) : (s.allowed c e).2.mem = s.mem := by
  unfold State.allowed
  by_cases h : s.clashes c e.namedBy = true
  · rw [if_pos h]; exact (State.freeEffect_mem _ _).trans (State.spoil_mem _ _ _)
  · rw [if_neg h]
@[simp] theorem State.give_mem (s : State) (c : CtxId) (e : Effect) : (s.give c e).mem = s.mem := by
  unfold State.give
  exact (State.setCtx_mem _ _ _).trans (State.allowed_mem s c e)
@[simp] theorem State.result_mem (s : State) (c : CtxId) (n : Nat) (e : Effect) : (s.result c n e).mem = s.mem := by
  unfold State.result
  exact ite_mem ((State.setCtx_mem _ _ _).trans (State.allowed_mem s c e))
    ((State.setCtx_mem _ _ _).trans ((State.freeEffect_mem _ _).trans (State.allowed_mem s c e)))
@[simp] theorem State.judgeWait_mem (s : State) (o v : Nat) (c : CtxId) : (s.judgeWait o v c).mem = s.mem := by
  unfold State.judgeWait
  split
  · split
    · split
      · exact (State.wake_mem _ _).trans (State.give_mem _ _ _)
      · rfl
      · rfl
    · rfl
  · rfl
@[simp] theorem State.judgeWaits_mem (s : State) (o v : Nat) : (s.judgeWaits o v).mem = s.mem := by
  unfold State.judgeWaits
  exact foldl_mem _ (fun s c => State.judgeWait_mem s o v c) _ _
/-- An object operation touches no memory. -/
@[simp] theorem State.soExec_mem (s : State) (o : Nat) (k : SoKind) (x : Nat) : (s.soExec o k x).mem = s.mem := by
  unfold State.soExec
  have h : ∀ (t : State) (v : Nat), t.mem = s.mem → ((t.judgeWaits o v).judgeArm o).mem = s.mem := fun t v ht =>
    ((State.judgeArm_mem _ _).trans (State.judgeWaits_mem _ _ _)).trans ht
  exact ite_mem (h _ _ (ite_mem rfl rfl)) ((State.proofSignal_mem _ _ _).trans (h _ _ (ite_mem rfl rfl)))
@[simp] theorem State.soReturn_mem (s : State) (c : CtxId) (q v : Nat) : (s.soReturn c q v).mem = s.mem := by
  unfold State.soReturn
  split
  · exact ite_mem rfl rfl
  · rfl
@[simp] theorem State.registerAt_mem (s : State) (f : Flight) : (s.registerAt f).mem = s.mem := by
  unfold State.registerAt
  split
  · exact ite_mem (State.judgeArm_mem _ _) rfl
  · rfl
@[simp] theorem State.atSlice_mem (s : State) (f : Flight) : (s.atSlice f).mem = s.mem := by
  unfold State.atSlice
  split
  · exact (State.soReturn_mem _ _ _ _).trans (State.soExec_mem _ _ _ _)
  · exact State.registerAt_mem _ _
  · rfl
@[simp] theorem State.drainSlice_mem (s : State) (o : Nat) : (s.drainSlice o).mem = s.mem := by
  unfold State.drainSlice
  exact ite_mem rfl (foldl_mem _ (fun s f => State.atSlice_mem s f) _ _)
@[simp] theorem State.soCome_mem (s : State) (o : Nat) (k : SoKind) (x : Nat) : (s.soCome o k x).mem = s.mem :=
  (State.soExec_mem _ _ _ _).trans (State.drainSlice_mem _ _)
@[simp] theorem State.hwAdd_mem (s : State) (b : Bool) (o : Nat) : (s.hwAdd b o).mem = s.mem := by
  unfold State.hwAdd
  exact ite_mem (State.soCome_mem _ _ _ _) rfl
@[simp] theorem State.judgeCtr_mem (s : State) (n : CoreId) (k : CtrId) (c : CtxId) : (s.judgeCtr n k c).mem = s.mem := by
  unfold State.judgeCtr
  split
  · exact ite_mem ((State.wake_mem _ _).trans (State.give_mem _ _ _)) rfl
  · rfl
@[simp] theorem State.climbTime_mem (s : State) (n : CoreId) (k : CtrId) : (s.climbTime n k).mem = s.mem := by
  unfold State.climbTime
  split
  · exact ite_mem rfl rfl
  · rfl
/-- An arrival counter's advance touches no memory. -/
@[simp] theorem State.advanceCtr_mem (s : State) (n : CoreId) (k : CtrId) : (s.advanceCtr n k).mem = s.mem := by
  unfold State.advanceCtr State.judgeCtrs
  exact (foldl_mem _ (fun s c => State.judgeCtr_mem s n k c) _ _).trans (State.climbTime_mem _ _ _)

@[simp] theorem State.logEvent_mem (s : State) (t u a y b : Nat) (c : Bool) : (s.logEvent t u a y b c).mem = s.mem := by
  unfold State.logEvent
  simp only [State.bump_mem, State.wrap_mem, State.setReg_mem]
@[simp] theorem State.eccSignal_mem (s : State) : s.eccSignal.mem = s.mem := State.hwAdd_mem _ _ _
@[simp] theorem State.bucketAdd_mem (s : State) (u : Nat) : (s.bucketAdd u).mem = s.mem := by
  unfold State.bucketAdd
  exact ite_mem (State.eccSignal_mem _) rfl
@[simp] theorem State.uncorrEvent_mem (s : State) (u : Nat) : (s.uncorrEvent u).mem = s.mem := by
  unfold State.uncorrEvent
  exact ite_mem ((State.detect_mem _ _ _ _).trans (State.eccSignal_mem _)) ((State.detect_mem _ _ _ _).trans (State.eccSignal_mem _))
@[simp] theorem State.diagRecord_mem (s : State) (w : Nat) : (s.diagRecord w).mem = s.mem := by
  unfold State.diagRecord
  exact ite_mem (by simp only [State.setReg_mem]) rfl
@[simp] theorem State.setFlip_mem (s : State) (w p : Nat) : (s.setFlip w p).mem = s.mem := rfl
@[simp] theorem State.setSlot_mem (s : State) (k : Nat) (p : ParitySlot) : (s.setSlot k p).mem = s.mem := rfl
@[simp] theorem State.moveData_mem (s : State) (w e : Nat) : (s.moveData w e).mem = s.mem := by
  unfold State.moveData
  exact ite_mem rfl rfl
@[simp] theorem State.moveCheck_mem (s : State) (w e : Nat) : (s.moveCheck w e).mem = s.mem := by
  unfold State.moveCheck
  exact ite_mem rfl rfl
@[simp] theorem State.anySlot_mem (s : State) (k : Nat) : (s.anySlot k).mem = s.mem := by
  unfold State.anySlot
  exact ite_mem rfl rfl
@[simp] theorem State.freshPage_mem (s : State) (w : Nat) : (s.freshPage w).mem = s.mem := by
  unfold State.freshPage
  exact ite_mem rfl ((State.anySlot_mem _ _).trans (State.anySlot_mem _ _))
@[simp] theorem State.zeroFill_mem (s : State) (b : Nat) : (s.zeroFill b).mem = s.mem :=
  (State.freshPage_mem _ _).trans (State.freshPage_mem _ _)
@[simp] theorem State.readSlot_mem (s : State) (w : Nat) (a b : Bool) : (s.readSlot w a b).mem = s.mem := by
  unfold State.readSlot
  exact ite_mem rfl ((State.bucketAdd_mem _ _).trans (State.logEvent_mem _ _ _ _ _ _ _))
@[simp] theorem State.storeCheck_mem (s : State) (x e : Nat) : (s.storeCheck x e).mem = s.mem := by
  unfold State.storeCheck
  exact ite_mem (State.setFlip_mem _ _ _) rfl
@[simp] theorem State.storeChecks_mem (s : State) (w : Nat) (es : List Nat) : (s.storeChecks w es).mem = s.mem := by
  unfold State.storeChecks
  exact foldl_mem _ (fun s l => State.storeCheck_mem s _ _) _ _
@[simp] theorem State.pageEvent_mem (s : State) (t w p : Nat) (b : Bool) : (s.pageEvent t w p b).mem = s.mem := by
  unfold State.pageEvent
  exact (State.bucketAdd_mem _ _).trans ((State.bump_mem _ _ _ _).trans (State.logEvent_mem _ _ _ _ _ _ _))
@[simp] theorem State.setBuf_mem (s : State) (b : BufId) (l : List Gather) : (s.setBuf b l).mem = s.mem := by
  cases b <;> rfl
@[simp] theorem State.markWritten_mem (s : State) (w : Nat) : (s.markWritten w).mem = s.mem := by
  unfold State.markWritten
  exact ite_mem (ite_mem rfl (State.zeroFill_mem _ _)) rfl
@[simp] theorem State.diagWrite_mem (s : State) (w : Nat) (bs : List Byte) : (s.diagWrite w bs).mem = s.mem := by
  unfold State.diagWrite
  exact ite_mem (ite_mem rfl rfl) rfl
@[simp] theorem State.notClean_mem (s : State) (a n : Nat) : (s.notClean a n).mem = s.mem := by
  unfold State.notClean
  exact ite_mem rfl rfl
@[simp] theorem State.setPoison_mem (s : State) (w : Nat) : (s.setPoison w).mem = s.mem := rfl
@[simp] theorem State.blur_mem (s : State) (a n : Nat) : (s.blur a n).mem = s.mem := by
  unfold State.blur
  exact State.notClean_mem _ _ _

/-! ### Operations that write memory -/

theorem foldl_wf {α : Type} (f : State → α → State) (hf : ∀ s a, Memory.wf s.mem = true → Memory.wf (f s a).mem = true) (l : List α) (s : State)
    (h : Memory.wf s.mem = true) : Memory.wf (l.foldl f s).mem = true := by
  induction l generalizing s with
  | nil => exact h
  | cons a l ih => exact ih _ (hf s a h)

theorem State.xorWord_wf {s : State} (w e : Nat) (h : Memory.wf s.mem = true) : Memory.wf (s.xorWord w e).mem = true := by
  unfold State.xorWord
  rw [State.moveData_mem]
  exact xorBytes_wf _ _ _ h

theorem State.poisonWord_wf {s : State} (w : Nat) (h : Memory.wf s.mem = true) : Memory.wf (s.poisonWord w).mem = true := by
  unfold State.poisonWord
  exact wf_of_mem ((State.setPoison_mem _ _).trans ((State.setFlip_mem _ _ _).trans (State.moveCheck_mem _ _ _))) (State.xorWord_wf w _ h)

theorem State.absorb_wf {s : State} (w : Nat) (h : Memory.wf s.mem = true) : Memory.wf (s.absorb w).mem = true := by
  unfold State.absorb
  exact ite_wf h (ite_wf (State.poisonWord_wf w h) (wf_of_mem (State.setFlip_mem _ _ _) (State.xorWord_wf w _ h)))

theorem State.keeping_wf {s : State} (w : Nat) (f : State → State) (h : Memory.wf (f s).mem = true) : Memory.wf (s.keeping w f).mem = true := by
  unfold State.keeping
  exact ite_wf (wf_of_mem ((State.moveCheck_mem _ _ _).trans (State.moveData_mem _ _ _)) h) h

theorem State.putWord_wf {s : State} (w v : Nat) (h : Memory.wf s.mem = true) : Memory.wf (s.putWord w v).mem = true := by
  unfold State.putWord
  exact wf_of_mem (State.setFlip_mem _ _ _) (State.xorWord_wf w _ h)

theorem State.storePage_wf {s : State} (w : Nat) (ws : List Nat) (h : Memory.wf s.mem = true) : Memory.wf (s.storePage w ws).mem = true := by
  unfold State.storePage
  exact foldl_wf _ (fun _ _ hs => ite_wf (State.putWord_wf _ _ hs) hs) _ _ h

theorem State.fixPage_wf {s t : State} {w : Nat} (e : s.fixPage w = some t) (h : Memory.wf s.mem = true) : Memory.wf t.mem = true := by
  unfold State.fixPage at e
  split at e
  · cases e
  · obtain ⟨l, -, rfl⟩ := Option.map_eq_some_iff.1 e
    exact State.storePage_wf _ _ h

theorem State.fixChecks_mem {s t : State} {w : Nat} (e : s.fixChecks w = some t) : t.mem = s.mem := by
  unfold State.fixChecks at e
  split at e
  · cases e
  · obtain ⟨l, -, rfl⟩ := Option.map_eq_some_iff.1 e
    exact State.storeChecks_mem _ _ _

/-- Whatever the two steps of a recovery come to, memory keeps the form. -/
theorem State.pageSteps_wf {s : State} (w : Nat) (h : Memory.wf s.mem = true) : Memory.wf (s.pageSteps w).2.mem = true := by
  unfold State.pageSteps
  cases e : s.fixPage w with
  | some t => exact State.fixPage_wf e h
  | none =>
    cases e' : s.fixChecks w with
    | none => exact h
    | some t =>
      have ht := wf_of_mem (State.fixChecks_mem e') h
      cases e'' : t.fixPage w with
      | some u => simpa only [e''] using State.fixPage_wf e'' ht
      | none => simpa only [e''] using ht

theorem State.giveUp_wf {s : State} (w p : Nat) (b : Bool) (h : Memory.wf s.mem = true) : Memory.wf (s.giveUp w p b).mem = true := by
  unfold State.giveUp State.uncorrWord
  exact wf_of_mem ((State.uncorrEvent_mem _ _).trans (State.logEvent_mem _ _ _ _ _ _ _)) (ite_wf h (State.poisonWord_wf w h))

theorem State.recovered_wf (w p : Nat) (b : Bool) {x : Option Nat × State} (h : Memory.wf x.2.mem = true) :
    Memory.wf (State.recovered w p b x).mem = true := by
  obtain ⟨o, s⟩ := x
  cases o with
  | none => exact State.giveUp_wf _ _ _ h
  | some k => simpa only [State.recovered, State.pageEvent_mem] using h

theorem State.recoverWord_wf {s : State} (w : Nat) (b : Bool) (h : Memory.wf s.mem = true) : Memory.wf (s.recoverWord w b).mem = true := by
  unfold State.recoverWord
  exact ite_wf (State.recovered_wf _ _ _ (State.pageSteps_wf _ h)) (State.giveUp_wf _ _ _ h)

theorem State.copyWord_wf {s : State} (w : Nat) (h : Memory.wf s.mem = true) : Memory.wf (s.copyWord w).mem = true := by
  unfold State.copyWord
  exact State.absorb_wf _ (ite_wf (State.recoverWord_wf _ _ h) h)

theorem State.copyCorrected_wf {s : State} (here : Nat → Bool) (h : Memory.wf s.mem = true) : Memory.wf (s.copyCorrected here).mem = true := by
  unfold State.copyCorrected
  exact foldl_wf _ (fun _ w hs => State.copyWord_wf w hs) _ _ h

@[simp] theorem State.spareFull_mem (s : State) (a u : Nat) : (s.spareFull a u).mem = s.mem :=
  (State.logEvent_mem _ _ _ _ _ _ _).trans (State.setReg_mem _ _ _ _)
@[simp] theorem State.spareTaken_mem (s : State) (a u : Nat) : (s.spareTaken a u).mem = s.mem :=
  (State.logEvent_mem _ _ _ _ _ _ _).trans (State.bump_mem _ _ _ _)
@[simp] theorem State.hardLine_mem (s : State) (a u : Nat) (g : Nat × Nat) : (s.hardLine a u g).mem = s.mem := by
  unfold State.hardLine
  cases s.freeSpare false g.1 with
  | none => exact State.spareFull_mem _ _ _
  | some i => exact State.spareTaken_mem _ _ _

theorem State.sparePage_wf {s : State} (w u i : Nat) (h : Memory.wf s.mem = true) : Memory.wf (s.sparePage w u i).mem = true := by
  simp only [State.sparePage, State.freshPage_mem, State.setReg_mem]
  exact State.copyCorrected_wf _ h

theorem State.hardPage_wf {s : State} (w u : Nat) (h : Memory.wf s.mem = true) : Memory.wf (s.hardPage w u).mem = true := by
  unfold State.hardPage
  cases s.freeSpare true u with
  | none => exact wf_of_mem (State.spareFull_mem _ _ _) h
  | some i => exact wf_of_mem (State.spareTaken_mem _ _ _) (State.sparePage_wf _ _ _ h)

theorem State.hardFault_wf {s : State} (w : Nat) (h : Memory.wf s.mem = true) : Memory.wf (s.hardFault w).mem = true := by
  unfold State.hardFault
  refine ite_wf h (ite_wf (State.hardPage_wf _ _ h) ?_)
  cases macroOf s w with
  | none => exact h
  | some g => exact wf_of_mem (State.hardLine_mem _ _ _ _) h

theorem State.writeFix_wf {s : State} (w : Nat) (r : Bool) (h : Memory.wf s.mem = true) : Memory.wf (s.writeFix w r).mem = true := by
  unfold State.writeFix
  exact ite_wf h (ite_wf (State.absorb_wf w h) (ite_wf (State.absorb_wf w (State.hardFault_wf w h)) (State.hardFault_wf w h)))

theorem State.recover_wf {s : State} (w : Nat) (a b r c : Bool) (h : Memory.wf s.mem = true) : Memory.wf (s.recover w a b r c).mem = true := by
  unfold State.recover
  have hp : Memory.wf (if s.pageFull w = true then s.readSlot w a b else s).mem = true := ite_wf (wf_of_mem (State.readSlot_mem _ _ _ _) h) h
  exact ite_wf (State.hardFault_wf _ (State.recoverWord_wf _ _ hp)) (State.recoverWord_wf _ _ hp)

/-- The second part of an answer, whichever branch gives it. -/
theorem ite_snd_wf {p : Prop} [Decidable p] {a b : Bool × State} (ha : Memory.wf a.2.mem = true) (hb : Memory.wf b.2.mem = true) :
    Memory.wf (if p then a else b).2.mem = true := by
  by_cases h : p
  · rw [if_pos h]; exact ha
  · rw [if_neg h]; exact hb

theorem State.meetPoison_wf {s : State} (w : Nat) (c : Bool) (h : Memory.wf s.mem = true) : Memory.wf (s.meetPoison w c).mem = true := by
  unfold State.meetPoison
  exact wf_of_mem (State.logEvent_mem _ _ _ _ _ _ _) h

theorem State.fixWord_wf {s : State} (w p b : Nat) (r c : Bool) (h : Memory.wf s.mem = true) : Memory.wf (s.fixWord w p b r c).mem = true := by
  unfold State.fixWord
  exact State.writeFix_wf _ _ (wf_of_mem ((State.bucketAdd_mem _ _).trans (State.logEvent_mem _ _ _ _ _ _ _)) h)

theorem State.decodePattern_wf {s : State} (w p : Nat) (r c : Bool) (h : Memory.wf s.mem = true) :
    Memory.wf (s.decodePattern w p r c).2.mem = true := by
  unfold State.decodePattern
  have hf : ∀ b, Memory.wf (s.fixWord w p b r c).mem = true := fun b => State.fixWord_wf w p b r c h
  have hm := State.meetPoison_wf w c h
  have hg := State.giveUp_wf w p c h
  generalize State.fixWord s w p = f at hf ⊢
  generalize State.meetPoison s w c = m at hm ⊢
  generalize State.giveUp s w p c = g at hg ⊢
  cases decodeWord p with
  | clean e => exact h
  | fixed b e => exact hf b
  | poisoned => exact hm
  | bad => exact ite_snd_wf h hg

theorem State.decodeRead_wf {s : State} (w : Nat) (r c : Bool) (h : Memory.wf s.mem = true) : Memory.wf (s.decodeRead w r c).2.mem = true := by
  unfold State.decodeRead
  have hd : Memory.wf (s.diagRecord w).mem = true := wf_of_mem (State.diagRecord_mem _ _) h
  exact ite_snd_wf h (ite_snd_wf (State.meetPoison_wf _ _ hd) (State.decodePattern_wf _ _ _ _ hd))

theorem State.readEcc_wf {s : State} (w : Nat) (c : Bool) (h : Memory.wf s.mem = true) : Memory.wf (s.readEcc w c).mem = true := by
  unfold State.readEcc
  exact ite_wf (State.recover_wf _ _ _ _ _ (State.decodeRead_wf _ _ _ h)) (State.decodeRead_wf _ _ _ h)

theorem State.settleWords_wf (n : Nat) : ∀ {s : State} (w : Nat), Memory.wf s.mem = true → Memory.wf (s.settleWords w n).mem = true := by
  induction n with
  | zero => intro s w h; exact h
  | succ n ih => intro s w h; exact ih _ (State.readEcc_wf w false h)

/-- A read, with the corrections that it writes back, keeps the form. -/
theorem State.settleRange_wf {s : State} (a n : Nat) (h : Memory.wf s.mem = true) : Memory.wf (s.settleRange a n).mem = true := by
  unfold State.settleRange
  exact ite_wf h (State.settleWords_wf _ _ h)

/-- A read changes nothing where memory holds no error, no poison, and no diagnostic read is awaited. -/
theorem State.settleRange_quiet {s : State} (h : s.flips = [] ∧ s.poison = [] ∧ s.diagRd = false) (a n : Nat) : s.settleRange a n = s := by
  unfold State.settleRange
  rw [if_pos h]

/-- Equal states have equal memory. -/
theorem mem_of_eq {s t u : State} (e : s = t) (h : t.mem = u.mem) : s.mem = u.mem := e ▸ h

/-- Equal states have memory of one form. -/
theorem wf_of_eq {s t : State} (e : s = t) (h : Memory.wf t.mem = true) : Memory.wf s.mem = true := e ▸ h

theorem State.dropFrom_mem (s : State) (w : Nat) (o : Option BufId) : (s.dropFrom w o).mem = s.mem := by
  cases o with
  | none => rfl
  | some b => exact mem_of_eq rfl (State.setBuf_mem _ _ _)

theorem State.dropEntry_mem (s : State) (w : Nat) : (s.dropEntry w).mem = s.mem :=
  mem_of_eq (t := s.dropFrom w (bufOf s (32 * w))) rfl (State.dropFrom_mem _ _ _)

theorem State.storeLine_wf {s : State} (w : Nat) (bs : List Byte) (h : Memory.wf s.mem = true) : Memory.wf (s.storeLine w bs).mem = true :=
  memPutBytes_wf _ _ h

theorem State.oldWord_wf {s : State} (w : Nat) (h : Memory.wf s.mem = true) : Memory.wf (s.oldWord w).mem = true := by
  unfold State.oldWord
  exact ite_wf (State.absorb_wf _ (State.settleRange_wf _ _ h)) h

theorem State.writeLine_wf {s : State} (w : Nat) (bs : List Byte) (h : Memory.wf s.mem = true) : Memory.wf (s.writeLine w bs).mem = true := by
  unfold State.writeLine
  exact wf_of_mem (State.diagWrite_mem _ _ _) (State.keeping_wf _ _ (State.storeLine_wf _ _ (wf_of_mem (State.markWritten_mem _ _)
    (State.oldWord_wf _ (wf_of_mem (State.dropEntry_mem _ _) h)))))

theorem State.countSpm_mem (s : State) (b : BufId) (k : Nat) : (s.countSpm b k).mem = s.mem := by
  cases b with
  | chan _ => rfl
  | bank _ => rfl
  | spm n => exact mem_of_eq (t := s.bump Reg.SPM_PERF.count [n.val, k]) rfl (State.bump_mem _ _ _ _)

theorem State.storeBytes_wf {s : State} (g : Gather) (h : Memory.wf s.mem = true) : Memory.wf (s.storeBytes g).mem = true :=
  memPutAll_wf _ _ h

theorem State.writeBack_wf {s : State} (b : BufId) (g : Gather) (h : Memory.wf s.mem = true) : Memory.wf (s.writeBack b g).mem = true := by
  unfold State.writeBack
  exact State.keeping_wf _ _ (State.storeBytes_wf _ (wf_of_mem (State.markWritten_mem _ _) (State.absorb_wf _ (State.settleRange_wf _ _
    (wf_of_mem (State.countSpm_mem _ _ _) h)))))

theorem State.mergeInto_wf {s : State} (b : BufId) (r : List Gather) (g : Gather) (h : Memory.wf s.mem = true) :
    Memory.wf (s.mergeInto b r g).mem = true := by
  unfold State.mergeInto
  exact ite_wf (State.writeLine_wf _ _ (wf_of_mem ((State.setBuf_mem _ _ _).trans (State.countSpm_mem _ _ _)) h)) (wf_of_mem (State.setBuf_mem _ _ _) h)

theorem State.entryFor_wf {s : State} (b : BufId) (g : Gather) (o : Option Gather) (h : Memory.wf s.mem = true) :
    Memory.wf (s.entryFor b g o).mem = true := by
  cases o with
  | none => exact wf_of_eq (t := s.setBuf b (g :: s.buf b)) rfl (wf_of_mem (State.setBuf_mem _ _ _) h)
  | some old =>
    exact wf_of_eq (t := (s.writeBack b old).setBuf b (g :: (s.buf b).dropLast)) rfl (wf_of_mem (State.setBuf_mem _ _ _) (State.writeBack_wf _ _ h))

theorem State.newEntry_wf {s : State} (b : BufId) (g : Gather) (h : Memory.wf s.mem = true) : Memory.wf (s.newEntry b g).mem = true :=
  wf_of_eq (t := s.entryFor b g (if (s.buf b).length ≥ 8 then (s.buf b).getLast? else none)) rfl (State.entryFor_wf _ _ _ h)

theorem State.mergeFound_wf {s : State} (b : BufId) (line i : Nat) (bs : List Byte) (r : List Gather) (o : Option Gather) (h : Memory.wf s.mem = true) :
    Memory.wf (s.mergeFound b line i bs r o).mem = true := by
  cases o with
  | none => exact wf_of_eq (t := s.newEntry b ⟨line, mergeBytes i [] bs, s.bufClock b⟩) rfl (State.newEntry_wf _ _ h)
  | some g => exact wf_of_eq (t := s.mergeInto b r ⟨g.line, mergeBytes i g.bytes bs, g.since⟩) rfl (State.mergeInto_wf _ _ _ h)

theorem State.writeNarrow_wf {s : State} (b : BufId) (line i : Nat) (bs : List Byte) (h : Memory.wf s.mem = true) :
    Memory.wf (s.writeNarrow b line i bs).mem = true :=
  wf_of_eq (t := s.mergeFound b line i bs (takeEntry line (s.buf b)).2 (takeEntry line (s.buf b)).1) rfl (State.mergeFound_wf _ _ _ _ _ _ h)

theorem State.storePlain_wf {s : State} (a : Nat) (bs : List Byte) (h : Memory.wf s.mem = true) : Memory.wf (s.storePlain a bs).mem = true :=
  memPutBytes_wf _ _ h

theorem State.writeVia_wf {s : State} (a : Nat) (bs : List Byte) (o : Option BufId) (h : Memory.wf s.mem = true) :
    Memory.wf (s.writeVia a bs o).mem = true := by
  cases o with
  | none =>
    exact wf_of_eq (t := if inTcm a then (s.markWritten (a / 32)).storePlain a bs else s) rfl
      (ite_wf (State.storePlain_wf _ _ (wf_of_mem (State.markWritten_mem _ _) h)) h)
  | some b =>
    exact wf_of_eq (t := if bs.length = 32 then s.writeLine (a / 32) bs else s.writeNarrow b (a / 32) (a % 32) bs) rfl
      (ite_wf (State.writeLine_wf _ _ h) (State.writeNarrow_wf _ _ _ _ h))

theorem State.writeEach_wf (w : Nat) (l : List (Nat × Byte)) : ∀ {s : State}, Memory.wf s.mem = true → Memory.wf (s.writeEach w l).mem = true := by
  induction l with
  | nil => intro s h; exact h
  | cons e l ih => intro s h; exact ih (State.writeVia_wf _ _ _ h)

/-! ### Other SRAM -/

@[simp] theorem State.sramFresh_mem (s : State) (here : Sram → Bool) : (s.sramFresh here).mem = s.mem := by
  unfold State.sramFresh
  exact ite_mem rfl rfl
@[simp] theorem State.sramPoison_mem (s : State) (k : Sram) : (s.sramPoison k).mem = s.mem := by
  cases k <;> rfl
@[simp] theorem State.sramXor_mem (s : State) (k : Sram) (e : Nat) : (s.sramXor k e).mem = s.mem := by
  cases k <;> rfl
@[simp] theorem State.sramEvent_mem (s : State) (k : Sram) (t y b : Nat) (c : Bool) : (s.sramEvent k t y b c).mem = s.mem := by
  unfold State.sramEvent
  exact (State.logEvent_mem _ _ _ _ _ _ _).trans (State.draw_mem s 48)
@[simp] theorem State.sramHard_mem (s : State) (k : Sram) : (s.sramHard k).mem = s.mem := by
  unfold State.sramHard
  cases sramGroup k with
  | none => rfl
  | some g => exact ite_mem rfl ((State.hardLine_mem _ _ _ _).trans (State.draw_mem s 65))
/-- A read of other SRAM touches no memory that a device address reaches. -/
@[simp] theorem State.sramRead_mem (s : State) (k : Sram) (r c : Bool) : (s.sramRead k r c).mem = s.mem := by
  unfold State.sramRead
  refine ite_mem (ite_mem ((State.detect_mem _ _ _ _).trans (State.sramEvent_mem _ _ _ _ _ _)) (State.sramEvent_mem _ _ _ _ _ _)) (ite_mem rfl ?_)
  have hx : ∀ (t : State) (e : Nat), t.mem = s.mem → ((t.setSram k 0).sramXor k e).mem = s.mem := fun t e ht => (State.sramXor_mem _ _ _).trans ht
  cases decodeWord (s.sramFlip k) with
  | clean e => exact hx s _ rfl
  | fixed b e =>
    have he := fun e => hx _ e (((s.sramEvent k 1 (if s.sramFlip k = 0 then 0 else (Config.wordSyndrome (BitVec.ofNat 272 (s.sramFlip k))).toNat) b c).bucketAdd_mem
      (sramUnit k)).trans (State.sramEvent_mem _ _ _ _ _ _))
    exact ite_mem ((State.sramHard_mem _ _).trans (he _)) (he _)
  | poisoned => exact (State.sramEvent_mem _ _ _ _ _ _).trans (State.sramPoison_mem _ _)
  | bad => exact (State.uncorrEvent_mem _ _).trans ((State.sramEvent_mem _ _ _ _ _ _).trans (State.sramPoison_mem _ _))
@[simp] theorem State.sramMeet_mem (s : State) (here : Sram → Bool) : (s.sramMeet here).mem = s.mem := by
  unfold State.sramMeet
  exact ite_mem rfl (foldl_mem _ (fun s k => State.sramRead_mem s k _ _) _ _)

/-- A word that leaves the L2 keeps the form of memory. -/
theorem State.l2Back_wf {s : State} (w : Nat) (h : Memory.wf s.mem = true) : ∀ x : Option Gather × List Gather, Memory.wf (s.l2Back w x).mem = true
  | (none, _) => h
  | (some g, l) =>
    have hw : Memory.wf ((({ s.sramMeet (fun k => decide (k = Sram.l2 w)) with l2 := l }).sramFresh (fun k => decide (k = Sram.l2 w))).writeEach w g.bytes).mem = true :=
      State.writeEach_wf _ _ (wf_of_mem ((State.sramFresh_mem _ _).trans (State.sramMeet_mem s _)) h)
    ite_wf hw hw

theorem State.l2Out_wf {s : State} (w : Nat) (h : Memory.wf s.mem = true) : Memory.wf (s.l2Out w).mem = true := State.l2Back_wf w h _

theorem State.writePart_wf {s : State} (a : Nat) (bs : List Byte) (h : Memory.wf s.mem = true) : Memory.wf (s.writePart a bs).mem = true :=
  wf_of_eq (t := ((s.l2Out (a / 32)).notClean a bs.length).writeVia a bs (bufOf s a)) rfl
    (State.writeVia_wf _ _ _ (wf_of_mem (State.notClean_mem _ _ _) (State.l2Out_wf _ h)))

theorem State.writeLoop_wf (n : Nat) : ∀ {s : State} (a : Nat) (bs : List Byte), Memory.wf s.mem = true → Memory.wf (s.writeLoop a bs n).mem = true := by
  induction n with
  | zero => intro s a bs h; exact h
  | succ n ih =>
    intro s a bs h
    unfold State.writeLoop
    exact ite_wf h (ih _ _ (State.writePart_wf _ _ h))

/-- A write of bytes keeps the form. -/
theorem State.writeBytes_wf {s : State} (a : Nat) (bs : List Byte) (h : Memory.wf s.mem = true) : Memory.wf (s.writeBytes a bs).mem = true :=
  State.writeLoop_wf _ _ _ h

theorem State.writeNat_wf {s : State} (a n v : Nat) (h : Memory.wf s.mem = true) : Memory.wf (s.writeNat a n v).mem = true :=
  State.writeBytes_wf _ _ h

theorem State.writeBackAll_wf {s : State} (b : BufId) (l : List Gather) (h : Memory.wf s.mem = true) : Memory.wf (s.writeBackAll b l).mem = true := by
  induction l with
  | nil => exact h
  | cons g l ih => exact wf_of_eq (t := (s.writeBackAll b l).writeBack b g) rfl (State.writeBack_wf b g ih)

/-- A write-back of merge-buffer entries keeps the form. -/
theorem State.flushBuf_wf {s : State} (b : BufId) (sel : Gather → Bool) (h : Memory.wf s.mem = true) : Memory.wf (s.flushBuf b sel).mem = true := by
  unfold State.flushBuf
  exact wf_of_mem (State.setBuf_mem _ _ _) (State.writeBackAll_wf b _ h)

/-- Memory after reset is in the form. -/
theorem State.reset_wf : Memory.wf State.reset.mem = true := rfl

end Sys2Proof.Machine
end

