-- ==== Sys2Proof/WellFormed.lean ====
section
/-! DEFINITION. WellFormed.lean: which commands are well formed: accesses of a size that the hardware has. -/
namespace Sys2Proof

/-- An access of `n` bytes, or a write of the bytes `bs`, lies within one 32-byte line. -/
def lineSized (n : Nat) (bs : List Byte) : Bool :=
  if bs = [] then decide (1 ≤ n ∧ n ≤ 32) else decide (bs.length ≤ 32)

/-- The command is well formed. -/
def Instr.wf : Instr → Bool
  | .remoteAccess _ _ _ k bs => lineSized k bs
  | .vaultAccess _ _ n bs _ => lineSized n bs
  | .dramRead _ _ n _ _ => lineSized n []
  | .dramWrite _ _ bs _ => lineSized 1 bs
  | .registerWrite _ _ bytes _ => decide (bytes = 4 ∨ bytes = 8)
  | .registerRead _ _ bytes => decide (bytes = 4 ∨ bytes = 8)
  | _ => true

end Sys2Proof
end

