-- ==== Sys2Proof/Tests/Slice0.lean ====
section
/-! SUPPORT. Tests/Slice0.lean: tests of single commands, and witnesses of the obligations' hypotheses: each theorem `witness_…` names states and
operands that meet the hypotheses of an obligation's clauses, together with values that the manual's rules give there. -/
namespace Sys2Proof.Tests
set_option Elab.async false
open Sys2Proof.Machine Sys2Proof.Machine.Reg

/-! ### Helpers -/

/-- Registers with the listed fields set. -/
def put (l : List (Fld × List Nat × Nat)) (s : State) : State := l.foldl (fun s e => s.setReg e.1 e.2.1 e.2.2) s

/-- The next state of an outcome. -/
def nx (o : Host.Outcome State Fault Refusal) : State :=
  match o with
  | .next t => t
  | _ => State.reset

/-- The machine after reset. -/
def s0 : State := State.reset

/-- The agent that the tests act as: hart 0, which acts for P0. -/
abbrev p0 : Agent := .hart 0

/-! ### Well-formed commands: an ill-formed term for each check -/

theorem test_wf_dram_read : Instr.wf (.dramRead (.hart 0) 0 0 0 false) = false := by decide +kernel
theorem test_wf_dram_write : Instr.wf (.dramWrite (.hart 0) 0 (List.replicate 33 0) 0) = false := by decide +kernel
theorem test_wf_vault : Instr.wf (.vaultAccess (.hart 0) 0 33 [] 0) = false := by decide +kernel
theorem test_wf_remote : Instr.wf (.remoteAccess (.hart 0) 0 0 0 []) = false := by decide +kernel
theorem test_wf_register_read : Instr.wf (.registerRead (.hart 0) 0 3) = false := by decide +kernel
theorem test_wf_register_write : Instr.wf (.registerWrite (.hart 0) 0 2 0) = false := by decide +kernel

/-! ### Clock, ports (chapter 3) -/

/-- The reset state meets ClockEdge's hypotheses, and so does a clock one edge before a carry into the seconds, which carries. -/
theorem witness_ClockEdge :
    s0.pending = [] ∧ s0.boot.phase ≠ .held ∧ s0.asleep = false ∧ s0.clk.nextIncr = none ∧ s0.clk.step = none ∧
      (nx (step s0)).clk.ns = 4 ∧
      (let s := { s0 with clk := { s0.clk with ns := 999999996 } }
       (nx (step s)).clk.ns = 0 ∧ (nx (step s)).clk.sec = 1) := by decide +kernel

/-- P0 steps the clock; with a step pending a request is refused. -/
theorem witness_ClockSteps :
    s0.agentLive p0 = true ∧ s0.partOf p0 = 0 ∧ s0.clk.heldStep = none ∧ s0.clk.stepped = false ∧
      (nx (exec (.ptpStepRequest p0 .whole 5) s0)).clk.ns = 5 ∧
      (nx (exec (.ptpStepRequest p0 .whole (-5)) { s0 with clk := { s0.clk with sec := 1 } })).now = 999999995 ∧
      (let s := { s0 with clk := { s0.clk with heldStep := some 3 } }
       (nx (exec (.ptpStepRequest p0 .whole 5) s)).reg PTP_STEP_CTRL.refused_count = 1 ∧
       (nx (exec (.ptpStepRequest p0 .whole 5) s)).clk.ns = 0 ∧
       (nx (exec (.ptpStepConfirm p0 .whole 0) s)).clk.step = some 3 ∧
       (nx (exec (.ptpStepDiscard p0 .whole 0) s)).clk.heldStep = none) := by decide +kernel

/-- An increment within the limit, and one beyond it, which is limited. -/
theorem test_incr :
    (nx (exec (.ptpIncrWrite p0 .whole 0x400000001) s0)).clk.nextIncr = some (4, 1, false) ∧
      (nx (exec (.ptpIncrWrite p0 .whole 0x500000000) s0)).clk.nextIncr = some (4, 0x83126E, true) := by decide +kernel

theorem witness_TimeAndCapture :
    s0.agentLive p0 = true ∧ s0.clk.sec < 2 ^ 48 ∧ heldAt p0 (regAddr .PTP_TIME_SEC) s0.latches = none ∧
      (nx (exec (.ptpTimeNsRead p0 .whole) { s0 with clk := { s0.clk with ns := 7 } })).out = [.data p0 (7 * 2 ^ 32)] ∧
      (s0.advance 0).fullOn = true ∧ ((s0.advance 0).reg PTP_CAPT_CTRL.edge_sel0 ≠ 0 ↔ false = true) ∧
      (nx (exec (.captureEdge 0 0 false) s0)).capts[(0 : Fin 2)] = [(0, 0)] ∧
      (nx (exec (.captureEdge 0 0 true) s0)).capts[(0 : Fin 2)] = [] ∧
      (let s := { s0 with capts := Vector.replicate 2 (List.replicate 16 (1, 2)) }
       (nx (exec (.captureEdge 0 0 false) s)).reg PTP_CAPT_CTRL.capt0_ovf = 1 ∧
       (nx (exec (.captFifoRead p0 0 .whole) s)).out = [.data p0 (2 ^ 30 + 2)]) ∧
      (nx (exec (.captFifoRead p0 0 .whole) s0)).out = [.data p0 (2 ^ 64 - 1)] := by decide +kernel

/-- A pulse of 8 ns, accepted, and one of 7 ns, refused; both edges when due. -/
theorem witness_PulseOutputs :
    (let s := put [(PTP_PULSE_SHAPE.width_ns, [0], 8)] s0
     (nx (exec (.pulseArm p0 0 1) s)).reg PTP_PULSE_CTRL.arm [0] = 1 ∧ (nx (exec (.pulseArm p0 0 1) s)).pulses[(0 : Fin 4)].lead = some 0) ∧
    (let s := put [(PTP_PULSE_SHAPE.width_ns, [0], 7)] s0
     (nx (exec (.pulseArm p0 0 1) s)).reg PTP_PULSE_CTRL.cfg_err [0] = 1) ∧
    (let s := put [(PTP_PULSE_SHAPE.width_ns, [0], 8), (PTP_PULSE_SHAPE.period_ns, [0], 1000)] s0
     (nx (exec (.pulseArm p0 0 3) s)).reg PTP_PULSE_CTRL.arm [0] = 1) ∧
    (let s := { s0 with pulses := s0.pulses.set 0 ⟨some 3, none, false⟩, clk := { s0.clk with ns := 3 } }
     (s.advance 0).pulses[(0 : Fin 4)].lead = some 3 ∧ 3 ≤ (s.advance 0).now ∧
       (nx (exec (.pulseLeadingEdge 0 0) s)).out = [.pulse 0 true]) ∧
    (let s := { s0 with pulses := s0.pulses.set 0 ⟨none, some 3, true⟩, clk := { s0.clk with ns := 3 } }
     (s.advance 0).pulses[(0 : Fin 4)].trail = some 3 ∧ (nx (exec (.pulseTrailingEdge 0 0) s)).out = [.pulse 0 false]) := by decide +kernel

theorem witness_ImuPort :
    (let g : ImuTrig := ⟨0, 0, 9, 0, false⟩
     let s := put [(FE_IMU_CTRL.enable, [], 1), (FE_IMU_CTRL.trigger, [], 0)] s0
     let r := { s with imu := { s.imu with reading := some g } }
     let h := { s with imu := { s.imu with reading := some g, held := some g } }
     (s.advance 0).reg FE_IMU_CTRL.enable ≠ 0 ∧ (nx (exec (.imuTrigger 0 false) s)).imu.reading = some ⟨0, 0, 0, 0, false⟩ ∧
       (nx (exec (.imuTrigger 0 false) r)).imu.held = some ⟨0, 0, 0, 0, false⟩ ∧
       (nx (exec (.imuTrigger 0 false) h)).reg FE_IMU_STATUS.imu_overrun = 1 ∧
       (nx (exec (.imuReadStart 0) { s with imu := { s.imu with held := some g } })).reg FE_IMU_STATUS.busy = 1 ∧
       (nx (exec (.imuReadComplete 0 [1, 2]) r)).reg FE_IMU_STATUS.wr_seq = 9) ∧
    (let v : W64 := (1#64 <<< 62) ||| (4#64 <<< 56) ||| 0xABCD
     let t := nx (exec (.imuXferStart p0 .whole v) s0)
     s0.minimal = false ∧ s0.reg FE_IMU_XFER.busy = 0 ∧ t.reg FE_IMU_XFER.busy = 1 ∧
       (nx (exec (.imuXferComplete 0 [1, 2, 3, 4]) t)).reg FE_IMU_XFER.data = 0x04030201) := by decide +kernel

/-- A frame at a port without link, one that is too short, and one of 64 bytes with a bad FCS; an empty transmit ring. -/
theorem witness_FrameQueues :
    (let s : State := { put [(ETH_STATUS.link_up, [0], 1)] s0 with ethIn := csrSet [] ETH_CTRL.mode [0] 1 }
     (s.advance 0).fullOn = true ∧
       (nx (exec (.frameReceive 0 0 0 []) s0)).reg ETH_STATUS.rx_len_err [0] = 0 ∧
       (nx (exec (.frameReceive 0 0 0 (List.replicate 63 0)) s)).reg ETH_STATUS.rx_len_err [0] = 1 ∧
       (nx (exec (.frameReceive 0 0 0 (List.replicate 64 0)) s)).reg ETH_STATUS.rx_fcs_err [0] = 1) ∧
    (s0.advance 0).ringEmpty txRing 0 = true := by decide +kernel

theorem witness_LinkMdioTail :
    (let s := { s0 with ethIn := csrSet [] ETH_CTRL.mode [0] 1 }
     csrGet (s.advance 0).ethIn ETH_CTRL.mode [0] ≠ 0 ∧ (nx (exec (.ethLinkChange 0 0 true true) s)).reg ETH_STATUS.link_up [0] = 1) ∧
    (let v : W64 := (1#64 <<< 62) ||| (5#64 <<< 48) ||| 0x1234
     let t := nx (exec (.mdioStart p0 0 .whole v) s0)
     t.reg ETH_MDIO.busy [0] = 1 ∧ t.reg ETH_MDIO.prtad [0] = 5 ∧ (nx (exec (.mdioComplete 0 0 7) t)).reg ETH_MDIO.busy [0] = 0) ∧
    (nx (exec (.queueTailWrite p0 7 false .whole 1023) s0)).reg ETH_RXQ_PTR.tail [7] = 1023 ∧
    (nx (exec (.queueTailWrite p0 7 true .whole 3) s0)).reg ETH_TXQ_PTR.tail [7] = 3 := by decide +kernel

/-! ### A running context -/

/-- Context 0 runs on core 0 at address 0, which P0 may read and write; s1 to s3 hold 5, 7 and −1. -/
def sR : State :=
  let s := put [(MEM_CFG.installed_gib, [], 8), (MEM_CFG.trained, [], 0xFFFF), (SO_CTX_STATE.state, [0], 3), (SO_CTX_STATE.resident, [0], 1),
    (SO_CTX_CFG.en, [0], 1), (HOST_MAP.valid, [0, 0], 1), (HOST_MAP.rd, [0, 0], 1), (HOST_MAP.wr, [0, 0], 1)] s0
  let s := s.setCore 0 fun k => { k with slots := k.slots.set 0 (some 0), run := some 0 }
  s.setCtx 0 fun x => { x with s := ((x.s.set 1 5).set 2 7).set 3 (-1) }

/-- A word of one of the formats with pg 0. -/
abbrev wd (op : BitVec 8) (d a b c : Fin 32) (hi : BitVec 32) : W64 := wordOf op false 0 d a b c hi

/-- Context 0 can issue every legal word. -/
theorem issues_of {w x : W64} (h : legalWord w x = true) : Issues sR 0 0 w x := by
  refine ⟨by decide +kernel, by decide +kernel, State.settleFetch_quiet (by unfold Quiet; decide +kernel) _ _, ?_, h⟩
  cases w.getLsbD 8 <;> decide +kernel

theorem witness_words (op : BitVec 8) (d a b c : Fin 32) (hi : BitVec 32) (h : legalWord (wd op d a b c hi) 0 = true) :
    Issues sR 0 0 (wd op d a b c hi) 0 := issues_of h

/-- The legality of the words below, each with its opcode: with issues_of they meet the hypotheses of the statements about instructions. -/
def opOf (w x : W64) (op : Nat) : Bool := legalWord w x && decide ((fieldsOf w).op = op)

/-- Register d of context 0 after an instruction. -/
def sd (i : Instr) (d : Fin 32) : W64 := (nx (exec i sR)).ctxs[(0 : CtxId)].landed.s[d]

/-- The pc of context 0 after an instruction. -/
def pcd (i : Instr) : BitVec 48 := (nx (exec i sR)).ctxs[(0 : CtxId)].pc

/-- Table 12-5: a word written out from its bits: op 0x10, d 4, a 1, b 2, fn 1 (sub): 5 − 7 = −2. -/
theorem test_alu_word : wd 0x10 4 1 2 0 1 = 0x0000000100824010 := by decide +kernel
theorem witness_ScalarAndControl_alu : opOf (wd 0x10 4 1 2 0 1) 0 0x10 = true ∧ sd (.alu 0 (wd 0x10 4 1 2 0 1)) 4 = -2 ∧
    sd (.alu 0 (wd 0x10 0 1 2 0 0)) 0 = 0 ∧ pcd (.alu 0 (wd 0x10 4 1 2 0 1)) = 8 := by decide +kernel
theorem witness_ScalarAndControl_alui : opOf (wd 0x11 4 1 0 0 0xFFFFFFFF) 0 0x11 = true ∧ sd (.alui 0 (wd 0x11 4 1 0 0 0xFFFFFFFF)) 4 = 4 := by
  decide +kernel
theorem witness_ScalarAndControl_li : opOf (wordOf 0x12 true 0 4 0 0 0 0) 77 0x12 = true ∧ sd (.li 0 (wordOf 0x12 true 0 4 0 0 0 0) 77) 4 = 77 ∧
    pcd (.li 0 (wordOf 0x12 true 0 4 0 0 0 0) 77) = 16 := by decide +kernel
theorem witness_ScalarAndControl_mul : opOf (wd 0x13 4 3 3 0 2) 0 0x13 = true ∧ sd (.mul 0 (wd 0x13 4 3 3 0 2)) 4 = -2 ∧
    sd (.mul 0 (wd 0x13 4 3 2 0 1)) 4 = -1 := by decide +kernel
theorem witness_ScalarAndControl_div : opOf (wd 0x14 4 2 1 0 0) 0 0x14 = true ∧ sd (.div 0 (wd 0x14 4 2 1 0 0)) 4 = 1 ∧
    sd (.div 0 (wd 0x14 4 2 0 0 0)) 4 = -1 ∧ sd (.div 0 (wd 0x14 4 2 0 0 2)) 4 = 7 := by decide +kernel
theorem witness_ScalarAndControl_csel : opOf (wd 0x15 4 1 2 0 0) 0 0x15 = true ∧ sd (.csel 0 (wd 0x15 4 1 2 0 0)) 4 = 7 ∧
    sd (.csel 0 (wd 0x15 4 1 2 3 0)) 4 = 5 := by decide +kernel
theorem witness_ScalarAndControl_branches :
    opOf (wd 0x00 0 0 0 0 0) 0 0x00 = true ∧ pcd (.nop 0 0) = 8 ∧
      opOf (wd 0x08 0 1 2 2 4) 0 0x08 = true ∧ pcd (.br 0 (wd 0x08 0 1 2 2 4)) = 32 ∧ pcd (.br 0 (wd 0x08 0 1 2 3 4)) = 8 ∧
      opOf (wd 0x0B 0 0 0 0 2) 0 0x0B = true ∧ pcd (.bp 0 (wd 0x0B 0 0 0 0 2)) = 16 ∧ pcd (.bp 0 (wd 0x0B 0 1 0 0 2)) = 8 := by
  decide +kernel
theorem witness_ScalarAndControl_links :
    opOf (wd 0x09 4 0 0 0 3) 0 0x09 = true ∧ pcd (.jal 0 (wd 0x09 4 0 0 0 3)) = 24 ∧ sd (.jal 0 (wd 0x09 4 0 0 0 3)) 4 = 8 ∧
      opOf (wd 0x0A 4 2 0 0 1) 0 0x0A = true ∧ pcd (.jalr 0 (wd 0x0A 4 2 0 0 1)) = 8 ∧
      opOf (wd 0x05 4 0 0 0 6) 0 0x05 = true ∧ sd (.sysr 0 (wd 0x05 4 0 0 0 6)) 4 = 0 := by decide +kernel
theorem witness_ScalarAndControl_stage : opOf (wd 0x06 0 1 0 0 2) 0 0x06 = true ∧
    (nx (exec (.stage 0 (wd 0x06 0 1 0 0 2)) sR)).mon.marksSent = [(0, 0, 2, 5)] := by decide +kernel

theorem witness_StopsAndTraps :
    opOf (wd 0x01 0 0 0 0 0) 0 0x01 = true ∧ (nx (exec (.halt 0 (wd 0x01 0 0 0 0 0)) sR)).ctxState 0 = 6 ∧
      opOf (wd 0x02 0 0 0 0 9) 0 0x02 = true ∧ (nx (exec (.trap 0 (wd 0x02 0 0 0 0 9)) sR)).reg SO_CTX_EXC.code [0] = 0x0D ∧
      (nx (exec (.trap 0 (wd 0x02 0 0 0 0 9)) sR)).reg SO_CTX_INFO.info [0] = 9 ∧
      opOf (wd 0x03 0 0 0 0 0) 0 0x03 = true ∧ opOf (wd 0x03 0 0 0 1 0) 0 0x03 = true ∧
      legalWord 0x0F 0 = false ∧ (nx (exec (.illegalInstruction 0 0x0F) sR)).reg SO_CTX_EXC.code [0] = 1 ∧
      sR.ctxs[(0 : CtxId)].owed = 0 ∧ sR.busyCtx 0 = false := by decide +kernel

/-! ### Handles, vectors, windows, synchronisation -/

/-- sR with handle 0 on line 0 of the scratchpad and object 3 owned by P0. -/
def sH : State :=
  (put [(SO_ATTR.own_valid, [3], 1)] sR).setCtx 0 fun x => { x with handles := x.handles.set 0 (1#128 <<< 127 ||| 1#128 <<< 32) }

/-- As issues_of, for sH. -/
theorem issues_sH {w x : W64} (h : legalWord w x = true) : Issues sH 0 0 w x := by
  refine ⟨by decide +kernel, by decide +kernel, State.settleFetch_quiet (by unfold Quiet; decide +kernel) _ _, ?_, h⟩
  cases w.getLsbD 8 <;> decide +kernel

/-- A line without errors and without poison needs no settling. -/
theorem settled_sH (a k : Nat) : sH.settleRange a k = sH := rfl

/-- The next state of an instruction at sH. -/
abbrev nh (i : Instr) : State := nx (exec i sH)

/-- ld.h and st.h of 8 bytes at offset 24 (the last of the line), one beyond it, and one that is not aligned. -/
theorem witness_HandleAccesses_scalar :
    opOf (wd 0x20 4 0 0 3 (24 * 256)) 0 0x20 = true ∧ hValid (sH.handle 0 0) = true ∧ hBytes (sH.handle 0 0) = 32 ∧
      hAddr 0 (sH.handle 0 0) 24 = some (spmBase + 24) ∧ sH.poisonedIn (spmBase + 24) 8 = false ∧
      (nh (.ldH 0 (wd 0x20 4 0 0 3 (24 * 256)))).ctxs[(0 : CtxId)].landed.s[(4 : Fin 32)] = 0 ∧
      opOf (wd 0x21 1 0 0 3 (24 * 256)) 0 0x21 = true ∧ (nh (.stH 0 (wd 0x21 1 0 0 3 (24 * 256)))).readNat (spmBase + 24) 8 = 5 ∧
      hBytes (sH.handle 0 0) < 25 + 8 ∧
      (nh (.ldH 0 (wd 0x20 4 0 0 3 (20 * 256)))).reg SO_CTX_EXC.code [0] = 9 := by decide +kernel

theorem witness_HandleAccesses_vector :
    opOf (wd 0x28 4 0 0 0 0) 0 0x28 = true ∧ (sH.shapeLines 0 (fieldsOf (wd 0x28 4 0 0 0 0))).isSome = false ∧
      opOf (wd 0x40 4 0 0 0 0) 0 0x40 = true ∧ hLine (sH.handle 0 0) 0 = some 0 ∧
      (nh (.tld 0 (wd 0x40 4 0 0 0 0))).ctxs[(0 : CtxId)].pc = 8 ∧
      opOf (wd 0x40 4 0 0 1 0) 0 0x40 = true ∧ (nh (.tst 0 (wd 0x40 4 0 0 1 0))).ctxs[(0 : CtxId)].pc = 8 ∧
      (let s := sH.setCtx 0 fun x => { x with handles := x.handles.set 0 (1#128 <<< 127 ||| 8#128 <<< 32) }
       (s.shapeLines 0 (fieldsOf (wd 0x28 4 0 0 0 0))).isSome = true ∧ opOf (wd 0x29 4 0 0 0 0) 0 0x29 = true ∧
         (nx (exec (.vldH 0 (wd 0x28 4 0 0 0 0)) s)).ctxs[(0 : CtxId)].pc = 8 ∧
         (nx (exec (.vstH 0 (wd 0x29 4 0 0 0 0)) s)).ctxs[(0 : CtxId)].pc = 8) := by decide +kernel

/-- Counter 0 is the context's own where its group is assigned to it. -/
def sG : State := put [(CORE_CTR_GRP.assigned, [0, 0], 1), (CORE_CTR_GRP.ctx, [0, 0], 0)] sH

theorem witness_GlobalIssue :
    sG.ctrAllowed 0 0 0 = true ∧ regionOf sG 0 = .dram 0 ∧
      opOf (wd 0x22 4 0 0 3 0) 0 0x22 = true ∧ (nx (exec (.ldG 0 (wd 0x22 4 0 0 3 0)) sG)).flights.length = 1 ∧
      opOf (wd 0x23 4 0 0 3 64) 0 0x23 = true ∧ (nx (exec (.stG 0 (wd 0x23 4 0 0 3 64)) sG)).flights.length = 1 ∧
      opOf (wd 0x2A 4 0 0 0 0) 0 0x2A = true ∧ (nx (exec (.vldG 0 (wd 0x2A 4 0 0 0 0)) sG)).flights.length = 1 ∧
      opOf (wd 0x2B 4 0 0 0 64) 0 0x2B = true ∧ (nx (exec (.vstG 0 (wd 0x2B 4 0 0 0 64)) sG)).flights.length = 1 ∧
      opOf (wd 0x04 0 0 0 0 0) 0 0x04 = true ∧ (nx (exec (.fence 0 (wd 0x04 0 0 0 0 0)) sG)).flights.length = 1 := by decide +kernel

/-- A csr read of offset 0, a csr write that the register's rules permit (SO_VALUE of an object of P0), and one that they forbid (DEV_ID). -/
theorem witness_GlobalIssue_csr :
    opOf (wd 0x43 4 0 0 4 0) 0 0x43 = true ∧ (nx (exec (.csrRead 0 (wd 0x43 4 0 0 4 0)) sG)).flights.length = 1 ∧
      sG.csrDenied (.ctx 0) 0x300020 4 5 = false ∧ opOf (wd 0x43 0 0 1 1 (0x300020 * 256)) 0 0x43 = true ∧
      (nx (exec (.csrWrite 0 (wd 0x43 0 0 1 1 (0x300020 * 256))) sG)).flights.length = 1 ∧
      sG.csrDenied (.ctx 0) 0x400000 4 5 = false ∧
      (let s := put [(SO_CTX_CFG.part, [0], 1)] sG
       s.csrDenied (.ctx 0) 0x300020 4 5 = true) := by decide +kernel

/-- The vector result of context 0 that is to land, and the predicate result. -/
def effV (t : State) (d : Fin 32) : VecReg :=
  match t.ctxs[(0 : CtxId)].late with
  | [⟨_, .v e m v⟩] => if e = d then v &&& m else BitVec.allOnes _
  | _ => BitVec.allOnes _
def effP (t : State) (d : Fin 8) : W64 :=
  match t.ctxs[(0 : CtxId)].late with
  | [⟨_, .p e m v⟩] => if e = d then v &&& m else BitVec.allOnes _
  | _ => BitVec.allOnes _

/-- valu add of 32-bit elements (es 2), and with es 0; predicate 0 is all ones. -/
theorem witness_VectorLanes :
    (let s := sH.setCtx 0 fun x => { x with v := (x.v.set 1 0xFFFFFFFF).set 2 1 }
     opOf (wd 0x30 4 1 2 0 128) 0 0x30 = true ∧ effV (nx (exec (.valu 0 (wd 0x30 4 1 2 0 128)) s)) 4 = 0 ∧
       effV (nx (exec (.valu 0 (wd 0x30 4 1 2 0 0)) s)) 4 = 0xFFFFFF00 ∧
       opOf (wd 0x31 1 1 2 0 (128 + 4)) 0 0x31 = true ∧
       effP (nx (exec (.vcmp 0 (wd 0x31 1 1 2 0 (128 + 4))) s)) 1 = 0 ∧
       opOf (wd 0x31 1 1 2 0 4) 0 0x31 = true) ∧
    (let s := sH.setCtx 0 fun x => { x with v := (x.v.set 1 0x3F800000).set 2 0x40000000 }
     opOf (wd 0x32 4 1 2 0 128) 0 0x32 = true ∧ effV (nx (exec (.vfalu 0 (wd 0x32 4 1 2 0 128)) s)) 4 = 0x40400000 ∧
       opOf (wd 0x33 1 1 2 0 (128 + 1)) 0 0x33 = true ∧
       effP (nx (exec (.vfcmp 0 (wd 0x33 1 1 2 0 (128 + 1))) s)) 1 = 1) := by decide +kernel

/-- sH with 2 and 3 in the first lanes of v1, and its registers after an instruction. -/
def sV : State := sH.setCtx 0 fun x => { x with v := x.v.set 1 0x0000000300000002 }
abbrev vv (i : Instr) (d : Fin 32) : VecReg := effV (nx (exec i sV)) d
abbrev rr (i : Instr) (d : Fin 32) : W64 := (nx (exec i sV)).ctxs[(0 : CtxId)].landed.s[d]

theorem witness_VectorMoves_words :
    opOf (wd 0x34 4 1 0 2 0) 0 0x34 = true ∧ opOf (wd 0x35 4 1 0 0 128) 0 0x35 = true ∧ opOf (wd 0x36 4 1 0 0 128) 0 0x36 = true ∧
      opOf (wd 0x36 4 1 0 0 (128 + 1)) 0 0x36 = true ∧ opOf (wd 0x36 4 1 1 0 (128 + 3)) 0 0x36 = true ∧
      opOf (wd 0x37 4 1 0 2 128) 0 0x37 = true := by decide +kernel
theorem test_vred : rr (.vred 0 (wd 0x35 4 1 0 0 128)) 4 = 5 ∧ rr (.vred 0 (wd 0x35 4 1 0 0 (128 + 2))) 4 = 3 := by decide +kernel
theorem test_vperm_get : rr (.vperm 0 (wd 0x36 4 1 0 0 (128 + 1))) 4 = 2 := by decide +kernel
theorem test_vperm_put : vv (.vperm 0 (wd 0x36 4 1 1 0 (128 + 2))) 4 = 5 <<< (32 * 5) := by decide +kernel
theorem test_vperm_slide : vv (.vperm 0 (wd 0x36 4 1 0 0 (128 + 4))) 4 = 0x0000000300000002 := by decide +kernel
theorem test_vperm_compress : vv (.vperm 0 (wd 0x36 4 1 0 0 (128 + 5))) 4 = 0x0000000300000002 := by decide +kernel
theorem test_vcvt_vdraw : (nx (exec (.vcvt 0 (wd 0x34 4 1 0 2 0)) sV)).ctxs[(0 : CtxId)].pc = 8 ∧
    (nx (exec (.vdraw 0 (wd 0x37 4 1 0 2 128)) sV)).ctxs[(0 : CtxId)].pc = 8 := by decide +kernel

theorem witness_PredicatesTilesWindows_pop :
    opOf (wd 0x38 1 0 0 0 2) 0 0x38 = true ∧ (nh (.pop 0 (wd 0x38 1 0 0 0 2))).ctxs[(0 : CtxId)].landed.p[(1 : Fin 8)] = 0 ∧
      (nh (.pop 0 (wd 0x38 4 0 0 0 6))).ctxs[(0 : CtxId)].landed.s[(4 : Fin 32)] = -1 ∧
      (nh (.pop 0 (wd 0x38 4 1 0 0 7))).ctxs[(0 : CtxId)].landed.s[(4 : Fin 32)] = 64 ∧
      (nh (.pop 0 (wd 0x38 4 0 0 0 8))).ctxs[(0 : CtxId)].landed.s[(4 : Fin 32)] = 64 ∧
      opOf (wd 0x40 2 1 0 2 3) 0 0x40 = true ∧ (nh (.tset 0 (wd 0x40 2 1 0 2 3))).ctxs[(0 : CtxId)].landed.t[(2 : Fin 16)] = 5 <<< 192 ∧
      opOf (wd 0x40 4 2 0 3 3) 0 0x40 = true ∧ (nh (.tget 0 (wd 0x40 4 2 0 3 3))).ctxs[(0 : CtxId)].landed.s[(4 : Fin 32)] = 0 := by decide +kernel

theorem witness_PredicatesTilesWindows_handles :
    opOf (wd 0x41 4 1 0 1 0) 0 0x41 = true ∧ (nh (.hget 0 (wd 0x41 4 1 0 1 0))).ctxs[(0 : CtxId)].landed.s[(4 : Fin 32)] = 1#64 <<< 63 ∧
      opOf (wd 0x41 0 1 0 0 1) 0 0x41 = true ∧ (nh (.hset 0 (wd 0x41 0 1 0 0 1))).handle 0 1 = 5 ∧
      opOf (wd 0x41 0 0 0 2 0) 0 0x41 = true ∧ hValid ((nh (.hinv 0 (wd 0x41 0 0 0 2 0))).handle 0 0) = false := by decide +kernel

theorem witness_PredicatesTilesWindows_windows :
    opOf (wd 0x42 0 1 0 0 0x03000007) 0 0x42 = true ∧ sG.reg SPM_WIN.open [0, 7] = 0 ∧ sG.winOverlap 0 (sG.handle 0 0) = false ∧
      (let t := nx (exec (.winOpen 0 (wd 0x42 0 1 0 0 0x03000007)) sG)
       t.reg SPM_WIN.open [0, 7] = 1 ∧ t.reg SPM_WIN.core_mask [0, 7] = 5 ∧ t.cores[(0 : CoreId)].winOwner[(7 : Fin 8)] = 0 ∧
         opOf (wd 0x42 0 0 0 1 7) 0 0x42 = true ∧ (nx (exec (.winClose 0 (wd 0x42 0 0 0 1 7)) t)).reg SPM_WIN.open [0, 7] = 0) ∧
      (nx (exec (.winClose 0 (wd 0x42 0 0 0 1 7)) sG)).ctxs[(0 : CtxId)].pc = 8 := by decide +kernel

theorem witness_SyncIssue :
    sG.ctxState 0 = 3 ∧ sG.soPermits (sG.partOf (.ctx 0)) 3 = true ∧ sG.soPermits (sG.partOf (.ctx 0)) 4 = false ∧
      opOf (wd 0x48 4 0 0 0 3) 0 0x48 = true ∧ (nx (exec (.soRead 0 (wd 0x48 4 0 0 0 3)) sG)).ctxState 0 = 4 ∧
      opOf (wd 0x48 0 0 1 1 3) 0 0x48 = true ∧ (nx (exec (.soAdd 0 (wd 0x48 0 0 1 1 3)) sG)).flights.length = 1 ∧
      opOf (wd 0x48 0 0 1 2 3) 0 0x48 = true ∧ (nx (exec (.soSig 0 (wd 0x48 0 0 1 2 3)) sG)).ctxState 0 = 3 ∧
      opOf (wd 0x49 4 0 1 0 3) 0 0x49 = true ∧
      (nx (exec (.waitSo 0 (wd 0x49 4 0 1 0 3)) sG)).ctxs[(0 : CtxId)].stop = .object 3 5 4 none (.sent sG.stamp) ∧
      (nx (exec (.waitSo 0 (wd 0x49 4 0 1 0 4)) sG)).reg SO_CTX_EXC.code [0] = 0x0A ∧
      opOf (wd 0x4A 4 0 1 0 0) 0 0x4A = true ∧ (nx (exec (.waitCtr 0 (wd 0x4A 4 0 1 0 0)) sG)).ctxState 0 = 4 ∧
      (nx (exec (.waitCtr 0 (wd 0x4A 4 0 0 0 0)) sG)).ctxState 0 = 3 ∧
      opOf (wd 0x4B 0 0 1 0 0) 0 0x4B = true ∧ (nx (exec (.ctrSet 0 (wd 0x4B 0 0 1 0 0)) sG)).reg SPM_ARRIVAL.count [0, 0] = 5 ∧
      opOf (wd 0x4B 4 0 0 1 0) 0 0x4B = true ∧ (nx (exec (.ctrRead 0 (wd 0x4B 4 0 0 1 0)) sG)).ctxs[(0 : CtxId)].landed.s[(4 : Fin 32)] = 0 := by
  decide +kernel

/-! ### Contexts, objects, operations under way -/

/-- Context 1 in state `k`, on core 1. -/
def sC (k : Nat) : State := put [(SO_CTX_STATE.state, [1], k), (SO_CTX_CFG.core, [1], 1), (SO_CTX_CFG.en, [1], if k = 0 then 0 else 1)] s0

theorem notRunning_sC (k : Nat) : NotRunning (sC k) 1 := by
  intro n h
  have : (sC k).cores[n.val].run = none := by
    show (Vector.replicate 32 Core.fresh)[n.val].run = none
    rw [Vector.getElem_replicate]; rfl
  simp [State.runningOn, this] at h

theorem witness_ContextCommands_cfg :
    (let v : W64 := 1#64 <<< 12 ||| 31
     (nx (exec (.ctxCfgWrite p0 1 .whole v) (sC 0))).ctxState 1 = 1 ∧ (nx (exec (.ctxCfgWrite p0 1 .whole v) (sC 0))).reg SO_CTX_CFG.core [1] = 31 ∧
       (nx (exec (.ctxCfgWrite p0 1 .whole 0) (sC 6))).ctxState 1 = 0 ∧ (nx (exec (.ctxCfgWrite p0 1 .whole v) (sC 2))).ctxState 1 = 2) := by
  decide +kernel

theorem witness_ContextCommands_bind :
    (sC 1).agentLive p0 = true ∧ ((sC 1).partOf p0).val = (sC 1).reg SO_CTX_CFG.part [1] ∧ (sC 1).flips = [] ∧ (sC 1).poison = [] ∧
      (let v : W64 := 1#64 <<< 63 ||| 3#64 <<< 48 ||| 4096
       (nx (exec (.ctxBind p0 1 .whole v) (sC 1))).ctxs[(1 : CtxId)].pc = 4096 ∧
         (nx (exec (.ctxBind p0 1 .whole v) (sC 2))).reg SO_CTX_STATE.bind_err [1] = 1) := by decide +kernel

theorem witness_ContextCommands_rest :
    (nx (exec (.ctxKill p0 1 .whole 0) (sC 5))).ctxState 1 = 6 ∧ (nx (exec (.ctxKill p0 1 .whole 0) (sC 2))).ctxState 1 = 6 ∧
      (nx (exec (.ctxKill p0 1 .whole 0) (sC 0))).ctxState 1 = 0 ∧
      (nx (exec (.ctxResume p0 1 .whole 0) (put [(SO_CTX_EXC.pc_next, [1], 64)] (sC 5)))).ctxs[(1 : CtxId)].pc = 64 ∧
      s0.corePowered 0 = true ∧ (nx (exec (.ctrGrpWrite p0 0 7 0x8005) s0)).reg CORE_CTR_GRP.ctx [0, 7] = 5 ∧
      (let s := put [(SPM_WIN.open, [0, 0], 1), (SPM_WIN.counter, [0, 0], 63)] s0
       (nx (exec (.ctrGrpWrite p0 0 7 0x0005) s)).reg CORE_CTR_GRP.ctx [0, 7] = 0) := by decide +kernel

/-- A second context of higher priority, ready and resident on core 0. -/
def sS : State :=
  let s := put [(SO_CTX_STATE.state, [1], 2), (SO_CTX_STATE.resident, [1], 1), (SO_CTX_STATE.slot, [1], 1), (SO_CTX_CFG.en, [1], 1)] sR
  (s.setCore 0 fun k => { k with slots := k.slots.set 1 (some 1) }).setCtx 1 fun x => { x with prio := 1 }

theorem witness_Scheduling :
    (sR.advance 0).runningOn 0 = some 0 ∧ ((nx (exec (.quantumExpiry 0 0) sR)).runningOn 0) = some 0 ∧
      sS.runningOn 0 = some 0 ∧ (nx (exec (.contextSwitch 0) sS)).runningOn 0 = some 1 ∧ (nx (exec (.contextSwitch 0) sS)).ctxState 0 = 2 ∧
      s0.cores[(1 : CoreId)].run = none ∧ (nx (exec (.contextSwitch 1) s0)).runningOn 1 = none ∧
      (sC 2).ctxState 1 = 2 ∧ (sC 2).slotOf ((sC 2).coreOf 1) 1 = none ∧ (nx (exec (.contextSwap 1) (sC 2))).reg SO_CTX_STATE.resident [1] = 1 := by
  decide +kernel

theorem witness_ObjectRegisters :
    (let s := put [(SO_ATTR.own_valid, [16383], 1), (SO_VALUE.value, [16383], 9)] s0
     s.soPermits (s.partOf p0) 16383 = true ∧ s.waitedOn 16383 = false ∧
       (nx (exec (.soValueWrite p0 16383 .whole 12) s)).reg SO_VALUE.value [16383] = 12 ∧
       (nx (exec (.soAttrWrite p0 16383 0xB4000007) s)).reg SO_ATTR.owner [16383] = 3) ∧
    (let s := put [(SO_ATTR.own_valid, [0], 1), (SO_ATTR.owner, [0], 1)] s0
     s.soPermits 2 0 = false ∧ (put [(SO_CTX_CFG.part, [0], 2)] s).partOf (.ctx 0) = 2) := by
  decide +kernel

/-- Operations under way of context 0. -/
def sF (op : FlightOp) : State := { sG with flights := [⟨0, 0, 0, 0, op, 0⟩], stamp := 1 }

theorem witness_ObjectOperations :
    ((sF (.so .add 3 5)).flights[0]?).isSome = true ∧ (nx (exec (.soOpExecute 0) (sF (.so .add 3 5)))).reg SO_VALUE.value [3] = 5 ∧
      (let w (st : Stop) : State := (put [(SO_CTX_STATE.state, [0], 4)] sG).setCtx 0 fun x => { x with stop := st }
       (nx (exec (.soResultArrive 0) (w (.result 0 4 (some 9))))).ctxs[(0 : CtxId)].landed.s[(4 : Fin 32)] = 9 ∧
         (nx (exec (.soWaitRegister 0) { w (.object 3 5 4 none (.sent 7)) with flights := [⟨7, 0, 0, 0, .register 3, 0⟩] })).ctxs[(0 : CtxId)].stop =
           .object 3 5 4 none (.answered false) ∧
         (nx (exec (.soWaitAnswer 0) (w (.object 3 0 4 none (.answered true))))).ctxs[(0 : CtxId)].stop = .clear ∧
         (nx (exec (.soWaitAnswer 0) (w (.object 3 5 4 none (.answered false))))).ctxs[(0 : CtxId)].stop = .object 3 5 4 none .held ∧
         ((w (.object 3 5 4 (some 10) .held)).advance 0).ctxs[(0 : CtxId)].stop.expiry = some (10, 4) ∧
         (nx (exec (.waitTimeout 10 0) (w (.object 3 5 4 (some 10) .held)))).ctxs[(0 : CtxId)].landed.s[(4 : Fin 32)] = 1 ∧
         (nx (exec (.waitTimeout 9 0) (w (.object 3 5 4 (some 10) .held)))).ctxs[(0 : CtxId)].landed.s[(4 : Fin 32)] = 0) := by decide +kernel

theorem witness_GlobalCompletion :
    (let l := sF (.load 0 8 false 4 0)
     let w := sF (.store 8 8 0x1122 false (some 0))
     l.denialAt (.core 0) (l.partOf (.ctx 0)) false 0 = none ∧ (nx (exec (.globalAccessComplete 0 0) l)).flights = [] ∧
       (nx (exec (.globalAccessComplete 0 0) w)).readNat 8 8 = 0x1122 ∧
       (let d := put [(HOST_MAP.wr, [0, 0], 0), (HOST_MAP.rd, [0, 0], 0)] w
        d.denialAt (.core 0) 0 true 8 = some .map ∧ (nx (exec (.globalAccessComplete 0 0) d)).readNat 8 8 = 0) ∧
       (nx (exec (.fenceComplete 0) (sF (.fence 0)))).reg SPM_ARRIVAL.count [0, 0] = 1 ∧
       (sF (.csrRead 0x200000 4 4 0)).behind ⟨0, 0, 0, 0, .csrRead 0x200000 4 4 0, 0⟩ = false ∧
       (nx (exec (.csrAccessComplete 0) (sF (.csrWrite 0x300020 4 6 0)))).flights = []) := by decide +kernel

/-! ### Memories -/

/-- A partial write enters a merge buffer, and its 64-cycle write-back changes no byte. -/
theorem witness_ScratchpadCommands :
    bufOf s0 (spmBase + 4) = some (.spm 0) ∧ s0.reg ECC_DIAG.arm = 0 ∧ (s0.writePart (spmBase + 4) [7]).byteAt (spmBase + 4) = 7 ∧
      ((s0.writePart (spmBase + 4) [7]).buf (.spm 0)).length = 1 ∧
      s0.denialAt (s0.srcOf p0) 0 true spmBase = some (.window 0 none) ∧
      (nx (exec (.remoteAccess p0 0 0 4 [1, 2, 3, 4]) s0)).reg SPM_STATUS.denied [0] = 1 ∧
      (nx (exec (.remoteAccess p0 0 0 4 []) s0)).out = [.data p0 0] ∧
      (nx (exec (.doorbellWrite p0 0 0 1) s0)).reg SPM_STATUS.last_nowin [0] = 1 ∧
      (nx (exec .remoteTransferEnd { s0 with ends := [(1, 63)] })).reg SPM_ARRIVAL.count [1, 63] = 1 ∧
      (nx (exec (.stealStall 2) s0)).reg SPM_PERF.count [2, 0] = 1 ∧
      ((nx (exec (.gatherWriteback 1000 0) (s0.writePart (spmBase + 4) [7]))).buf (.spm 0)) = [] ∧
      (nx (exec (.gatherWriteback 1000 0) (s0.writePart (spmBase + 4) [7]))).byteAt (spmBase + 4) = 7 := by decide +kernel

/-- A window open to the application cluster on lines 0 to 7 of core 0, with counter 63. -/
def sW : State :=
  put [(SPM_WIN.open, [0, 0], 1), (SPM_WIN.rd, [0, 0], 1), (SPM_WIN.wr, [0, 0], 1), (SPM_WIN.ext, [0, 0], 1), (SPM_WIN.part_mask, [0, 0], 15),
    (SPM_WIN.counter, [0, 0], 63), (SPM_WIN.core_mask, [0, 0], 0)]
    (s0.setCtx 0 fun x => { x with handles := x.handles.set 0 (1#128 <<< 127 ||| 8#128 <<< 32) })

theorem witness_ScratchpadCommands_window :
    sW.denialAt (sW.srcOf p0) 0 true (spmBase + 224) = none ∧
      (nx (exec (.remoteAccess p0 0 224 4 [1, 2, 3, 4]) sW)).readNat (spmBase + 224) 4 = 0x04030201 ∧
      (nx (exec (.doorbellWrite p0 0 0 1) sW)).reg SPM_ARRIVAL.count [0, 63] = 1 ∧
      (nx (exec (.chunkOwnWrite p0 0 47 0x8001) s0)).reg SPM_CHUNK_OWN.ctx [0, 47] = 1 ∧
      (let s := (sR.setCtx 0 fun x => { x with handles := x.handles.set 0 (1#128 <<< 127 ||| 8#128 <<< 32) })
       (nx (exec (.chunkOwnWrite p0 0 0 0) s)).reg SPM_STATUS.own_err [0] = 1) ∧
      (nx (exec (.windowCloseWrite p0 0 0 .whole 0) sW)).reg SPM_WIN.open [0, 0] = 0 := by decide +kernel

/-- P0's DRAM page 0, trained, with one byte. -/
def sM : State := { sR with mem := [(64, 9)], valid := [0] }

theorem witness_VaultAndDram :
    s0.agentDenial p0 false vaultBase = some .map ∧ (nx (exec (.vaultAccess p0 0 4 [] 0) s0)).out = [.abort p0] ∧
      (64 : Nat) < sM.dataBytes ∧ sM.agentDenial p0 false 64 = none ∧ sM.dramHeld 64 = false ∧
      (nx (exec (.dramRead p0 64 4 0 false) sM)).out = [.data p0 9] ∧ sM.wordLive 2 = true ∧ sM.diagHeld 2 = false ∧
      popCount 272 (1 : BitVec 272).toNat = 1 ∧ popCount 272 (3 : BitVec 272).toNat = 2 ∧ sM.reg ECC_CTRL.so_en = 0 ∧
      (nx (exec (.dramRead p0 64 4 3 false) sM)).recov = [(p0, 64, 4)] ∧
      sM.agentDenial (.ctx 0) true 64 = none ∧ (nx (exec (.dramWrite (.ctx 0) 64 [1, 2] 0) sM)).readNat 64 2 = 0x0201 ∧
      (nx (exec (.dramWrite p0 0x200000 [1, 2] 0) sM)).out = [.abort p0] ∧
      (nx (exec (.mergeBufferWriteback 1000 0) sM)).byteAt 64 = 9 := by decide +kernel

theorem bufOk_sM (i : BufId) : BufOk sM i := by
  have h : sM.buf i = [] := by
    cases i with
    | spm n =>
      show (Vector.set (Vector.replicate 32 Core.fresh) 0 _)[n.val].gather = []
      rw [Vector.getElem_set]
      split
      · rfl
      · rw [Vector.getElem_replicate]; rfl
    | bank b => show (Vector.replicate 32 ([] : List Gather))[b.val] = []; rw [Vector.getElem_replicate]
    | chan c => show (Vector.replicate 16 ([] : List Gather))[c.val] = []; rw [Vector.getElem_replicate]
  simp [BufOk, h]

/-- A hart's access of sound memory with nothing in a buffer or in the L2; a hole in the address space. -/
theorem witness_VaultAndDram_hart :
    isHart p0 = true ∧ isHart (.ctx 0) = false ∧ sM.agentDenial p0 true 64 = none ∧ Quiet sM ∧ sM.reg ECC_DIAG.arm = 0 ∧ L2Ok sM ∧
      (∀ i, BufOk sM i) ∧ sM.l2Holds 64 4 = false ∧ regionOf sM (2 ^ 47) = .unmapped ∧
      (nx (exec (.dramRead p0 (2 ^ 47 : BitVec 48) 4 0 false) sM)).out = [.abort p0] :=
  ⟨by decide +kernel, by decide +kernel, by decide +kernel, ⟨rfl, rfl, rfl, rfl, rfl⟩, by decide +kernel, ⟨nofun, .nil⟩, bufOk_sM,
    by decide +kernel, by decide +kernel, by decide +kernel⟩

/-- The configuration of two ranks of the middle density at the highest rate, and one that R379 does not list. -/
theorem witness_MemoryMaintenance_cfg :
    s0.locked = false ∧ (nx (exec (.memCfgWrite p0 0x54 0xFFFF) s0)).reg MEM_CFG.installed_gib = 64 ∧
      (nx (exec (.memCfgWrite p0 0x54 0xFFFF) s0)).reg MEM_CFG.trained = 0xFFFF ∧
      (nx (exec (.memCfgWrite p0 0x64 0) s0)).reg MEM_CFG.cfg_err = 1 := by decide +kernel

theorem witness_MemoryMaintenance_fill :
    sM.reg MEM_ZERO.busy = 0 ∧ (nx (exec (.memZeroStart p0 .whole 0x8000000100000000) sM)).zeroing = some (0, 1) ∧
      (nx (exec (.memZeroDone 0) { sM with zeroing := some (0, 1) })).byteAt 64 = 0 ∧ s0.flips = [] ∧
      (nx (exec (.memZeroDone 0) { sM with zeroing := some (0, 1), recov := [(p0, 64, 4)] })).zeroing = some (0, 1) ∧
      (nx (exec (.remapWrite p0 true 15 31 .whole 0x8000000000FFFFFF) s0)).reg ECC_REMAP_DRAM.page [15, 31] = 0xFFFFFF ∧
      (nx (exec (.remapWrite p0 false 612 15 .whole 0x800000000001FFFF) s0)).reg ECC_REMAP_SRAM.line [612, 15] = 0x1FFFF := by
  decide +kernel

theorem witness_MemoryMaintenance_scrub :
    (let s : State := { s0 with written := [spmBase / 32], mem := [(spmBase, 1)] }
     (s.advance 0).dataBytes ≤ spmBase ∧ (s.advance 0).reg ECC_CTRL.scrub_sram_min ≠ 0 ∧ (s.advance 0).wordLive (spmBase / 32) = true ∧
       (s.advance 0).diagHeld (spmBase / 32) = false) ∧
    (nx (exec (.bucketLeak 250000000) (put [(ECC_BUCKET.count, [127], 2)] s0))).reg ECC_BUCKET.count [127] = 1 ∧
    (nx (exec (.zqLatchDue 250000000) s0)).reg MEM_STATUS.pending = 0xFFFF ∧
    (nx (exec (.retrainDue 2500000000) s0)).reg MEM_STATUS.pending = 0xFFFF ∧
    (let s := put [(MEM_STATUS.pending, [], 0xFFFF)] sM
     s.pauseAllowed = true ∧ s.channelBusy 15 = false ∧ s.awake = true ∧ (nx (exec (.maintPauseStart 0 15) s)).reg MEM_STATUS.paused = 0x8000) ∧
    (nx (exec (.maintPauseEnd 0 15) (put [(MEM_STATUS.paused, [], 0x8001)] sM))).reg MEM_STATUS.paused = 1 := by decide +kernel

/-! ### Compute instructions -/

/-- A context whose handle 0 covers lines 0 to 32,767: a matrix header (K 1, N 8) at line 0, a grid descriptor (64 buckets, level 0, list of 1)
at line 4, a list header (cap 1) at line 12, a map header
(1 offset) at line 16; s5 to s9 refer to line 0 with n 1, to the descriptor, to the list, hold 3, and refer to the map; t0 to t3 are tile descriptors. -/
def sT : State :=
  let s := put [(CORE_CTR_GRP.assigned, [0, 0], 1), (CORE_CTR_GRP.ctx, [0, 0], 0), (TBL_TAB_CFG.en, [0, 0], 1), (SO_ATTR.own_valid, [3], 1)] sR
  let s : State := { s with
    mem := [(spmBase, 1), (spmBase + 2, 8), (spmBase + 131, 6), (spmBase + 134, 1), (spmBase + 388, 1), (spmBase + 516, 1)]
    written := [spmBase / 32, spmBase / 32 + 4, spmBase / 32 + 12, spmBase / 32 + 16] }
  let s := s.setCore 0 fun k => { k with accWin := k.accWin.set 0 (0, 16) }
  s.setCtx 0 fun x => { x with
    handles := x.handles.set 0 (1#128 <<< 127 ||| 0x8000#128 <<< 32), t := (((x.t.set 0 (1#256 <<< 208)).set 1 (1#256 <<< 208 ||| 6#256 <<< 132)).set 2 (1#256 <<< 136)).set 3 (1#256 <<< 208 ||| 7#256 <<< 132 ||| 1#256 <<< 136)
    heldA := some 0, heldS := some 0
    s := (((((((x.s.set 5 0x100000000).set 6 0x400).set 7 0xC00).set 8 3).set 9 0x1000).set 10 1).set 11 32).set 12 0x7000000000000000 }

/-- As issues_of, for sT. -/
theorem issues_sT {w x : W64} (h : legalWord w x = true) : Issues sT 0 0 w x := by
  refine ⟨by decide +kernel, by decide +kernel, State.settleFetch_quiet (by unfold Quiet; decide +kernel) _ _, ?_, h⟩
  cases w.getLsbD 8 <;> decide +kernel

/-- The operations in a class of core 0 after an instruction. -/
def inCls (u : UnitClass) (i : Instr) : Nat := ((nx (exec i sT)).cores[(0 : CoreId)].cls u).length

/-- A two-word instruction's first word. -/
abbrev wl (op : BitVec 8) (d a b c : Fin 32) (hi : BitVec 32) : W64 := wordOf op true 0 d a b c hi

/-- The operands of each array instruction are in order: it joins its class. -/
theorem witness_MatrixCommands :
    opOf (wd 0x80 0 0 0 0 0) 0 0x80 = true ∧ inCls .array (.wld 0 (wd 0x80 0 0 0 0 0)) = 1 ∧
      opOf (wd 0x81 0 0 0 0 0) 0 0x81 = true ∧ inCls .array (.wswap 0 (wd 0x81 0 0 0 0 0)) = 1 ∧
      opOf (wd 0x82 0 0 0 1 0) 0 0x82 = true ∧ inCls .array (.mm 0 (wd 0x82 0 0 0 1 0)) = 1 ∧
      opOf (wd 0x82 0 3 12 2 0) 0 0x82 = true ∧ inCls .array (.mm 0 (wd 0x82 0 3 12 2 0)) = 1 ∧
      opOf (wd 0x83 1 1 0 1 0) 0 0x83 = true ∧ inCls .array (.mv 0 (wd 0x83 1 1 0 1 0)) = 1 ∧
      opOf (wd 0x83 0 0 0 0 0) 0 0x83 = true ∧ inCls .array (.mv 0 (wd 0x83 0 0 0 0 0)) = 1 ∧
      opOf (wd 0x84 0 0 9 0 0) 0 0x84 = true ∧ inCls .array (.mmG 0 (wd 0x84 0 0 9 0 0)) = 1 ∧
      opOf (wd 0x85 0 2 0 0 0) 0 0x85 = true ∧ inCls .array (.strip 0 (wd 0x85 0 2 0 0 0)) = 1 := by decide +kernel

theorem witness_GridCommands_dense :
    opOf (wl 0x88 4 5 0 5 0) 0 0x88 = true ∧ inCls .array (.dun 0 (wl 0x88 4 5 0 5 0) 0) = 1 ∧
      opOf (wl 0x89 4 5 5 0 0) 0 0x89 = true ∧ inCls .array (.dint 0 (wl 0x89 4 5 5 0 0) 0) = 1 := by decide +kernel

theorem witness_GridCommands_grid :
    opOf (wl 0x90 0 6 0 0 0) 0 0x90 = true ∧ inCls .grid (.gridClear 0 (wl 0x90 0 6 0 0 0) 0) = 1 ∧
      opOf (wl 0x90 0 6 5 0 1) 0 0x90 = true ∧ inCls .grid (.gridIns 0 (wl 0x90 0 6 5 0 1) 0) = 1 ∧
      inCls .grid (.gridLook 0 (wl 0x90 0 6 5 5 2) 0) = 1 ∧ inCls .grid (.gridAge 0 (wl 0x90 0 6 6 0 3) 0) = 1 ∧
      inCls .grid (.haloExp 0 (wl 0x91 0 6 0 0 0) 0) = 1 ∧ inCls .grid (.haloImp 0 (wl 0x91 0 6 5 0 1) 0) = 1 := by decide +kernel

theorem witness_GridCommands_keys :
    inCls .grid (.morton 0 (wl 0x92 0 5 5 0 0) 0) = 1 ∧ inCls .grid (.mortonTab 0 (wl 0x92 4 6 5 5 1) 0) = 1 ∧
      inCls .grid (.rankw 0 (wl 0x92 0 6 5 0 2) 0) = 1 ∧ inCls .grid (.kmap 0 (wl 0x93 5 6 6 5 0) 0) = 1 ∧
      inCls .grid (.ball 0 (wl 0x94 0 6 5 5 0) 0x100) = 1 ∧ inCls .grid (.sample 0 (wl 0x95 4 5 5 0 0) 0) = 1 := by decide +kernel

theorem witness_SelectAndChannel :
    opOf (wl 0x98 0 5 0 0 0) 0x10000 0x98 = true ∧ inCls .select (.topk 0 (wl 0x98 0 5 0 0 0) 0x10000) = 1 ∧
      inCls .select (.thr 0 (wl 0x99 5 5 0 0 0) 0) = 1 ∧ inCls .select (.merge 0 (wl 0x9A 0 7 8 5 0) 0) = 1 ∧
      inCls .sort (.sort 0 (wl 0x9B 5 5 5 5 0) 0) = 1 ∧ sT.dRefused false 0 0 0 32 0 = false ∧
      (nx (exec (.dma 0 (wl 0x4C 0 0 0 11 0) 0) sT)).reg CDMA_STATUS.busy [0, 0] = 1 := by decide +kernel

theorem witness_TableCommands :
    opOf (wl 0xA0 0 5 10 5 0) 0 0xA0 = true ∧ inCls .table (.tlook 0 (wl 0xA0 0 5 10 5 0) 0) = 1 ∧
      inCls .table (.tgrad 0 (wl 0xA1 0 5 0 5 0) 0) = 1 ∧ inCls .table (.trepl 0 (wl 0xA3 0 5 0 5 0) 0) = 1 ∧
      opOf (wd 0xA2 0 0 8 0 0) 0 0xA2 = true ∧ inCls .table (.tstep 0 (wd 0xA2 0 0 8 0 0)) = 1 ∧
      (nx (exec (.tstep 0 (wd 0xA2 0 0 0 0 0)) sT)).reg SO_CTX_EXC.code [0] = 0x0A ∧
      opOf (wd 0xA4 0 0 0 0 0) 0 0xA4 = true ∧ inCls .table (.tpf 0 (wd 0xA4 0 0 0 0 0)) = 1 := by decide +kernel

/-! ### Exposures and the front end -/

/-- Exposures enabled, just before an opening time. -/
def sE0 : State := put [(FE_EXP_CTRL.enable, [], 1)] { s0 with clk := { s0.clk with ns := 99999998 } }
/-- The first one open. -/
def sE : State := nx (exec (.exposureFirstOpen 1) sE0)
/-- Its first slice has ended; its last slice has ended; it has closed; all its slices are sealed. -/
def sE1 : State := { sE with sliceT := 1562500 * 2 ^ 32 }
def sE2 : State := { sE with sliceT := 64 * 1562500 * 2 ^ 32, slice := 63 }
def sE3 : State := nx (exec (.sliceBoundary 0) sE2)
def sE4 : State := { sE3 with exps := sE3.exps.map fun e => { e with seals := e.slices } }

theorem witness_ExposureGrid :
    ((sE0.advance 1).fullOn = true ∧ (sE0.advance 1).openExp = none ∧ (sE0.advance 1).pendTx = [] ∧ (sE0.advance 1).reg FE_EXP_CTRL.enable = 1 ∧
       (sE0.advance 1).firstOpen = some 100000000 ∧ (sE0.advance 0).firstOpen = none) ∧
    sE.openExp.isSome = true ∧ sE.fullOn = true ∧ sE.reg FE_EXP_STATUS.open = 1 ∧
    ((sE1.advance 0).openExp.map fun e => csrGet e.acq FE_EXP_PERIOD.slice_ns []) = some 1562500 ∧
    ((sE1.advance 0).slice + 1) * 1562500 * 2 ^ 32 ≤ (sE1.advance 0).sliceT ∧ (sE1.advance 0).closesAt 1562500 1 = false ∧
    (nx (exec (.sliceBoundary 0) sE1)).slice = 1 ∧
    (sE2.advance 0).openExp.isSome = true ∧ ((sE2.advance 0).slice + 1) * 1562500 * 2 ^ 32 ≤ (sE2.advance 0).sliceT ∧
    (sE2.advance 0).closesAt 1562500 64 = true ∧ (sE3.exps.map fun e => (e.num, e.closeNs)) = [(0, some 100000002), (1, none)] := by decide +kernel

/-- A frame at port 0, for program 0. -/
def sI (l : List Byte) : State := { s0 with inbox := [⟨0, 0, l, ⟨0, 0, 0, 0, false⟩⟩] }

theorem witness_DeadlineDecodeSeal :
    (nx (exec (.exposureDeadline 0) { s0 with lag := 5 })).reg FE_EXP_STATUS.lag_ns = 5 ∧
    (nx (exec (.exposureDeadline 0) { s0 with lag := 5 })).reg FE_EXP_STATUS.lagging = 1 ∧
    (sE4.advance 0).fullOn = true ∧ ((sE4.advance 0).describeNext.map fun e => (e.num, e.overrun, e.slices, e.seals, e.buf)) =
      some (0, false, 64, 64, some 0) ∧
    (sE3.advance 0).fullOn = true ∧ ((sE3.advance 0).sealNext.map fun e => (e.num, (sE3.advance 0).sealDue e)) = some (0, true) ∧
    ((sI []).advance 0).fullOn = true ∧ (((sI []).advance 0).inbox.find? fun g => decide (g.port = 0)).isSome = true ∧
    beyondPayload (sI []).acq 0 0 (decSteps (sI []).acq 0 0) 0 = true ∧ beyondPayload (sI []).acq 0 0 (decSteps (sI []).acq 0 0) 3 = false ∧
    (nx (exec (.frameDecode 0 0) (sI []))).reg FE_DROP_CNT.count [5] = 1 ∧
    (nx (exec (.frameDecode 0 0) (sI [1, 2, 3]))).inbox = [] := by decide +kernel

/-- R117 on the triangle (0, 0), (4, 0), (0, 4); R120 on the coordinate −1 with edge 8; R125. -/
theorem witness_GridAndZones :
    crosses 1 1 4 0 0 4 = true ∧ crosses 1 1 0 4 0 0 = false ∧ crosses 3 3 4 0 0 4 = false ∧
    (let c := csrSet (csrSet (csrSet (csrSet (csrSet (csrSet [] FE_ZONE_CFG.en [1] 1) FE_ZONE_CFG.nvtx_m1 [1] 2) FE_ZONE_CFG.sensor_mask [1] 4)
       FE_ZONE_VTX.x [1, 1] 4) FE_ZONE_VTX.y [1, 2] 4) FE_ZONE_CFG.z_max [1] 5
     inZone c 1 2 1 1 0 = true ∧ inZone c 1 2 1 1 6 = false ∧ inZone c 1 3 1 1 0 = false ∧ inZone c 1 2 3 3 0 = false) ∧
    (let s := { s0 with proc := csrSet [] VOX_GEOM.edge0 [] 8 }
     0 < s.edge ∧ 0 ≤ s.index0 0 40 ∧ s.index0 0 (40 - 104857600) = 5) ∧
    homeOf 0 10 5 < 2 ^ 10 := by decide +kernel

/-! ### Array, grid, selection and sort events -/

/-- After an instruction; and with its class started. -/
def aft (i : Instr) : State := nx (exec i sT)
def run1 (i : Instr) (u : UnitClass) : State := nx (exec (.computeStart 0 0 u) (aft i))

def iWld : Instr := .wld 0 (wd 0x80 0 0 0 0 0)
def iSwap : Instr := .wswap 0 (wd 0x81 0 0 0 0 0)
def iGrid : Instr := .gridClear 0 (wl 0x90 0 6 0 0 0) 0
def iSort : Instr := .sort 0 (wl 0x9B 5 5 5 5 0) 0
def iTopk : Instr := .topk 0 (wl 0x98 0 5 0 0 0) 0x10000
def iThr : Instr := .thr 0 (wl 0x99 5 5 0 0 0) 0
def iMerge : Instr := .merge 0 (wl 0x9A 0 7 8 5 0) 0
def iLook : Instr := .tlook 0 (wl 0xA0 0 5 10 5 0) 0

/-- The class of core 0 holds one instruction that has not started; once started, it is the class's head. -/
def waits (i : Instr) (u : UnitClass) : Bool :=
  decide (((aft i).cores[(0 : CoreId)].cls u).map (·.started) = [false] ∧ (((run1 i u).headOf 0 u).map (·.started)) = some true)

theorem witness_ClassSteps_start : waits iWld .array = true ∧ waits iGrid .grid = true ∧ waits iSort .sort = true ∧ waits iTopk .select = true ∧
    sT.cores[(0 : CoreId)].cls .array = [] := by decide +kernel

/-- As sT, with a matrix of one weight (80) in an RLZ4 tile at line 32 and a strip's tile descriptor of it in t4. -/
def sK : State :=
  let b := spmBase + 1024
  { sT.setCtx 0 fun x => { x with t := x.t.set 4 (1#256 <<< 136 ||| 32#256 <<< 81) } with
    mem := sT.mem ++ [(b, 1), (b + 2, 8), (b + 8, 64), (b + 32, 40), (b + 40, 1), (b + 42, 1), (b + 44, 24), (b + 48, 1), (b + 57, 0x50)]
    written := sT.written ++ [b / 32, b / 32 + 1] }

/-- Its strip has started. -/
def sStrip : State := nx (exec (.computeStart 0 0 .array) (nx (exec (.strip 0 (wd 0x85 0 4 0 0 0)) sK)))
/-- Completions, once nothing holds them: the class is empty again. -/
def ends (u : UnitClass) (i fin : Instr) : Bool :=
  decide (((nx (exec fin (run1 i u))).cores[(0 : CoreId)].cls u) = [])

theorem witness_ClassSteps_ends : ends .sort iSort (.sortComplete 0 0) = true ∧ ends .select iThr (.selectionClassComplete 0 0) = true ∧
    ((run1 iSwap .array).headOf 0 .array).map (run1 iSwap .array).arrayHeld = some false ∧
    ((run1 iMerge .select).headOf 0 .select).map (fun i => (fieldsOf i.w).op) = some 0x9A ∧
    (run1 iMerge .select).cores[(0 : CoreId)].climb.isSome = true := by decide +kernel

/-- The strip's image is the weight's INT4 value, 80 / 16; a ramp up by a step. -/
theorem witness_ArrayEvents :
    (sStrip.advance 0).cores[(0 : CoreId)].array.length = 1 ∧
    ((sStrip.headOf 0 .array).bind fun i => (sStrip.prepOf 0 i).1.map fun p => p.jobs.map fun b => b.image.map (·.1.toNat)) = some [some 5] ∧
    (nx (exec (.weightSwap 0 0) sStrip)).cores[(0 : CoreId)].active = 5 ∧
    (let s := put [(ARR_STATUS.ramp_dir, [0], 1)] (s0.setCore 0 fun k => { k with cclk := 360 })
     (nx (exec (.rampStep 0 0) s)).reg ARR_STATUS.ramp_level [0] = 1 ∧ (nx (exec (.rampStep 0 0) s)).reg ARR_STATUS.ramp_dir [0] = 1) ∧
    (accAdd true (Val.ofInt (2 ^ 31 - 1)) (Val.ofInt 1)).2 = { Tally.zero with sat := 1 } := by decide +kernel

/-- A merge that waits for core 1's list; at core 1 it sends its own; at core 2 of three it goes up alone. -/
def sMg : State := run1 iMerge .select
def sMg1 : State := sMg.setCore 1 fun _ => sMg.cores[(0 : CoreId)]
def climbOf (s : State) (n : CoreId) : Option (Nat × Nat × Bool) := s.cores[n].climb.map fun q => (q.level, q.got, q.sent)

theorem witness_SelectionData_merge :
    ((sMg.mergeHead 0).map fun e => (mergeMask e.1, e.2.level, e.2.got, e.2.sent)) = some (3, 1, 0, false) ∧
    participants 3 = [0, 1] ∧ ordinalOf 3 0 = 0 ∧ ordinalOf 3 1 = 1 ∧ mergeLevels 2 = 1 ∧ sMg.reg SEL_CTRL.merge_timeout_us [0] = 100 ∧
    climbOf (nx (exec (.mergeLevel 0 0) sMg)) 0 = some (1, 0, false) ∧
    (let s := { sMg with clk := { sMg.clk with tclk := 25000 } }
     climbOf (nx (exec (.mergeTimeout 0 0) s)) 0 = some (2, 0, false) ∧
       (nx (exec (.mergeTimeout 0 0) s)).reg SEL_STATUS.merge_timeouts [0] = 1) := by decide +kernel
/-- The partner's list has come at edge 5. -/
def sMg2 : State := sMg.setCore 0 fun k => { k with climb := k.climb.map fun q => { q with times := [5] } }
theorem witness_SelectionData_received :
    ((sMg2.mergeHead 0).map fun e => (e.1.rd, e.2.base, e.2.times, e.2.sinceT)) = some (0, 0, [5], 0) ∧
    climbOf (nx (exec (.mergeLevel 0 0) sMg2)) 0 = some (2, 1, false) := by decide +kernel
theorem witness_SelectionData_sent : climbOf (nx (exec (.mergeLevel 0 1) sMg1)) 1 = some (1, 0, true) := by decide +kernel

theorem witness_SelectionData :
    imageAt .w8 (imageOf .w8 8 (fun k c => 10 * k + c) 0 [3, 7]) 1 4 = 74 ∧ imageAt .w8 (imageOf .w8 8 (fun k c => 10 * k + c) 0 [3, 7]) 2 4 = 0 ∧
    mortonKey (cellKey 1 2 3 4) = 2 ^ 60 + 282 ∧ sortEntries [(3, 1, 1), (1, 2, 2), (3, 0, 3)] = [(1, 2, 2), (3, 1, 1), (3, 0, 3)] ∧
    (histogram [0x0105, 0x0305])[5]? = some 2 ∧ sortKey 2 false 0x80000000 < sortKey 2 false 0 ∧
    (let q := ([(5, 0), (9, 1), (5, 2)] : List (Nat × Nat)).foldl (fun q e => q.feed e.1 e.2) (Live.fresh 0 2)
     q.entries = [(9, 1), (5, 0)] ∧ q.seen = 3) := by decide +kernel
/-! ### Map tables -/

/-- A lookup at table 0, a gradient instruction and a replace have started. -/
def sL : State := run1 iLook .table
def sG1 : State := run1 (.tgrad 0 (wl 0xA1 0 5 0 5 0) 0) .table
def sG3 : State := run1 (.trepl 0 (wl 0xA3 0 5 0 5 0) 0) .table
def sTs : State := run1 (.tstep 0 (wd 0xA2 0 0 8 0 0)) .table
def sPf : State := run1 (.tpf 0 (wd 0xA4 0 0 0 0 0)) .table

/-- What a port has at its head: opcode, then key and table of its next request. -/
def atPort (s : State) : List Nat :=
  match s.portHead 0 with
  | none => []
  | some i =>
    match s.srcOfSeq i.seq with
    | none => [(fieldsOf i.w).op]
    | some x => [(fieldsOf i.w).op, (i.request x.keys i.done).1, (i.request x.keys i.done).2]

theorem witness_TableRequests :
    atPort sL = [0xA0, 524289, 0] ∧ sT.portHead 0 = none ∧
    atPort sG1 = [0xA1, 524289, 0] ∧
    atPort sG3 = [0xA3, 524289, 0] ∧
    sL.rowOf 0 (sL.bankOf 0) 524289 = some 99 ∧ sL.direct 0 0 = false ∧ sL.tabCfg TBL_TAB_CFG.replicate 0 0 ≠ 1 ∧
    sL.tabCfg TBL_TAB_CFG.rows_log2 0 0 ≤ 64 ∧ sL.reg TBL_TAB_HASH.tab_seed [0, 0] < 2 ^ 64 ∧
    (put [(TBL_TAB_CFG.index, [0, 0], 1)] s0).direct 0 0 = true ∧ sL.rowOf 0 0 (2 ^ 62) = none ∧
    (entryOf (Entry.bits ⟨2, true, false, 5, 77⟩)).slot = 77 := by decide +kernel

/-- The first lookup waits for its directory line; then it finds no row and has completed, and leaves the class. -/
def sL1 : State := nx (exec (.tableRequest 0 0 false false) sL)
def sL2 : State := nx (exec (.rowCacheFill 0 0 false) sL1)

theorem witness_TableRequests_fill :
    (sL1.tbl.reads.map fun q => (q.row, q.at')) = [(99, none)] ∧ sL2.tbl.reads = [] ∧
    (sL2.cores[(0 : CoreId)].table.map fun i => (sL2.tableDone i, sL2.keysBad i)) = [(true, false)] ∧
    (nx (exec (.tableClassComplete 0 0 0) sL2)).cores[(0 : CoreId)].table = [] := by decide +kernel

theorem witness_TableRequests_pairs :
    (nx (exec (.tableGradientPair 0 0) sG1)).reg TBL_STATUS.upd_dropped [] = 1 ∧
    (sG1.pair 0 (2 ^ 62) (some 1)).reg TBL_STATUS.upd_dropped [] = 1 ∧ (sG1.replace 0 5 1 true none).reg TBL_STATUS.upd_dropped [] = 1 ∧
    sG1.rowOf 0 (sG1.bankOf 0) (2 ^ 62) = none := by decide +kernel

theorem witness_TableSteps :
    (let s : State := { s0 with tbl := { s0.tbl with opened := [⟨1, 0, 7, [0x3F800000]⟩] } }
     (s.pairPut 1 0 7 [0x3F800000]).tbl.opened = [⟨1, 0, 7, [0x40000000]⟩] ∧ (s.pairPut 1 0 8 [5]).tbl.opened.length = 2 ∧
       ((put [(TBL_VAULT.upd_log2, [], 1)] s).pairPut 1 0 8 [5]).reg TBL_STATUS.upd_overflow [] = 1) ∧
    (let s : State := { sTs with tbl := { sTs.tbl with steps := [⟨0, 0, 0, 2, 3⟩], opened := [⟨0, 0, 7, []⟩] } }
     let t := nx (exec (.tableStepStart 0) s)
     s.tbl.run = none ∧ t.tbl.run.isSome = true ∧ t.tbl.closed.length = 1 ∧ t.tbl.opened = [] ∧
       (nx (exec (.tableStepDone 0) t)).reg TBL_TAB_STEPS.steps [1] = 1 ∧ (nx (exec (.tableStepDone 0) t)).tbl.closed.length = 1) ∧
    (let w := stepFeature 0 { eta := .ofInt 2, lam := .ofInt 0, b1 := .ofInt 0, b2 := .ofInt 0, eps := .ofInt 0 } 1 (.ofInt 5) (.ofInt 0) (.ofInt 0) (.ofInt 1)
     w.1.toInt = some 3) := by decide +kernel

theorem witness_TableSweep :
    (let s : State := { sT with clk := { sT.clk with tclk := 250 } }
     s.sweepNext = some (0, 0) ∧ ¬ (s.clk.tclk - s.tbl.sweepT) * s.reg TBL_CTRL.sweep_rate < 250 ∧
       (s.getEntry 0 0 0).1.tier = 0 ∧ (nx (exec (.sweepVisit 0) s)).tbl.sweep = (0, 1)) ∧
    s0.sweepNext = none ∧
    (let e (tier acc : Nat) : Entry := ⟨tier, false, false, acc, 0⟩
     let s := put [(TBL_TAB_CTL.prom_thr, [0], 8), (TBL_TAB_CTL.dem_thr, [0], 2)] s0
     s.moveTo 0 (e 2 8) = some 1 ∧ s.moveTo 0 (e 2 1) = some 3 ∧ s.moveTo 0 (e 1 8) = none ∧ s.moveTo 0 { e 2 8 with mig := true } = none) := by
  decide +kernel

/-- A migration of table 0's row 7 from tier 1 slot 4 to tier 2 slot 5, and a slot that drains. -/
def sMig (v : Option (List Nat)) (copied : Bool) : State :=
  { s0 with tbl := { s0.tbl with migs := [⟨0, 0, 7, 1, 4, 2, 5, v, copied, none, 0⟩], drains := [⟨0, 0, 1, 9, true⟩] } }

theorem witness_TableSweep_migration :
    ((nx (exec (.migrationCopyDone 0 0) (sMig (some (List.replicate 32 0)) false))).tbl.migs.map (·.copied)) = [true] ∧
    (nx (exec (.migrationCopyDone 0 0) (sMig none false))).tbl.migs = [] ∧
    (nx (exec (.migrationFlip 0 0) (sMig none true))).tbl.migs = [] ∧
    (nx (exec (.migrationFlip 0 0) (sMig none true))).tbl.drains.length = 2 ∧
    (nx (exec (.migrationSlotRelease 0 0) (sMig none true))).tbl.drains = [] := by decide +kernel

theorem witness_TableVersions :
    (let s := put [(TBL_TAB_STATUS.draining, [2], 1)] s0
     s.bankBusy 2 1 = false ∧ (nx (exec (.bankRetire 0 2) s)).reg TBL_TAB_STATUS.ver [2] = 1 ∧
       (nx (exec (.bankRetire 0 2) s)).reg TBL_TAB_STATUS.draining [2] = 0) ∧
    s0.reg TBL_TAB_STATUS.draining [2] < 2 ∧
    (let s := put [(TBL_TAB_CFG.en, [2, 1], 1)] s0
     let t := nx (exec (.rebuildStart p0 (0x80000002 : BitVec 32)) s)
     s.rebuildOk 2 = true ∧ t.reg TBL_STATUS.rb_busy [] = 1 ∧ t.tbl.rebs = [⟨2, 0, 0, true, true, 0⟩] ∧
       (nx (exec (.rebuildStart p0 (0x80000003 : BitVec 32)) s)).reg TBL_STATUS.rb_err [] = 1 ∧
       (nx (exec (.rebuildStop p0 (0x40000002 : BitVec 32)) t)).tbl.rebs = [⟨2, 0, 0, true, false, 0⟩] ∧
       (nx (exec (.rebuildRowCopy 0) t)).tbl.rebs = [⟨2, 0, 0, true, true, 0⟩] ∧ t.through 0 = false ∧
       (nx (exec (.rebuildRowCopy 0) { t with mesh := [] })).tbl.rebs.map (·.next) = [1]) ∧
    (let s : State := { s0 with tbl := { s0.tbl with rebs := [⟨2, 0, 2 ^ 24, true, true, 0⟩] } }
     (nx (exec (.rebuildDone 0) s)).reg TBL_STATUS.rb_done [] = 1 ∧ (nx (exec (.rebuildDone 0) s)).tbl.rebs = [⟨2, 0, 2 ^ 24, false, true, 0⟩]) ∧
    s0.agentLive (.ctx 1) = true ∧ (put [(SO_CTX_CFG.part, [1], 2)] s0).partOf (.ctx 1) = 2 ∧
    (sPf.cores[(0 : CoreId)].table.map fun i => (sPf.tableDone i, (sPf.srcOfSeq i.seq).isNone, sPf.keysBad i)) = [(true, true, false)] := by
  decide +kernel

/-! ### DMA engines, Prints, partitions and transactions -/

/-- Fabric channel 0 copies a byte of DRAM from 64 to 96; started; at its end; with a Print channel of core 0 at a step. -/
def sD0 : State := put [(DMA_SRC.value, [0], 64), (DMA_DST.value, [0], 96), (DMA_CNT.value, [0], 1)] sM
def sD : State := nx (exec (.fabricDmaStart p0 0 .whole 0x8000000000000000) sD0)
def sDr : State := nx (exec (.dmaBurst 0 none [⟨0, 1, []⟩] 0) sD)
def sD1 : State := nx (exec (.dmaBurst 0 none [] 1) sDr)

theorem witness_FabricChannels :
    sD0.agentLive p0 = true ∧ sD0.reg DMA_OWN.part [0] = (sD0.partOf p0).val ∧ sD0.chan none 0 = none ∧
    sD0.dRefused true 0 64 96 1 0 = false ∧ s0.dRefused true 0 0 0 0 0 = true ∧
    sD.reg DMA_STATUS.busy [0] = 1 ∧ (nx (exec (.fabricDmaStart p0 1 .whole 0x8000000000000000) s0)).reg DMA_STATUS.cfg_err [1] = 1 ∧
    (nx (exec (.fabricDmaStart (.ctx 1) 1 .whole 0x8000000000000000) (put [(SO_CTX_CFG.part, [1], 2)] s0))).reg DMA_STATUS.cfg_err [1] = 0 ∧
    (nx (exec (.dmaOwnWrite p0 3 2) s0)).reg DMA_OWN.part [3] = 2 ∧
    (nx (exec (.printRingWrite p0 1 .whole 0x8000000012345707) s0)).reg DMA_PRINT_RING.base [1] = 0x12345 ∧
    (nx (exec (.printRingTailWrite p0 1 .whole 9) s0)).reg DMA_PRINT_PTR.tail [1] = 9 := by decide +kernel

theorem witness_ChannelRuns :
    sD.chan none 0 = some ⟨0, 0, 0, 0, 0, 8192, 0, .reading, [], [], 0, 0, [], 0, none⟩ ∧ sD.dMode none 0 < 2 ∧
    sD.dreg none 0 CDMA_CTRL.swap DMA_CTRL.swap = 0 ∧ sD.dataBytes ≤ vaultBase ∧ bufOf sD 96 = some (.chan 0) ∧
    (∀ d, sD.chan none 0 = some d → sD.dDenial none 0 d true 96 = none ∧ sD.dDenial none 0 d false 64 = none) ∧
    sD.dMay none 0 = false ∧ sDr.dMay none 0 = true ∧ sDr.dGrant none = some 0 ∧
    (sDr.chan none 0).map (·.stage) = some [.data 96 [9] true] ∧ bufOf sDr 96 = some (.chan 0) ∧ sD1.byteAt 96 = 9 ∧
    (sD1.chan none 0).map (fun d => (d.row, d.pos, sD1.dLeft none 0 d, sD1.dWritten none 0 d)) = some (1, 0, 0, true) ∧
    (nx (exec (.dmaChannelComplete 0 none 0) sD1)).chan none 0 = none ∧
    (nx (exec (.dmaChannelComplete 0 none 0) sD1)).reg DMA_STATUS.busy [0] = 0 ∧ sD1.dBell 0 = none ∧
    (∀ d, sD.chan none 0 = some d → (sD.dHalt none 0 d ⟨3, 64, (0, 0)⟩).reg DMA_STATUS.cause [0] = 3) ∧
    swapByte 3 5 = 2 := by decide +kernel

/-- Channel 0 of core 0 holds the Print buffer with a payload of two bytes. -/
def sP (ph : PrintPhase) : State :=
  (put [(DMA_PRINT_RING.en, [0], 1)] sM).setCore 0 fun k => { k with printQ := [0], dma := k.dma.set 0 (some ⟨0, 0, 0, 0, 2, 8192, 0, ph, [1, 2], [], 0, 0, [], 0, none⟩) }

/-- A full ring of 16 slots. -/
def fullRing (s : State) : State := put [(DMA_PRINT_PTR.head, [0], 16)] s

theorem witness_PrintCommits :
    (sP (.ready true)).ringFree 0 = true ∧ (fullRing (sP (.ready true))).ringFree 0 = false ∧ s0.reg DMA_PRINT_SO.so_en [0] = 0 ∧
    (s0.commitPrint 0 0 0x100 7 false true false [1]).reg DMA_PRINT_PTR.head [0] = 1 ∧ s0.recorded 7 = none ∧
    (s0.commitPrint 0 0 0x100 7 false true false [1]).reg DMA_PRINT_SO.stale [0] = 1 ∧
    (s0.header 0 0 0x100 7 true true false [1, 2]).length = 64 ∧
    natOfBytes (((s0.header 0 0 0x100 7 true true false [1, 2]).drop 46).take 2) = 2 ^ 15 ∧
    (sP (.ready true)).slotDenied 0 0 ((sP (.ready true)).slotAddr 0) 66 = none := by decide +kernel

theorem witness_PrintCommits_steps :
    (nx (exec (.printCommit 0 0) (sP (.ready true)))).reg DMA_PRINT_PTR.head [0] = 1 ∧
    (nx (exec (.printCommit 0 0) (sP (.ready true)))).cores[(0 : CoreId)].printQ = [] ∧
    (nx (exec (.printCommit 0 0) (fullRing (sP (.ready true))))).reg DMA_PRINT_SO.full_wait [0] = 1 ∧
    (nx (exec (.printCommit 0 0) (fullRing (sP (.full true))))).reg DMA_PRINT_SO.full_wait [0] = 0 ∧
    ((nx (exec (.checkerCompareEnd 0 0) (sP .comparing))).chan (some 0) 0).map (·.phase) = some (.ready true) := by decide +kernel

theorem witness_PrintCommits_header :
    (let s : State := { s0 with heads := [(7, 0, false)] }
     (nx (exec (.frontEndHeaderPrint 0 0) s)).reg DMA_PRINT_PTR.head [0] = 1 ∧ (nx (exec (.frontEndHeaderPrint 0 0) s)).heads = [] ∧
       (nx (exec (.frontEndHeaderPrint 0 0) (fullRing s))).heads = [(7, 0, true)]) := by decide +kernel

theorem witness_PerformanceClears :
    P0Agent s0 p0 ∧ s0.corePowered 3 = true ∧
    (nx (exec (.arrPerfClr p0 3 0) (put [(ARR_PERF.count, [3, 4], 9), (ACC_STATUS.lost, [3], 2)] s0))).reg ARR_PERF.count [3, 4] = 0 ∧
    (nx (exec (.tblPerfClr p0 5) (put [(TBL_PERF.count, [8], 9)] s0))).reg TBL_PERF.count [8] = 0 := by
  refine ⟨⟨?_, ?_⟩, ?_, ?_, ?_⟩ <;> decide +kernel

theorem witness_PartitionsAndPcie_resets :
    (let s := put [(SO_ATTR.own_valid, [3], 1), (SO_ATTR.owner, [3], 2), (SO_ATTR.arm, [3], 1), (DMA_OWN.part, [5], 2)] s0
     let t := nx (exec (.partitionResetWrite p0 2 (0x80000000 : BitVec 32)) s)
     s.reg HOST_PART_CTRL.share [0] + s.reg HOST_PART_CTRL.share [1] + 0 + s.reg HOST_PART_CTRL.share [3] ≤ 64 ∧
       t.reg HOST_PART_CTRL.stopped [2] = 1 ∧ t.reg SO_ATTR.arm [3] = 0 ∧ t.reg DMA_OWN.part [5] = 2 ∧ (t.presets.map (·.1)) = [2] ∧
       (nx (exec (.partitionResetEnd 0 2) t)).reg HOST_PART_CTRL.stopped [2] = 0) ∧
    (nx (exec (.pcieResetEvent 0 (.flr 1)) s0)).presets.length = (if s0.fnPresent 1 = true then 1 else 0) ∧ s0.awake = true ∧
    (nx (exec (.pcieResetEvent 0 (.linkDown 1)) { s0 with links := Vector.replicate 2 true })).links[(1 : Fin 2)] = false := by
  decide +kernel

/-- Function 0, bound to P0, with its link up. -/
def sU : State := { put [(HOST_FN_BIND.part, [0], 0)] sM with links := Vector.replicate 2 true }

theorem witness_PartitionsAndPcie_requests :
    sU.agentLive (.fn 0) = true ∧ sU.partOf (.fn 0) = 0 ∧ sU.agentDenial (.fn 0) true 64 = none ∧
    (nx (exec (.pcieInboundRequest 0 (.bar2 64) 1 [] 0) sU)).out = [.data (.fn 0) 9] ∧
    (nx (exec (.pcieInboundRequest 0 (.bar2 64) 0 [5, 6] 0) sU)).readNat 64 2 = 0x0605 ∧
    (nx (exec (.pcieInboundRequest 0 (.bar2 0x200000) 1 [] 0) sU)).out = [.abort (.fn 0)] ∧
    (nx (exec (.pcieInboundRequest 0 (.control 0x8000) 0 [] 0) sU)).msix[(0 : Fin 8)].enabled = true ∧
    (let m : Msix := { Msix.fresh with enabled := true, pba := 8 }
     let s : State := { sU with msix := sU.msix.set 0 m }
     s.fnLink 0 = true ∧ (nx (exec (.msixUnmask 0 3) s)).out = [.msix 0 3]) ∧
    s0.agentLive (.fn 5) = false := by decide +kernel

theorem witness_MapsAndShares :
    s0.pageAllowed 1 (vaultBase / 2 ^ 21) = true ∧ s0.pageAllowed 1 (2 ^ 26) = false ∧
    (nx (exec (.hostMapWrite p0 1 7 .whole 0xC0000000_00000000) sM)).reg HOST_MAP.rd [1, 7] = 1 ∧
    (nx (exec (.hostMapWrite p0 1 7 .whole 0xC0008000_00000000) sM)).reg HOST_PART_STATUS.map_err [1] = 1 ∧
    (nx (exec (.partShareWrite p0 1 63) s0)).reg HOST_PART_CTRL.share [1] =
      (if s0.reg HOST_PART_CTRL.share [0] + 63 + s0.reg HOST_PART_CTRL.share [2] + s0.reg HOST_PART_CTRL.share [3] ≤ 64 then 63
       else s0.reg HOST_PART_CTRL.share [1]) ∧
    s0.locked = false ∧ (nx (exec (.sharePeriod 0) { s0 with clk := { s0.clk with tclk := 250000 } })).shareT = 250000 ∧
    s0.clk.tclk < s0.shareT + 250000 ∧ (nx (exec (.pcieLinkUp 0 0) s0)).links[(0 : Fin 2)] = true ∧ s0.boundFn 1 = some 0 := by
  decide +kernel

/-- Functions 1 and 2 are present; binding function 2 to the partition of function 1 is refused, to a free partition taken. -/
theorem witness_MapsAndShares_binding :
    (let s := put [(HOST_FN_BIND.part, [0], 0), (HOST_PCIE_CFG.fn_en, [], 3), (HOST_FN_BIND.part, [1], 1), (HOST_FN_BIND.part, [2], 2)] s0
     s.fnPresent 2 = true ∧ s.fnPresent 1 = true ∧ (nx (exec (.fnBindWrite p0 2 3) s)).reg HOST_FN_BIND.part [2] = 3 ∧
       (nx (exec (.fnBindWrite p0 2 1) s)).reg HOST_FN_BIND.part [2] = 2 ∧
       (nx (exec (.fnBindWrite p0 2 1) s)).reg HOST_PART_STATUS.bind_err [1] = 1) := by decide +kernel

/-! ### Transactions and management -/

/-- P0's transaction: open; with an entry; its commit being validated; validated. -/
def sB0 : State := nx (exec (.cfgBegin p0 0x80000000) s0)
def sB1 : State := nx (exec (.cfgStageWrite p0 0x70000C false 5) sB0)
def sB2 : State := nx (exec (.cfgCommit p0 0x40000000) sB1)

theorem witness_TransactionActions :
    s0.agentLive p0 = true ∧ s0.txns[(0 : Fin 4)].validating = false ∧ sB0.reg CFG_TXN_STATUS.status [0] = 2 ∧ sB0.txns[(0 : Fin 4)].opened = true ∧
    (nx (exec (.cfgBegin p0 0x80000000) sB0)).reg CFG_TXN_STATUS.status [0] = 6 ∧
    (nx (exec (.cfgCommit p0 0x40000000) s0)).reg CFG_TXN_STATUS.status [0] = 5 ∧ sB2.reg CFG_TXN_STATUS.status [0] = 1 ∧
    sB2.txns[(0 : Fin 4)].validating = true ∧ (nx (exec (.cfgRollback p0 0x20000000) sB0)).reg CFG_TXN_STATUS.status [0] = 4 ∧
    (nx (exec (.cfgBegin p0 0x80000000) sB2)).txns[(0 : Fin 4)].validating = true := by decide +kernel

theorem witness_TransactionStages :
    (s0.stageWrite 0 true 8 4 5).reg CFG_STATUS.rwt_discard [] = 1 ∧ sB1.txns[(0 : Fin 4)].entries = [⟨0x70000C, 4, 5⟩] ∧
    sB1.reg CFG_TXN.staged [0] = 1 ∧ (sB0.stageWrite 0 false 8 4 5).txns[(0 : Fin 4)].mark = some (8, 8) ∧
    (let s := sB0.setTxn 0 fun x => { x with entries := (List.range 256).map fun k => ⟨8 * k, 4, 0⟩ }
     (s.stageWrite 0 true 2048 4 5).txns[(0 : Fin 4)].mark = some (7, 2048) ∧ (s.stageWrite 0 true 8 4 5).txns[(0 : Fin 4)].mark = none) ∧
    (let s := sB2.setTxn 0 fun x => { x with mark := some (8, 24) }
     (nx (exec (.cfgValidateEnd 0 0) s)).reg CFG_TXN_STATUS.status [0] = 8 ∧ (nx (exec (.cfgValidateEnd 0 0) s)).reg CFG_TXN_STATUS.fail_off [0] = 24) ∧
    sB2.conflict 0 sB2.txns[(0 : Fin 4)].entries = none ∧ s0.minimal = false := by decide +kernel

theorem witness_TransactionStages_end : (nx (exec (.cfgValidateEnd 0 0) sB2)).seq = 1 ∧
    (nx (exec (.cfgValidateEnd 0 0) sB2)).txns[(0 : Fin 4)].validating = false := by decide +kernel

/-- A boundary commit while an exposure is open waits; the ninth is refused; a conflict with a commit that has passed. -/
def sB3 : State := { sE with txns := sE.txns.set 0 ⟨false, true, true, false, [⟨0x70000C, 4, 5⟩], none⟩ }

theorem witness_TransactionStages_boundary :
    (nx (exec (.cfgValidateEnd 0 0) sB3)).reg CFG_TXN_STATUS.status [0] = 3 ∧
    (nx (exec (.cfgValidateEnd 0 0) { sB3 with pendTx := List.replicate 8 ⟨1, 1, []⟩ })).reg CFG_TXN_STATUS.status [0] = 11 := by
  decide +kernel

/-- A control message of MCTP, and a message of the mailbox, as the queue holds them. -/
def ctl (k : Byte) (d : List Byte) : State := { s0 with msgs := [⟨.mctp 5 1, [0, 0x80, k] ++ d⟩] }
def olw (k : Byte) (d : List Byte) : State := { s0 with msgs := [⟨.mailbox, [k, 0, 0, 0] ++ bytesOf 2 d.length ++ d⟩] }

theorem witness_ControlMessages_ctrl :
    ((ctl 1 [0, 9]).msgs.map fun m => m.ctrl) = [some 1] ∧ s0.msgs = [] ∧ (nx (exec .setEndpointId (ctl 1 [0, 9]))).reg HOST_MCTP.eid = 9 ∧
    (nx (exec .getEndpointId (ctl 2 []))).out = [.response [1, 5, 0, 0xC1, 0, 0, 2, 0, 0, 0, 0]] ∧
    (nx (exec .getMessageTypeSupport (ctl 5 []))).msgs = [] ∧ (nx (exec .unsupportedControlCommand (ctl 7 []))).msgs = [] ∧
    ((ctl 4 [0xFF]).msgs.map fun m => m.ctrl) = [some 4] ∧ ((ctl 6 [0]).msgs.map fun m => m.ctrl) = [some 6] ∧
    (nx (exec .getEndpointUuid (ctl 3 []))).msgs = [] ∧ s0.boot.pubkey = [] ∧
    s0.bindingOn .smbus = false ∧ s0.bindingOn (.vdm 0) = true ∧
    (nx (exec (.mctpPacketReceive (.vdm 0) [1, 0, 5, 0xC9, 0, 0x80, 2]) s0)).msgs = [⟨.mctp 5 1, [0, 0x80, 2]⟩] := by decide +kernel

theorem witness_ControlMessages_olwirin :
    ((olw 1 []).msgs.map fun m => m.olw.isSome) = [true] ∧ (nx (exec .getStatus (olw 1 []))).mbox.resp.length = 30 ∧
    (nx (exec .getStatus (olw 1 [7]))).mbox.resp = [1, 0, 3, 0, 0, 0] ∧ (nx (exec .getLog (olw 3 [5]))).mbox.resp.length = 38 ∧
    (nx (exec .getLog (olw 3 [32]))).mbox.resp = [3, 0, 2, 0, 0, 0] ∧
    (nx (exec .getIdentity (olw 4 [0, 0, 0, 0, 1, 0]))).mbox.resp = [4, 0, 4, 0, 0, 0] ∧
    (let s := { olw 4 [1, 0, 0, 0, 1, 0] with boot := { s0.boot with pubkey := [7, 8, 9] } }
     (nx (exec .getIdentity s)).mbox.resp.length ≥ 7) ∧
    (nx (exec (.getAttest 0) (olw 2 (List.replicate 38 0)))).mbox.resp = [2, 0, 4, 0, 0, 0] ∧ s0.mayPush = false ∧
    (nx (exec (.pushImage 0 0) (olw 5 [0, 0, 0, 0, 1]))).mbox.resp = [5, 0, 4, 0, 0, 0] := by decide +kernel

/-! ### The safety monitor -/

/-- The monitor runs (state 2) and is judging exposure 7, which has closed, with stage 1 watched for 10 µs. -/
def sJ : State :=
  let cfg : Csr := csrSet (csrSet (csrSet (csrSet [] FE_EXP_ACTIVE.active [] 3) SAFE_WDG.en [1] 1) SAFE_WDG.max_us [1] 10) SAFE_WDG.per_core [1] 1
  let g : Judge := ⟨7, false, 0, some 0, Vector.replicate 16 0, Vector.replicate 16 none, Vector.replicate 16 false, [], cfg⟩
  { put [(SAFE_STATUS.state, [], 2)] s0 with mon := { s0.mon with judged := [g], marksSent := [(0, 0, 1, 7), (0, 0, 1, 8)] } }

/-- The same `n` TCLK edges after reset. -/
def later (s : State) (n : Nat) : State := { s with clk := { s.clk with tclk := n } }

theorem witness_DetectionsAndControl :
    s0.fullOn = true ∧ s0.reg SAFE_FAULT_EN.en / 2 ^ 1 % 2 = 1 ∧ (sJ.detect 0x41 3 none).reg SAFE_STATUS.cause = 0x41 ∧
    (put [(SAFE_FAULT_EN.en, [], 0)] sJ).reg SAFE_FAULT_EN.en / 2 ^ 1 % 2 = 0 ∧
    (let s := later (put [(SAFE_CTRL.kick_ms, [], 1)] sJ) 250000
     s.mon.kickT + 250000 * s.reg SAFE_CTRL.kick_ms ≤ s.clk.tclk ∧ (nx (exec (.keepaliveExpiry 0) s)).reg SAFE_STATUS.cause = 3) ∧
    (nx (exec (.lockstepMismatch 0) sJ)).reg SAFE_STATUS.cause = 0x50 ∧ (nx (exec (.clockMonitorWindow 0 true) sJ)).reg SAFE_STATUS.cause = 0x52 ∧
    SafetyAgent s0 p0 ∧ (put [(SO_CTX_CFG.part, [1], 2)] s0).partOf (.ctx 1) ≠ (put [(SO_CTX_CFG.part, [1], 2)] s0).safetyOwner ∧
    (nx (exec (.safeForce p0 0x4000) sJ)).reg SAFE_STATUS.cause = 2 ∧
    (nx (exec (.safeKick p0 0x2005) (later sJ 9))).mon.kickT = 9 := by
  refine ⟨?_, ?_, ?_, ?_, ?_, ?_, ?_, ⟨?_, ?_⟩, ?_, ?_, ?_⟩ <;> decide +kernel

theorem witness_DetectionsAndControl_restart :
    (let s := later (put [(FE_EXP_CTRL.enable, [], 1), (SAFE_PF_CFG.en, [], 1)] s0) 5
     s.reg SAFE_STATUS.state = 0 ∧ s.mon.coldCause = false ∧ s.mon.detectT = none ∧ s.reg SAFE_CTRL.kick_ms = 0 ∧
       (nx (exec (.safeRestart p0 0xA55A8000) s)).reg SAFE_STATUS.state = 1 ∧
       (nx (exec (.safeRestart p0 0xA55A8000) s0)).reg SAFE_STATUS.restart_err = 1 ∧
       (nx (exec (.safeRestart p0 0x00008000) s)).reg SAFE_STATUS.key_err = 1) := by decide +kernel

theorem witness_StagesAndProof :
    ((nx (exec (.stageMarkArrive 0 0) sJ)).mon.judged.map fun g => g.marks[(1 : Fin 16)]) = [1] ∧
    (nx (exec (.stageMarkArrive 0 0) { sJ with mon := { sJ.mon with judged := [] } })).reg SAFE_COUNT.stray_marks [] = 1 ∧
    ((later sJ 2500).judge 7).map (fun g => (g.stageRef 1, g.wdg 1 SAFE_WDG.max_us)) = some (some 0, 10) ∧
    (nx (exec (.stageLate 0 7 1) (later sJ 2500))).reg SAFE_STATUS.cause = 0x11 ∧ (nx (exec (.stageLate 0 7 1) (later sJ 2499))).reg SAFE_STATUS.state = 2 ∧
    (let s : State := { sJ with mon := { sJ.mon with comparing := [(7, some 0, false)] } }
     s.haze = [] ∧ csrGet (s.proofCfg 7) SAFE_PF_CFG.cmp_max_us [] = 100 ∧
       (nx (exec (.proofCompareTimeout 0) (later s 25000))).reg SAFE_STATUS.cause = 0x22 ∧
       (nx (exec (.proofCompareEnd 0) s)).reg SAFE_PF_RESULT.hdr_err = 1) ∧
    proofPasses (2 ^ 63) 5 = true := by decide +kernel

/-- Exposure 0 has closed, and its protective Print is missing. -/
def sX : State := later { sE3 with exps := sE3.exps.map fun e => { e with cfg := csrSet (csrSet e.cfg SAFE_CHK.en [] 1) SAFE_CHK.prot_max_us [] 5 } } 1251

theorem witness_StagesAndProof_missing :
    (sX.expRec 0).map (fun e => (e.closeNs.isSome, e.checked, e.compared, e.missed)) = some (true, true, false, false) ∧
    ((nx (exec (.protPrintMissing 0 0) sX)).expRec 0).map (·.missed) = some true := by decide +kernel

theorem witness_StatusFrame :
    (nx (exec (.frameUpdateTimer 0) s0)).mon.frameSeq = 1 ∧ (nx (exec (.frameUpdateTimer 0) s0)).reg SAFE_FRAME.frame % 256 = 1 ∧
    (nx (exec (.safeCsFall 0) s0)).reg SAFE_COUNT.frames = 1 ∧ (nx (exec (.safebToggle 0) (later sJ 125000))).mon.safeb = true ∧
    (nx (exec (.safebToggle 0) (later sJ 124999))).mon.safeb = false ∧ ({ s0 with asleep := true } : State).fullOn = false := by decide +kernel

theorem witness_SelfTests :
    (nx (exec (.selfTestRequest p0 0x80000005) s0)).reg SAFE_STEST_STATUS.out = 32 ∧
    (nx (exec (.selfTestRequest p0 0x80000005) sE)).reg SAFE_STEST_STATUS.pending = 32 ∧
    (let s := put [(SAFE_STEST_RESULT.held, [], 32)] s0
     (nx (exec (.selfTestRelease p0 0x40000005) s)).mon.release = 32) ∧
    (let s := put [(SAFE_STEST_STATUS.out, [], 32)] s0
     (nx (exec (.selfTestStart 0 5) s)).mon.testing = 32) := by decide +kernel

theorem witness_SelfTests_end :
    (let s := later { sJ with mon := { sJ.mon with testing := 32 }, mem := [(spmBase + 5 * 0x400000, 1), (spmBase + 6 * 0x400000, 1)] } 3000000
     (nx (exec (.selfTestEnd 0 5 true) s)).reg SAFE_STEST_RESULT.held = 32 ∧ (nx (exec (.selfTestEnd 0 5 true) s)).mem = [(spmBase + 6 * 0x400000, 1)] ∧
       (nx (exec (.selfTestEnd 0 5 false) s)).reg SAFE_STATUS.cause = 0x43) := by decide +kernel

/-! ### Reset, start-up, power, registers -/

theorem witness_Resets :
    (nx (exec .powerOnReset (put [(BOOT_RETAIN.data, [3], 9)] s0))).reg BOOT_RETAIN.data [3] = 0 ∧
    (nx (exec (.rstNFall 0) (put [(BOOT_RETAIN.data, [3], 9), (PWR_LIMIT.limit, [], 50)] s0))).reg BOOT_RETAIN.data [3] = 9 ∧
    (nx (exec (.rstNFall 0) (put [(BOOT_RETAIN.data, [3], 9), (PWR_LIMIT.limit, [], 50)] s0))).reg PWR_LIMIT.limit = 140 ∧
    s0.boot.phase ≠ .held ∧ (nx (exec (.rstNRise 2) (nx (exec .powerOnReset s0)))).boot.sel = 2 ∧
    (let s := later { s0 with boot := { s0.boot with armed := true } } 2500000000
     (nx (exec (.startWatchdogExpiry 0) s)).reg BOOT_STATUS.reset_cause = 2) ∧
    (nx (exec (.softwareReset p0 .whole 0xC33C00000001) s0)).reg BOOT_STATUS.reset_cause = 3 ∧
    (nx (exec (.softwareReset p0 .whole 1) s0)).reg BOOT_CTRL.next_slot = 1 := by decide +kernel

/-- The hypotheses of StartUp's clauses: a start with BOOTSEL 0, 1 and 2, and one after two starts without done. -/
theorem witness_StartUp :
    s0.boot.phase = .rom ∧ s0.asleep = false ∧ s0.boot.resumed = false ∧ s0.reg BOOT_STATUS.start_count + 1 < 3 ∧ s0.reg BOOT_CTRL.next_slot < 2 ∧
    ¬ (put [(BOOT_STATUS.start_count, [], 2)] s0).reg BOOT_STATUS.start_count + 1 < 3 ∧
    P0Agent s0 p0 ∧
    (let s := put [(SEC_LOCK.locked, [], 1), (BOOT_STATUS.start_count, [], 2)] s0
     (nx (exec (.bootDone p0 .whole 0x8000000000000001) s)).reg BOOT_STATUS.start_count = 0 ∧
       (nx (exec (.bootDone p0 .whole 0x8000000000000001) s)).reg BOOT_CTRL.next_slot = 1) := by
  refine ⟨?_, ?_, ?_, ?_, ?_, ?_, ⟨?_, ?_⟩, ?_⟩ <;> decide +kernel

theorem witness_LockAndOtp :
    (nx (exec (.bootLock p0 0) s0)).reg SEC_LOCK.locked = 1 ∧ (nx (exec (.rollbackAdvance p0 .whole 0x300) s0)).reg SEC_LOCK.otp_err = 1 ∧
    (nx (exec (.rollbackAdvance p0 .whole 0x300) (put [(BOOT_STATUS.svn, [], 3)] s0))).otp.count = 3 ∧
    (let s : State := { s0 with otp := { s0.otp with keys := 3 } }
     (nx (exec (.keyRevoke p0 0 0x40000000) s)).otp.revoked = 1 ∧ (nx (exec (.keyRevoke p0 0 0x40000000) s0)).reg SEC_LOCK.otp_err = 1) ∧
    (nx (exec (.measureExtend p0 .whole 0x500) (put [(SEC_LOCK.locked, [], 1)] s0))).reg SEC_LOCK.otp_err = 1 ∧ s0.boot.meas[(0 : Nat)]? = none := by
  decide +kernel

/-- No core takes part in exposures; core 5 is gated, and is asked back. -/
def sQ : State := put [(FE_EXP_CORE_MASK.core_en, [], 0)] s0
def sQ1 : State := nx (execCoreGateWrite p0 .whole 0x20 sQ)
def sQ2 : State := nx (execCoreGateWrite p0 .whole 0 sQ1)
theorem witness_GatesAndSleep :
    sQ1.reg PWR_CORE_GATE.gate = 0x20 ∧ sQ1.corePowered 5 = false ∧ (nx (exec (.coreGateWrite p0 .whole 0x20) s0)).reg PWR_STATUS.gate_err = 1 ∧
    sQ2.corePowered 5 = false ∧ (nx (exec (.coreReady 0 5) sQ2)).corePowered 5 = true ∧
    s0.pwr.entryT = none ∧ (nx (exec (.sleepRequest p0 .whole 0x8000000000000001) s0)).pwr.entryT = some 0 ∧
    (nx (exec (.sleepRequest p0 .whole 0x8000000000000001) sE)).reg PWR_SLEEP.sleep_err = 1 := by decide +kernel

/-- Asleep; woken by event 0. -/
def sA : State := nx (execSleepEntryComplete 0 (nx (execSleepRequest p0 .whole 0x8000000000000001 s0)))
theorem witness_GatesAndSleep_wake :
    sA.asleep = true ∧ sA.reg SAFE_STATUS.cause = 1 ∧ (nx (exec (.wakeEvent 0 0) sA)).pwr.wake = some 0 ∧
    (nx (exec (.wakeEvent 0 1) sA)).pwr.wake = none ∧
    (nx (exec (.wakeComplete 0) (later (nx (exec (.wakeEvent 0 0) sA)) 500000))).asleep = false := by decide +kernel

theorem witness_PowerAndDroop :
    s0.awake = true ∧ (nx (exec (.governorEvaluate 0 36000) (put [(PWR_STATUS.cap, [], 8)] s0))).reg PWR_STATUS.cap = 7 ∧
    (nx (exec (.governorEvaluate 0 33000) (put [(PWR_STATUS.cap, [], 7)] s0))).reg PWR_STATUS.cap = 8 ∧
    (nx (exec (.tjSample 0 1000) s0)).pwr.hot = true ∧ (nx (exec (.tjSample 0 880) sJ)).reg PWR_STATUS.cclk_step = 2 ∧
    (nx (exec (.tjSample 0 700) (nx (exec (.tjSample 0 1000) s0)))).pwr.hot = false ∧
    (let s := nx (exec (.rstNFall 0) (nx (exec (.tjSample 0 1000) s0)))
     s.pwr.hot = true ∧ (nx (exec (.tjSample 0 700) s)).boot.phase = .held ∧ (nx (exec (.rstNRise 1) s)).reg BOOT_STATUS.reset_cause = 4) ∧
    (let s := nx (exec (.droopTrip 0 4) sJ)
     s.cores[(4 : CoreId)].stretch = true ∧ s.reg PWR_DROOP.last_core = 4 ∧
       (nx (exec (.droopStep 0) (later s 2500))).reg PWR_STATUS.cclk_step = 1 ∧
       (nx (exec (.droopStep 0) (later (put [(PWR_STATUS.cclk_step, [], 1)] s) 2500))).reg SAFE_STATUS.cause = 0x41 ∧
       (nx (exec (.droopRelease 0 4) s)).cores[(4 : CoreId)].stretch = false) ∧
    (nx (exec (.droopRecover 0) (later (put [(PWR_STATUS.cclk_step, [], 1)] s0) 25000))).reg PWR_STATUS.cclk_step = 0 := by decide +kernel

theorem witness_RegisterAccess :
    (nx (exec (.registerWrite p0 0x300020 4 7) s0)).reg BOOT_RETAIN.data [0] = 7 ∧ (nx (exec (.registerRead p0 0x300022 4) s0)).out = [.abort p0] ∧
    locateReg regRows 0x3FFFFF8 = none ∧ (nx (exec (.registerRead p0 0x3FFFFF8 4) s0)).out = [.data p0 0] ∧
    (nx (exec (.registerWrite p0 0x200008 4 0x100) (put [(PWR_STATUS.gate_err, [], 1)] s0))).reg PWR_STATUS.gate_err = 0 ∧
    (nx (exec (.registerWrite p0 0x400018 4 5) s0)).reg SAFE_FAULT_EN.en = 5 ∧
    (nx (exec (.registerWrite p0 0x400018 4 5) (put [(SEC_LOCK.locked, [], 1)] s0))).reg SAFE_FAULT_EN.en = 15 ∧
    (nx (exec (.registerWrite p0 0x20003C 4 1) (nx (exec (.registerWrite p0 0x200038 4 0x40000005) s0)))).reg PWR_ALARM.sec = 5 := by decide +kernel

theorem witness_ResetState : Memory.wf s0.mem = true ∧ s0.reg SAFE_STATUS.cause = 1 := by decide +kernel

/-- Table 12-1: an add, op 0x10, with d 4, a 1, b 2 in their places. -/
theorem witness_WordEncoding : wordOf 0x10 false 0 4 1 2 0 0 = 0x824010#64 ∧ legalWord 0x824010 0 = true ∧
    legalWord (wordOf 0x10 false 0 4 1 2 0 14) 0 = false := by decide +kernel

/-- Memory with an entry that equals what an unwritten byte holds is not in the canonical form, nor is one out of order; a step keeps the form. -/
theorem witness_MemoryCanonical : Memory.wf [(5, 1), (9, 2)] = true ∧ Memory.wf [(5, 0)] = false ∧ Memory.wf [(9, 1), (5, 2)] = false ∧
    Memory.wf (nx (step { sM with pending := [.dramWrite (.ctx 0) 64 [0, 3] 0] })).mem = true ∧
    (nx (step { sM with pending := [.memZeroDone 0], zeroing := some (0, 1) })).mem = [] := by decide +kernel

/-- R42, with the worked example of chapter 2: of 60 slices over 32 cores, ranks 0, 8, 16 and 24 (cores 0, 15, 16 and 31) receive one
slice, the others two; R20: consecutive ranks are neighbours. -/
theorem test_stretch : (List.finRange 32).filter (fun n => decide ((stretchOf 32 60 ((coreRank (BitVec.allOnes 32) n).getD 0)).2 = 1)) = [0, 15, 16, 31] ∧
    (serpentine.zip serpentine.tail).all (fun p => meshNeighbours p.1 p.2) = true ∧ coreRank 5 (2 : CoreId) = some 1 ∧
    coreRank 5 (1 : CoreId) = none ∧ meshNeighbours 7 8 = false := by decide +kernel

/-! ### Values where the clauses of a statement meet -/

/-- Two results of one register: that of 16 cycles stands over one of 1 cycle issued after it; of two that land together the later issued stands; before
its latency is over a result does not stand (R319, R320). -/
theorem witness_ScalarAndControl_late :
    (let x (a b : Nat) : Ctx := { s0.ctxs[(0 : CtxId)] with late := [⟨a, .s 4 1⟩, ⟨b, .s 4 2⟩] }
     ((x 16 1).pass 16).getS 4 = 1 ∧ ((x 16 1).pass 15).getS 4 = 2 ∧ ((x 2 2).pass 2).getS 4 = 2 ∧ ((x 2 3).pass 3).getS 4 = 2) ∧
    (let y : Ctx := { s0.ctxs[(0 : CtxId)] with late := [⟨3, .s 4 7⟩] }
     (y.pass 2).getS 4 = 0 ∧ (y.pass 3).getS 4 = 7 ∧ (y.pass 3).getS 5 = 0) ∧
    sR.clashes 0 (Effect.s 4 0).namedBy = false := by decide +kernel

/-- After a dun with d = 4 an instruction that writes s4 clashes with it, one that writes s0 does not (R345). -/
theorem witness_Results_clash :
    ((nx (exec (.dun 0 (wl 0x88 4 5 0 5 0) 0) sT)).clashes 0 (Effect.s 4 0).namedBy = true) ∧
    ((nx (exec (.dun 0 (wl 0x88 4 5 0 5 0) 0) sT)).clashes 0 (Effect.s 0 0).namedBy = false) ∧
    ((nx (exec (.li 0 (wordOf 0x12 true 0 4 0 0 0 0) 77) (nx (exec (.dun 0 (wl 0x88 4 5 0 5 0) 0) sT)))).cores[(0 : CoreId)].array.map
      (·.spoilt)) = [true] := by decide +kernel

/-- An exception of a context that is disabled, that runs, and that is already faulted; the first record stands (R308). -/
theorem witness_StopsAndTraps_raise :
    (sC 0).ctxState 1 = 0 ∧ (sC 1).ctxState 1 = 1 ∧ sR.ctxState 0 = 3 ∧ (sC 5).ctxState 1 = 5 ∧
    (let t := sR.recordExc 0 4 9 8 16
     t.reg SO_CTX_EXC.code [0] = 4 ∧ (t.recordExc 0 9 1 0 0).reg SO_CTX_EXC.code [0] = 4 ∧ (t.recordExc 0 9 1 0 0).reg SO_CTX_EXC.more [0] = 1) ∧
    ((nx (exec (.fence 0 (wd 0x04 0 0 0 0 0)) sG)).busyCtx 0 = true) ∧
    ((nx (exec (.fence 0 (wd 0x04 0 0 0 0 0)) sG)).endCtx 0 .halting).ctxState 0 = 3 ∧
    (sS.setCtx 0 fun x => { x with prio := 1 }).runningOn 0 = some 0 ∧
    ((sS.setCtx 0 fun x => { x with prio := 1 }).rotate 0 0).runningOn 0 = some 1 ∧ (sR.rotate 0 0).runningOn 0 = some 0 := by decide +kernel

/-- Upper-half writes of the step register, and upper-half reads of the time. -/
theorem witness_ClockSteps_upper :
    (let s := { s0 with clk := { s0.clk with heldStep := some 3, sec := 5 * 2 ^ 32 + 6 } }
     (nx (exec (.ptpStepDiscard p0 .upper 0) s)).clk.heldStep = none ∧ (nx (exec (.ptpStepConfirm p0 .upper 0) s)).clk.step = some 3 ∧
       (let t := nx (exec (.ptpTimeNsRead p0 .whole) s)
        (nx (exec (.ptpTimeSecRead p0 .upper) t)).out.head? = some (.data p0 5) ∧
          (nx (exec (.ptpTimeSecRead p0 .whole) { t with clk := s0.clk })).out.head? = some (.data p0 (5 * 2 ^ 32 + 6)))) := by decide +kernel

/-- A port with link; its receive and transmit rings hold a descriptor owned by hardware, at DRAM addresses 4,096 and 8,192. -/
def sN : State :=
  let s := put [(ETH_STATUS.link_up, [0], 1), (ETH_RXQ_BASE.base, [0], 128), (ETH_TXQ_BASE.base, [0], 256), (ETH_RXQ_PTR.tail, [0], 1),
    (ETH_TXQ_PTR.tail, [0], 1)] sM
  { s with ethIn := csrSet [] ETH_CTRL.mode [0] 1, valid := [0, 1]
           mem := [(64, 9), (4097, 0x10), (4103, 8), (4104, 0x80), (8192, 64), (8198, 1), (8200, 0x80)] }

/-- A frame of 64 bytes of type 0x88F7, message type 8, with its FCS. -/
def ptpFrame : List Byte :=
  let b : List Byte := List.replicate 12 0 ++ [0x88, 0xF7, 8] ++ List.replicate 45 0
  b ++ bytesOf 4 (crc32 b).toNat

theorem witness_FrameQueues_rings :
    (sN.advance 0).fullOn = true ∧ (sN.advance 0).linkUp 0 = true ∧ badLength ptpFrame = false ∧ goodFcs ptpFrame = true ∧
    isPause ptpFrame = false ∧ (sN.advance 0).steer 0 ptpFrame = .queue 1 ∧ (sN.advance 0).ringEmpty rxRing 0 = false ∧
    ((sN.advance 0).qdesc ((sN.advance 0).headAddr rxRing 0)).owned = true ∧ (sN.advance 0).reg ETH_RXQ_PTR.so_en [0] = 0 ∧
    (nx (exec (.frameReceive 0 0 0 ptpFrame) sN)).reg ETH_RXQ_PTR.head [0] = 1 ∧
    (let s := put [(ETH_RXQ_PTR.tail, [0], 0)] sN
     (nx (exec (.frameReceive 0 0 0 ptpFrame) s)).reg ETH_STATUS.rx_nobuf [0] = 1) := by decide +kernel

theorem witness_FrameQueues_send :
    (sN.advance 0).ringEmpty txRing 0 = false ∧ ((sN.advance 0).qdesc ((sN.advance 0).headAddr txRing 0)).owned = true ∧
    ((sN.advance 0).qdesc ((sN.advance 0).headAddr txRing 0)).timed = false ∧ (sN.advance 0).poisonedIn 64 1 = false ∧
    (nx (exec (.txFrameSend 0 0 0) sN)).out = [.frame 0 ([9] ++ bytesOf 4 (crc32 [9]).toNat)] ∧
    (nx (exec (.txFrameSend 0 0 0) sN)).reg ETH_TXQ_PTR.head [0] = 1 := by decide +kernel

theorem settled_sN : (sN.advance 0).hwSettle 4096 32 = sN.advance 0 ∧ (sN.advance 0).hwSettle 8192 32 = sN.advance 0 := by
  have h : (sN.advance 0).flips = [] ∧ (sN.advance 0).poison = [] ∧ (sN.advance 0).diagRd = false := by decide +kernel
  have r : (sN.advance 0).hwReach 4096 = true ∧ (sN.advance 0).hwReach 8192 = true := by decide +kernel
  constructor
  · rw [State.hwSettle, if_pos r.1, State.settleRange, if_pos h]
  · rw [State.hwSettle, if_pos r.2, State.settleRange, if_pos h]

/-- The descriptor of an overrun exposure has a home, the next free buffer; that of another its own (R40). -/
theorem witness_DeadlineDecodeSeal_home :
    (sE4.exps.map fun e => (sE4.descHome e).isSome) = [true, true] ∧ (sE4.exps.map fun e => sE4.descHome { e with overrun := true }).length = 2 ∧
    (nx (exec (.exposureDescriptorWrite 0) sE4)).reg FE_PBUF_STATUS.closed_number = 0 := by decide +kernel

/-- A grid operation waits for a sort issued before it, and a sort for a grid operation (R128). -/
theorem witness_ClassSteps_behind :
    (let s := nx (exec (.gridClear 0 (wl 0x90 0 6 0 0 0) 0) (aft iSort))
     (s.cores[(0 : CoreId)].grid.map fun i => s.cores[(0 : CoreId)].sort.map fun x => decide (x.seq ≤ i.seq)) = [[true]] ∧
       ((nx (exec (.computeStart 0 0 .grid) s)).headOf 0 .grid).map (·.started) = none) ∧
    ((run1 iSwap .array).promote 0).cores[(0 : CoreId)].array.length = 1 := by decide +kernel

/-- The Developer has prepared the image of the strip's pass; without it the pass prepares its own. -/
theorem witness_ArrayEvents_pass :
    (let p := (sStrip.advance 0).promote 0
     (p.headOf 0 .array).map (fun h => (p.arrayHeld h, p.accMissing h, p.hasPasses 0 h, (p.readyFor 0 h h.done).isSome, h.done)) =
       some (false, false, true, true, 0)) ∧
    Quiet ((sStrip.advance 0).promote 0) ∧
    ((nx (exec (.weightSwap 0 0) sStrip)).cores[(0 : CoreId)].array.map (·.done)) = [1] ∧
    (let s := sStrip.setCore 0 fun k => { k with prep := [] }
     ((s.headOf 0 .array).map fun h => (s.readyFor 0 h h.done).isSome) = some false ∧
       (nx (exec (.weightSwap 0 0) s)).cores[(0 : CoreId)].active = 5) := by
  refine ⟨?_, ⟨?_, ?_, ?_, ?_, ?_⟩, ?_, ?_⟩ <;> decide +kernel

/-- The limits of a wait of a merge: an arrival just before the limit is in time, one at it is not (R220). -/
theorem witness_SelectionData_limit :
    (let s (t now : Nat) : State :=
       let u := sMg.setCore 0 fun k => { k with climb := k.climb.map fun q => { q with times := [t] } }
       { u with clk := { u.clk with tclk := now } }
     climbOf (nx (exec (.mergeLevel 0 0) (s 24999 25000))) 0 = some (2, 1, false) ∧
       climbOf (nx (exec (.mergeLevel 0 0) (s 25000 25000))) 0 = some (2, 0, false) ∧
       climbOf (nx (exec (.mergeTimeout 0 0) (s 24999 25000))) 0 = some (1, 0, false)) := by decide +kernel

/-- An earlier operation of the core on an object's slice goes first; so does one of another core that came a cycle earlier, or in the same cycle from
a lower router (R25, R27). -/
theorem witness_GlobalCompletion_order :
    (let f (seq : Nat) (n : CoreId) (t : Nat) : Flight := ⟨seq, 0, n, 0, .so .add 3 5, t⟩
     let s (g : Flight) : State := { sG with flights := [g, f 9 4 7], stamp := 10 }
     (s (f 8 4 7)).behind (f 9 4 7) = true ∧ (s (f 8 5 6)).behind (f 9 4 7) = true ∧ (s (f 8 3 7)).behind (f 9 4 7) = true ∧
       (s (f 8 5 7)).behind (f 9 4 7) = false ∧ (s (f 8 4 7)).releaseHeld (f 8 4 7) = false ∧ (s (f 8 4 7)).places (f 9 4 7) = [303]) ∧
    (let s := sF (.fence 0)
     s.fenceHeld 0 0 = false ∧ ({ s with flights := [⟨0, 0, 0, 0, .load 0 8 false 4 0, 0⟩] } : State).fenceHeld 0 1 = true) := by decide +kernel

/-- R23, R24: along x first, then along y; of two packets that wait at an output the higher class goes, but one of C2 that has waited 256 FCLK before it. -/
theorem witness_GlobalCompletion_mesh :
    meshRoute 1 18 = [1, 2, 10, 18] ∧ meshHops 1 18 = 3 ∧
    (let p (k : Nat) (c : Traffic) (t : Nat) : Packet := ⟨k, c, 0, 5, .home, 0, .home, t⟩
     (meshPick 300 0 [p 1 .c2 45, p 2 .c1 0]).map (·.id) = some 2 ∧ (meshPick 300 0 [p 1 .c2 44, p 2 .c1 0]).map (·.id) = some 1 ∧
       (({ s0 with mesh := [p 1 .c0 3] } : State).meshCycle 3).mesh.map (fun q => (q.loc, q.port, q.due)) = [(1, .west, 6)]) := by decide +kernel

/-- R385: a codeword of which one symbol, or two erased ones, have changed. -/
theorem witness_MemoryMaintenance_code :
    (let d := List.range 128
     let c := d ++ [(parityPair d).1, (parityPair d).2]
     atOne c = 0 ∧ atAlpha c = 0 ∧ mendColumn (mendAt c 5 77) [] = some c ∧ mendColumn (mendAt (mendAt c 0 1) 129 255) [0, 129] = some c) := by
  decide +kernel

/-- A page of class Word and one of class Full, whose parity copy B has a CRC that fails; a word of a core's accumulator. -/
theorem witness_MemoryMaintenance_scrub_full :
    Quiet (sM.advance 0) ∧ (put [(MEM_CLASS.full, [], 0)] sM).pageFull 2 = false ∧
    (let s := { sM with parity := [(sM.pageSlot 0, ⟨0, 0, true, false⟩)] }
     (s.advance 0).pageFull 2 = true ∧ (s.advance 0).reg ECC_CTRL.scrub_dram_h ≠ 0 ∧ (s.advance 0).wordLive 2 = true ∧
       (s.advance 0).dramHeld 64 = false ∧ ((s.advance 0).slot ((s.advance 0).pageSlot 0)).crcB = false ∧
       (let t := nx (exec (.scrubVisit 0 (.device 64) ⟨0, false⟩ false) s)
        (t.slot (t.pageSlot 0)).crcB = true)) ∧
    (s0.advance 0).sramIsBad (.acc 3 7) = false ∧ (s0.advance 0).reg ECC_CTRL.scrub_sram_min ≠ 0 ∧
    (nx (exec (.scrubVisit 0 (.sram (.acc 3 7)) ⟨0, false⟩ false) s0)).sram = [] := by
  refine ⟨⟨?_, ?_, ?_, ?_, ?_⟩, ?_, ?_, ?_, ?_, ?_⟩ <;> decide +kernel

/-- Where nothing is wrong in memory, with empty buffers and nothing dirty in the L2. -/
theorem witness_ScratchpadCommands_quiet : Quiet s0 ∧ L2Ok s0 ∧ BufOk s0 (.spm 0) ∧ s0.dataBytes ≤ vaultBase := by
  refine ⟨⟨rfl, rfl, rfl, rfl, rfl⟩, ⟨nofun, .nil⟩, ⟨nofun, .nil⟩, ?_⟩
  decide +kernel

/-- R15: the lower half of FE_PBUF_BASE alone leaves the field, the upper half brings it in. -/
theorem witness_TransactionStages_halves :
    csrGet (applyEntries [] [⟨0x700040, 4, 0x200000⟩]) FE_PBUF_BASE.base [0] = 0 ∧
    csrGet (applyEntries [] [⟨0x700040, 4, 0x200000⟩, ⟨0x700044, 4, 0⟩]) FE_PBUF_BASE.base [0] = 1 ∧
    sB0.txns[(0 : Fin 4)].mark = none ∧ sB0.txns[(0 : Fin 4)].entries = [] := by decide +kernel

/-- A protective Print of exposure 0 waits for the comparison until the exposure's descriptor is written (R118, R439). -/
theorem witness_PrintCommits_recorded :
    (let s (d : Bool) : State := put [(FE_EXP_NUMBER.open_number, [], 1), (SAFE_STATUS.state, [], 2), (CDMA_CNT.value, [0, 0], 0x20000)]
       { sP .comparing with exps := sX.exps.map fun e => { e with described := d } }
     (s false).printAnswer 0 = none ∧ ((s false).recorded 0).isSome = true ∧
       (((nx (exec (.checkerCompareEnd 0 0) (s false))).chan (some 0) 0).map (·.phase)) = some .comparing ∧
       (((nx (exec (.checkerCompareEnd 0 0) (s true))).chan (some 0) 0).map (·.phase)) ≠ some .comparing) := by decide +kernel

end Sys2Proof.Tests
end

/-! PROOFS. The clock's time, its capture inputs and its pulse outputs (R70, R83, R84, R86), and a write of the upper half of PTP_STEP_CTRL
(R73). -/
namespace Sys2Proof.Machine
open Reg

/-! ### Latches -/

@[simp] theorem heldAt_cons_same (a : Agent) (off v : Nat) (l : List (Agent × Nat × Nat)) :
    heldAt a off ((a, off, v) :: l) = some v := by
  simp [heldAt]

theorem heldAt_cons_ne {off off' : Nat} (h : off' ≠ off) (a : Agent) (v : Nat) (l : List (Agent × Nat × Nat)) :
    heldAt a off ((a, off', v) :: l) = heldAt a off l := by
  simp [heldAt, h]

@[simp] theorem heldAt_dropHeld_same (a : Agent) (off : Nat) (l : List (Agent × Nat × Nat)) :
    heldAt a off (dropHeld a off l) = none := by
  simp only [heldAt, dropHeld, Option.map_eq_none_iff, List.find?_eq_none]
  intro e he hp
  simp_all

theorem heldAt_dropHeld_ne {off off' : Nat} (h : off' ≠ off) (a : Agent) (l : List (Agent × Nat × Nat)) :
    heldAt a off (dropHeld a off' l) = heldAt a off l := by
  simp only [heldAt, dropHeld, List.find?_filter]
  congr 2
  funext e
  grind

/-- Once an agent's latches of both halves are dropped it holds neither. -/
theorem heldAt_dropHeld_halves (a : Agent) (p : Nat) (l : List (Agent × Nat × Nat)) :
    heldAt a p (dropHeld a (p + 4) (dropHeld a p l)) = none ∧ heldAt a (p + 4) (dropHeld a (p + 4) (dropHeld a p l)) = none :=
  ⟨(heldAt_dropHeld_ne (by simp) ..).trans (heldAt_dropHeld_same ..), heldAt_dropHeld_same ..⟩

@[simp] theorem State.heldAt_latch_same (s : State) (a : Agent) (off v : Nat) : heldAt a off (s.latch a off v).latches = some v :=
  heldAt_cons_same ..

theorem State.heldAt_latch_ne {off off' : Nat} (h : off' ≠ off) (s : State) (a : Agent) (v : Nat) :
    heldAt a off (s.latch a off' v).latches = heldAt a off s.latches :=
  (heldAt_cons_ne h ..).trans (heldAt_dropHeld_ne h ..)

/-! ### PTP_TIME (R70) -/

/-- A read by an agent whose accesses are made answers it. -/
theorem State.liveRead_of_live {s : State} {a : Agent} (h : s.agentLive a = true) (f : State → Nat × State) :
    s.liveRead a f = (f s).2.emit (.data a (f s).1) := by
  simp [State.liveRead, h, answer]

/-- The seconds are latched for an agent at PTP_TIME_SEC, in two halves. -/
def State.latchSec (s : State) (a : Agent) : State :=
  (s.latch a (regAddr .PTP_TIME_SEC) (s.clk.sec % 2 ^ 32)).latch a (regAddr .PTP_TIME_SEC + 4) (s.clk.sec / 2 ^ 32)

theorem State.heldAt_latchSec_lower (s : State) (a : Agent) :
    heldAt a (regAddr .PTP_TIME_SEC) (s.latchSec a).latches = some (s.clk.sec % 2 ^ 32) :=
  (State.heldAt_latch_ne (by simp) ..).trans (State.heldAt_latch_same ..)

theorem State.heldAt_latchSec_upper (s : State) (a : Agent) :
    heldAt a (regAddr .PTP_TIME_SEC + 4) (s.latchSec a).latches = some (s.clk.sec / 2 ^ 32) :=
  State.heldAt_latch_same ..

/-- The state without an agent's latch of the seconds. -/
def State.dropSec (s : State) (a : Agent) : State :=
  { s with latches := dropHeld a (regAddr .PTP_TIME_SEC + 4) (dropHeld a (regAddr .PTP_TIME_SEC) s.latches) }

theorem exec_ptpTimeNsRead_whole {s : State} {a : Agent} (h : s.agentLive a = true) :
    exec (.ptpTimeNsRead a .whole) s = .next ((s.latchSec a).emit (.data a (s.timeNs % 2 ^ 64))) :=
  congrArg Host.Outcome.next (State.liveRead_of_live h _)

theorem exec_ptpTimeSecRead_whole_latched {s : State} {a : Agent} {x y : Nat} (h : s.agentLive a = true)
    (hx : heldAt a (regAddr .PTP_TIME_SEC) s.latches = some x) (hy : heldAt a (regAddr .PTP_TIME_SEC + 4) s.latches = some y) :
    exec (.ptpTimeSecRead a .whole) s = .next ((s.dropSec a).emit (.data a (x + y * 2 ^ 32))) := by
  have hr : s.readTimeSec a 0 8 = (x + y * 2 ^ 32, s.dropSec a) := by simp [State.readTimeSec, hx, hy, State.dropSec]
  refine congrArg Host.Outcome.next ((State.liveRead_of_live h _).trans ?_)
  simp only [halfPlace, hr]

theorem exec_ptpTimeSecRead_upper_latched {s : State} {a : Agent} {y : Nat} (h : s.agentLive a = true)
    (hy : heldAt a (regAddr .PTP_TIME_SEC + 4) s.latches = some y) :
    exec (.ptpTimeSecRead a .upper) s = .next ((s.dropSec a).emit (.data a y)) := by
  have hd : heldAt a (regAddr .PTP_TIME_SEC + 4) (dropHeld a (regAddr .PTP_TIME_SEC) s.latches) = some y :=
    (heldAt_dropHeld_ne (by simp) ..).trans hy
  have hr : s.readTimeSec a 4 4 = (y, s.dropSec a) := by
    simp [State.readTimeSec, State.readWord, State.readPart, hd, State.dropSec]
  refine congrArg Host.Outcome.next ((State.liveRead_of_live h _).trans ?_)
  simp only [halfPlace, hr]

theorem exec_ptpTimeSecRead_whole_live {s : State} {a : Agent} (h : s.agentLive a = true)
    (hno : heldAt a (regAddr .PTP_TIME_SEC) s.latches = none) :
    exec (.ptpTimeSecRead a .whole) s =
      .next (({ s with latches := dropHeld a (regAddr .PTP_TIME_SEC) s.latches } : State).emit (.data a (s.clk.sec % 2 ^ 64))) := by
  have hr : s.readTimeSec a 0 8 = (s.clk.sec % 2 ^ 64, { s with latches := dropHeld a (regAddr .PTP_TIME_SEC) s.latches }) := by
    simp [State.readTimeSec, hno, State.readWord, latchUp]
  refine congrArg Host.Outcome.next ((State.liveRead_of_live h _).trans ?_)
  simp only [halfPlace, hr]

/-! ### Capture inputs (R86) -/

theorem exec_captureEdge {s : State} {dt : Nat} (h : (s.advance dt).fullOn = true) (c : Fin 2) (falling : Bool) :
    exec (.captureEdge dt c falling) s = .next (
      if (s.advance dt).reg (if c.val = 0 then PTP_CAPT_CTRL.edge_sel0 else PTP_CAPT_CTRL.edge_sel1) ≠ 0 ↔ falling = true then
        (s.advance dt).capture c else s.advance dt) := by
  refine congrArg Host.Outcome.next ?_
  simp only [h, State.bit, Bool.true_and]
  refine ite_congr (propext ?_) (fun _ => rfl) (fun _ => rfl)
  cases falling <;> simp

theorem State.capture_of_lt {s : State} {c : Fin 2} (h : s.capts[c].length < 16) :
    s.capture c = { s with capts := s.capts.set c (s.capts[c] ++ [(s.clk.sec % 2 ^ 34, s.clk.ns)]) } :=
  if_pos h

theorem State.capture_of_full {s : State} {c : Fin 2} (h : ¬ s.capts[c].length < 16) {f : Fld}
    (hf : f = if c.val = 0 then PTP_CAPT_CTRL.capt0_ovf else PTP_CAPT_CTRL.capt1_ovf) :
    s.capture c = s.setReg f [] (min (s.reg f + 1) 255) := by
  have hw : f.width = 8 := by rw [hf]; split <;> rfl
  simp only [State.capture, if_neg h, ← hf, State.bump, hw, Nat.reducePow, Nat.add_one_sub_one]

theorem exec_captFifoRead_whole {s : State} {a : Agent} (h : s.agentLive a = true) (c : Fin 2) :
    exec (.captFifoRead a c .whole) s =
      .next (({ s with capts := s.capts.set c (s.capts[c].drop 1) } : State).emit (.data a (s.captValue c % 2 ^ 64))) :=
  congrArg Host.Outcome.next (State.liveRead_of_live h _)

/-- Settles O4: a read of the time leaves the latches that the next read consumes; an edge meets its FIFO with room or full. -/
theorem timeAndCapture : Obligations.TimeAndCapture := by
  unfold Obligations.TimeAndCapture
  refine ⟨fun s a hl hs => ⟨⟨_, exec_ptpTimeNsRead_whole hl, rfl, rfl, fun u hu hlu => ?_⟩,
    ⟨_, exec_ptpTimeNsRead_whole hl, fun u hu hlu => ?_⟩, fun hno => ?_⟩, fun s dt c falling hon => ?_, fun s a c hl => ?_⟩
  · have hr := exec_ptpTimeSecRead_whole_latched hlu (hu ▸ s.heldAt_latchSec_lower a) (hu ▸ s.heldAt_latchSec_upper a)
    rw [Nat.mod_add_div'] at hr
    exact ⟨_, hr, rfl, rfl, heldAt_dropHeld_halves ..⟩
  · exact ⟨_, exec_ptpTimeSecRead_upper_latched hlu (hu ▸ s.heldAt_latchSec_upper a), rfl, heldAt_dropHeld_halves ..⟩
  · have hr := exec_ptpTimeSecRead_whole_live hl hno
    rw [Nat.mod_eq_of_lt (by omega)] at hr
    exact ⟨_, hr, rfl, rfl⟩
  · intro u sel ovf
    rw [exec_captureEdge hon]
    split
    · split
      next hlt => rw [State.capture_of_lt hlt]
      next hfull => rw [State.capture_of_full hfull rfl]
    · rfl
  · refine ⟨_, exec_captFifoRead_whole hl c, ?_, ?_, rfl⟩
    · unfold State.captValue
      cases s.capts[c] <;> rfl
    · simp

/-! ### Writes of PTP_PULSE_CTRL (R83, R84) -/

theorem P0Agent.mayWrite {s : State} {a : Agent} (h : P0Agent s a) (i : List Nat) : s.mayWrite a .p0 i = true :=
  decide_eq_true h.2

/-- No gate and no mode turns the clock's block of registers off. -/
theorem State.blockOff_ptp (s : State) {off : Nat} (h : 0x500000 ≤ off) (h' : off < 0x600000) : s.blockOff off = false := by
  unfold State.blockOff
  rw [if_neg (by omega), decide_eq_false (by omega), Bool.and_false]

theorem getLsbD_iff_div_mod {n : Nat} (v : BitVec n) (i : Nat) : v.getLsbD i = true ↔ v.toNat / 2 ^ i % 2 = 1 := by
  rw [← BitVec.testBit_toNat, Nat.testBit_eq_decide_div_mod_eq, decide_eq_true_iff]

/-- One field of a write changes the registers alone. -/
theorem State.writeField_eq (s : State) (w : Wr) (i : List Nat) (f : Fld) :
    s.writeField w i f = { s with csr := (s.writeField w i f).csr } := by
  unfold State.writeField
  split
  · rfl
  · split <;> rfl
  · split <;> rfl
  · rfl

/-- A plain write changes the registers alone. -/
theorem plainWrite_eq (s : State) (w : Wr) (i : List Nat) : plainWrite s w i = { s with csr := (plainWrite s w i).csr } := by
  unfold plainWrite
  generalize w.taken = l
  induction l generalizing s with
  | nil => rfl
  | cons f l ih =>
    rw [List.foldl_cons, ih (s.writeField w i f), State.writeField_eq]

/-- A write of `v` to every field of PTP_PULSE_CTRL. -/
def pulseWr (a : Agent) (v : BitVec 32) : Wr :=
  ⟨a, [PTP_PULSE_CTRL.missed_count, PTP_PULSE_CTRL.cfg_err, PTP_PULSE_CTRL.active_low, PTP_PULSE_CTRL.periodic, PTP_PULSE_CTRL.arm], v.toNat⟩

/-- The fields of output `k` that a write of its PTP_PULSE_CTRL can change. -/
def pulseFields (k : Fin 4) : List (Fld × List Nat) :=
  [(PTP_PULSE_CTRL.arm, [k.val]), (PTP_PULSE_CTRL.cfg_err, [k.val]), (PTP_PULSE_CTRL.periodic, [k.val]), (PTP_PULSE_CTRL.active_low, [k.val])]

/-- The state once a write of PTP_PULSE_CTRL has reached its fields, before anything is scheduled. -/
def State.pulseWritten (s : State) (a : Agent) (k : Fin 4) (v : BitVec 32) : State :=
  plainWrite (s.noHalves a (0x500100 + strideSum [0x20] [k.val]) 4) (pulseWr a v) [k.val]

theorem State.pulseWritten_eq (s : State) (a : Agent) (k : Fin 4) (v : BitVec 32) :
    s.pulseWritten a k v = { s with csr := (s.pulseWritten a k v).csr, halves := (s.pulseWritten a k v).halves } := by
  unfold State.pulseWritten
  rw [plainWrite_eq]
  rfl

theorem State.pulseWritten_same (s : State) (a : Agent) (k : Fin 4) (v : BitVec 32) :
    SameRegsBut s (s.pulseWritten a k v) (pulseFields k) := by
  have h : SameRegsBut s (s.noHalves a (0x500100 + strideSum [0x20] [k.val]) 4) (pulseFields k) := .of_csr rfl
  have h := h.field (pulseWr a v) [k.val] PTP_PULSE_CTRL.cfg_err (by simp [pulseFields])
  have h := h.field (pulseWr a v) [k.val] PTP_PULSE_CTRL.active_low (by simp [pulseFields])
  have h := h.field (pulseWr a v) [k.val] PTP_PULSE_CTRL.periodic (by simp [pulseFields])
  exact h.field (pulseWr a v) [k.val] PTP_PULSE_CTRL.arm (by simp [pulseFields])

theorem State.reg_pulseWritten_arm (s : State) (a : Agent) (k : Fin 4) (v : BitVec 32) :
    (s.pulseWritten a k v).reg PTP_PULSE_CTRL.arm [k.val] = v.toNat % 2 := by
  simp [State.pulseWritten, plainWrite, pulseWr]

theorem State.reg_pulseWritten_periodic (s : State) (a : Agent) (k : Fin 4) (v : BitVec 32) :
    (s.pulseWritten a k v).reg PTP_PULSE_CTRL.periodic [k.val] = v.toNat / 2 % 2 := by
  have hk : PTP_PULSE_CTRL.arm.key [k.val] ≠ PTP_PULSE_CTRL.periodic.key [k.val] := by
    simp [Fld.key, PTP_PULSE_CTRL.arm, PTP_PULSE_CTRL.periodic]
  simp [State.pulseWritten, plainWrite, pulseWr, State.reg_setReg_ne hk]

/-- A write of PTP_PULSE_CTRL leaves the shape and the start of the outputs. -/
theorem State.reg_pulseWritten_other (s : State) (a : Agent) (k : Fin 4) (v : BitVec 32) {f : Fld}
    (hf : f ∈ [PTP_PULSE_SHAPE.width_ns, PTP_PULSE_SHAPE.period_ns, PTP_PULSE_START.start_sec, PTP_PULSE_START.start_ns]) :
    (s.pulseWritten a k v).reg f [k.val] = s.reg f [k.val] := by
  refine s.pulseWritten_same a k v f [k.val] ?_
  simp only [List.mem_cons, List.not_mem_nil, or_false] at hf
  rcases hf with rfl | rfl | rfl | rfl <;>
    simp [pulseFields, Fld.key, strideSum, PTP_PULSE_SHAPE.width_ns, PTP_PULSE_SHAPE.period_ns, PTP_PULSE_START.start_sec,
      PTP_PULSE_START.start_ns, PTP_PULSE_CTRL.arm, PTP_PULSE_CTRL.cfg_err, PTP_PULSE_CTRL.periodic, PTP_PULSE_CTRL.active_low] <;> omega

/-- R84: arming accepts the shape that stands, as periodic is written. -/
theorem State.pulseShapeOk_pulseWritten (s : State) (a : Agent) (k : Fin 4) (v : BitVec 32) :
    (s.pulseWritten a k v).pulseShapeOk k = true ↔ 8 ≤ s.reg PTP_PULSE_SHAPE.width_ns [k.val] ∧ (v.getLsbD 1 = true →
      1000 ≤ s.reg PTP_PULSE_SHAPE.period_ns [k.val] ∧ s.reg PTP_PULSE_SHAPE.width_ns [k.val] < s.reg PTP_PULSE_SHAPE.period_ns [k.val]) := by
  have hp : decide (v.toNat / 2 % 2 ≠ 0) = v.getLsbD 1 := by
    rw [Bool.eq_iff_iff, decide_eq_true_iff, getLsbD_iff_div_mod, Nat.pow_one]
    omega
  simp only [State.pulseShapeOk, State.bit, s.reg_pulseWritten_periodic, hp,
    s.reg_pulseWritten_other a k v (f := PTP_PULSE_SHAPE.width_ns) (by simp),
    s.reg_pulseWritten_other a k v (f := PTP_PULSE_SHAPE.period_ns) (by simp)]
  cases v.getLsbD 1 <;> simp

/-- Arming takes the start time that stands (R83). -/
theorem State.pulseStart_pulseWritten (s : State) (a : Agent) (k : Fin 4) (v : BitVec 32) :
    (s.pulseWritten a k v).pulseStart k = s.pulseStart k := by
  have hc : (s.pulseWritten a k v).clk = s.clk := by rw [State.pulseWritten_eq]
  simp only [State.pulseStart, hc, s.reg_pulseWritten_other a k v (f := PTP_PULSE_START.start_sec) (by simp),
    s.reg_pulseWritten_other a k v (f := PTP_PULSE_START.start_ns) (by simp)]

/-- The next leading edge of output `k` is scheduled at `t`, or none is. -/
def State.setLead (s : State) (k : Fin 4) (t : Option Nat) : State :=
  { s with pulses := s.pulses.set k { s.pulses[k] with lead := t } }

@[simp] theorem State.lead_setLead (s : State) (k : Fin 4) (t : Option Nat) : (s.setLead k t).pulses[k].lead = t := by
  simp [State.setLead]

@[simp] theorem State.reg_setLead (s : State) (k : Fin 4) (t : Option Nat) (f : Fld) (i : List Nat) :
    (s.setLead k t).reg f i = s.reg f i := rfl

/-- Arming is refused. -/
def State.refuseArm (s : State) (k : Fin 4) : State :=
  ((s.setReg PTP_PULSE_CTRL.arm [k.val] 0).setReg PTP_PULSE_CTRL.cfg_err [k.val] 1).setLead k none

/-- A write of arm 1 schedules the output or is refused, as its shape is (R84). -/
theorem exec_pulseArm {s : State} {a : Agent} (h : P0Agent s a) (k : Fin 4) {v : BitVec 32} (hv : v.getLsbD 0 = true) :
    exec (.pulseArm a k v) s = .next (
      if (s.pulseWritten a k v).pulseShapeOk k then (s.pulseWritten a k v).setLead k (some (s.pulseStart k))
      else (s.pulseWritten a k v).refuseArm k) := by
  have ho : s.blockOff (0x500100 + strideSum [0x20] [k.val]) = false :=
    s.blockOff_ptp (Nat.le_add_right_of_le (by simp)) (by have := k.isLt; simp only [strideSum]; omega)
  have hw : (⟨a, [PTP_PULSE_CTRL.missed_count, PTP_PULSE_CTRL.cfg_err, PTP_PULSE_CTRL.active_low, PTP_PULSE_CTRL.periodic, PTP_PULSE_CTRL.arm],
      v.toNat % 2 ^ 32⟩ : Wr) = pulseWr a v := by rw [Nat.mod_eq_of_lt v.isLt]; rfl
  have hk : Fin.ofNat 4 k.val = k := by simp
  have harm : (pulseWr a v).get PTP_PULSE_CTRL.arm = 1 := (getLsbD_iff_div_mod v 0).1 hv
  have hhas : (pulseWr a v).has PTP_PULSE_CTRL.arm = true := rfl
  refine congrArg Host.Outcome.next ((write_PTP_PULSE_CTRL h.1 (h.mayWrite _) ho _ _ _).trans ?_)
  rw [hw, ← s.pulseStart_pulseWritten a k v]
  simp only [onPulseCtrl, hhas, harm, List.headD_cons, hk, if_true]
  rfl

theorem State.reg_refuseArm_arm (s : State) (k : Fin 4) : (s.refuseArm k).reg PTP_PULSE_CTRL.arm [k.val] = 0 := by
  have hk : PTP_PULSE_CTRL.cfg_err.key [k.val] ≠ PTP_PULSE_CTRL.arm.key [k.val] := by
    simp [Fld.key, PTP_PULSE_CTRL.arm, PTP_PULSE_CTRL.cfg_err]
  simp [State.refuseArm, State.reg_setReg_ne hk]

theorem State.reg_refuseArm_cfg_err (s : State) (k : Fin 4) : (s.refuseArm k).reg PTP_PULSE_CTRL.cfg_err [k.val] = 1 := by
  simp [State.refuseArm]

theorem SameRegsBut.refuseArm {s t : State} {k : Fin 4} (h : SameRegsBut s t (pulseFields k)) : SameRegsBut s (t.refuseArm k) (pulseFields k) :=
  (h.set PTP_PULSE_CTRL.arm [k.val] 0 (by simp [pulseFields])).set PTP_PULSE_CTRL.cfg_err [k.val] 1 (by simp [pulseFields])

/-! ### Edges of a pulse output (R83) -/

theorem exec_pulseLeadingEdge {s : State} {dt : Nat} {k : Fin 4} {e : Nat} (hon : (s.advance dt).fullOn = true)
    (hl : (s.advance dt).pulses[k].lead = some e) (he : e ≤ (s.advance dt).now) :
    exec (.pulseLeadingEdge dt k) s = .next ((s.advance dt).pulseLead k e) := by
  change execPulseLeadingEdge dt k s = _
  simp only [execPulseLeadingEdge, hl, he, hon, and_self, if_true]

theorem exec_pulseTrailingEdge {s : State} {dt : Nat} {k : Fin 4} {e : Nat} (hon : (s.advance dt).fullOn = true)
    (hl : (s.advance dt).pulses[k].trail = some e) (he : e ≤ (s.advance dt).now) :
    exec (.pulseTrailingEdge dt k) s = .next ((s.advance dt).pulseTrail k) := by
  change execPulseTrailingEdge dt k s = _
  simp only [execPulseTrailingEdge, hl, he, hon, and_self, if_true]

theorem State.pulseLevel_active (s : State) (k : Fin 4) :
    s.pulseLevel k true = s.emit (.pulse k (decide (s.reg PTP_PULSE_CTRL.active_low [k.val] = 0))) := by
  simp [State.pulseLevel, State.bit]

theorem State.pulseLevel_inactive (s : State) (k : Fin 4) :
    s.pulseLevel k false = s.emit (.pulse k (decide (s.reg PTP_PULSE_CTRL.active_low [k.val] ≠ 0))) := by
  simp [State.pulseLevel, State.bit]

/-- The pulse of the leading edge scheduled at `e` has begun: active level, trailing edge and next leading edge scheduled. -/
def State.pulseBegun (s : State) (k : Fin 4) (e : Nat) : State :=
  { s with
    pulses := s.pulses.set k
      ⟨if s.reg PTP_PULSE_CTRL.periodic [k.val] = 0 then none else some (e + s.reg PTP_PULSE_SHAPE.period_ns [k.val]),
        some (e + s.reg PTP_PULSE_SHAPE.width_ns [k.val]), true⟩
    out := .pulse k (decide (s.reg PTP_PULSE_CTRL.active_low [k.val] = 0)) :: s.out }

/-- A leading edge begins the pulse, and triggers the IMU port where the output is selected (R88). -/
theorem State.pulseLead_eq (s : State) (k : Fin 4) (e : Nat) :
    s.pulseLead k e =
      if s.reg FE_IMU_CTRL.enable ≠ 0 ∧ s.reg FE_IMU_CTRL.trigger = 2 ∧ s.reg FE_IMU_CTRL.pulse_sel = k.val then
        (s.pulseBegun k e).imuTrigger e
      else s.pulseBegun k e := by
  have hnext : (if s.bit PTP_PULSE_CTRL.periodic [k.val] then some (e + s.reg PTP_PULSE_SHAPE.period_ns [k.val]) else none) =
      if s.reg PTP_PULSE_CTRL.periodic [k.val] = 0 then none else some (e + s.reg PTP_PULSE_SHAPE.period_ns [k.val]) := by
    simp [State.bit]
  unfold State.pulseLead
  rw [hnext]
  simp only [State.pulseLevel_active]
  exact ite_congr (propext (and_congr decide_eq_true_iff Iff.rfl)) (fun _ => rfl) (fun _ => rfl)

/-- The pulse in progress has ended: inactive level, no trailing edge to come. -/
def State.pulseEnded (s : State) (k : Fin 4) : State :=
  { s with
    pulses := s.pulses.set k { s.pulses[k] with trail := none, active := false }
    out := .pulse k (decide (s.reg PTP_PULSE_CTRL.active_low [k.val] ≠ 0)) :: s.out }

theorem State.lead_pulseEnded (s : State) (k : Fin 4) : (s.pulseEnded k).pulses[k].lead = s.pulses[k].lead := by
  simp [State.pulseEnded]

/-- A trailing edge ends the pulse, and clears arm unless another leading edge is to come. -/
theorem State.pulseTrail_eq (s : State) (k : Fin 4) :
    s.pulseTrail k = if s.reg PTP_PULSE_CTRL.periodic [k.val] ≠ 0 ∨ s.pulses[k].lead ≠ none then s.pulseEnded k
      else (s.pulseEnded k).setReg PTP_PULSE_CTRL.arm [k.val] 0 := by
  rw [← s.lead_pulseEnded]
  unfold State.pulseTrail
  simp only [State.pulseLevel_inactive]
  refine ite_congr (propext ?_) (fun _ => rfl) (fun _ => rfl)
  rw [Bool.or_eq_true, Option.isSome_iff_ne_none]
  exact or_congr decide_eq_true_iff Iff.rfl

/-- Settles O5: arming is accepted or refused as its shape is, and each edge's state is written out. -/
theorem pulseOutputs : Obligations.PulseOutputs := by
  unfold Obligations.PulseOutputs
  refine ⟨fun s a k v ha hv => ?_, fun s dt k e hon hl he => ?_, fun s dt k e hon hl he => ?_⟩
  · have harm : v.toNat % 2 = 1 := by simpa using (getLsbD_iff_div_mod v 0).1 hv
    have hok := s.pulseShapeOk_pulseWritten a k v
    have hsame := s.pulseWritten_same a k v
    refine ⟨_, exec_pulseArm ha k hv, ?_⟩
    split
    next h =>
      refine ⟨fun _ => ⟨(s.reg_pulseWritten_arm a k v).trans harm, State.lead_setLead ..⟩, fun hno => absurd (hok.1 h) hno, hsame, ?_⟩
      rw [State.pulseWritten_eq]; rfl
    next h =>
      refine ⟨fun hyes => absurd (hok.2 hyes) h,
        fun _ => ⟨State.reg_refuseArm_arm .., State.reg_refuseArm_cfg_err .., State.lead_setLead ..⟩, hsame.refuseArm, ?_⟩
      rw [State.pulseWritten_eq]; rfl
  · rw [exec_pulseLeadingEdge hon hl he, State.pulseLead_eq]
    rfl
  · refine ⟨_, exec_pulseTrailingEdge hon hl he, ?_⟩
    rw [State.pulseTrail_eq]
    split
    next hmore => exact ⟨rfl, rfl, fun hp hn => (hmore.elim (· hp) (· hn)).elim, SameRegsBut.of_csr rfl, rfl⟩
    next =>
      exact ⟨rfl, rfl, fun _ _ => State.reg_setReg_self .., (SameRegsBut.of_csr rfl).set _ _ _ (by simp), rfl⟩

/-! ### A discard that confirms (R15, R73) -/

/-- A step pending, and a lower part of PTP_STEP_CTRL held for hart 0 that is wider than the 32 bits that the model's writes hold
(R15), which the type of `halves` allows. -/
def State.wideHalf : State :=
  { State.reset with halves := [(.hart 0, 0x500020, 2 ^ 44)], clk := { State.reset.clk with heldStep := some 3 } }

theorem State.wideHalf_p0 : P0Agent State.wideHalf (.hart 0) :=
  ⟨by decide +kernel, by decide +kernel⟩

/-- The held part, 2^44, and the discard bit of the upper half add up to the confirm bit, 2^45: the write hands the step to the next
edge. -/
theorem discard_wideHalf_confirms {t : State} (h : exec (.ptpStepDiscard (.hart 0) .upper 0) State.wideHalf = .next t) :
    t.clk.step = some 3 := by
  cases h
  decide +kernel

/-- Refutes O3, in its clause on a discard of the upper half alone: the discard must leave the clock's step as it was, but over a held lower
part wider than 32 bits, which no hypothesis excludes, it confirms. -/
theorem not_clockSteps : ¬ Obligations.ClockSteps := by
  unfold Obligations.ClockSteps
  rintro ⟨-, h⟩
  obtain ⟨-, -, ⟨t, ht, hclk, -⟩, -⟩ := h State.wideHalf (.hart 0) 0 State.wideHalf_p0
  have hkept : t.clk.step = none := by rw [hclk]; rfl
  rw [discard_wideHalf_confirms ht] at hkept
  cases hkept

end Sys2Proof.Machine

/-! PROOFS. Scalar and control instructions of a context (R287, R319, R320, R323, R325, R326; Tables 12-3 to 12-5). -/
namespace Sys2Proof.Machine
open Reg

/-! ### Issue cycles pass (R319, R320) -/

theorem Ctx.pass_succ (x : Ctx) (k : Nat) : x.pass (k + 1) = x.tick.pass k := by
  have htick : (if x.late = [] then x else x.tick) = x.tick := by
    split
    next h => cases x; cases h; rfl
    next => rfl
  exact congrArg (Ctx.pass · k) htick

theorem Ctx.pass_pass (x : Ctx) (j k : Nat) : (x.pass j).pass k = x.pass (j + k) := by
  induction j generalizing x with
  | zero => rw [Nat.zero_add]; rfl
  | succ j ih => rw [Nat.succ_add, Ctx.pass_succ, Ctx.pass_succ, ih]

theorem Ctx.pass_of_late_nil {x : Ctx} (h : x.late = []) (k : Nat) : x.pass k = x := by
  induction k with
  | zero => rfl
  | succ k ih => exact (congrArg (Ctx.pass · k) (if_pos h)).trans ih

@[simp] theorem Ctx.pc_put (x : Ctx) (e : Effect) : (x.put e).pc = x.pc := by
  cases e <;> simp only [Ctx.put, Ctx.setS, Ctx.setP] <;> split <;> rfl

/-- A register reads its result; s0 is left out. -/
theorem Ctx.getS_setS_self (x : Ctx) {d : Fin 32} (hd : d.val ≠ 0) (v : W64) : (x.setS d v).getS d = v := by
  simp [Ctx.getS, Ctx.setS, hd]

theorem Ctx.getS_setS_ne (x : Ctx) {d e : Fin 32} (h : e ≠ d) (v : W64) : (x.setS d v).getS e = x.getS e := by
  have hv : d.val ≠ e.val := fun hde => h (Fin.ext hde.symm)
  unfold Ctx.getS Ctx.setS
  split
  · rfl
  · split
    · rfl
    · exact Vector.getElem_set_ne d.isLt e.isLt hv

@[simp] theorem Ctx.getS_withLate (x : Ctx) (l : List Late) (e : Fin 32) : ({ x with late := l } : Ctx).getS e = x.getS e := rfl

@[simp] theorem Ctx.setS_withLate (x : Ctx) (l : List Late) (d : Fin 32) (v : W64) :
    ({ x with late := l } : Ctx).setS d v = { x.setS d v with late := l } := by
  unfold Ctx.setS
  split <;> rfl

/-- One result on its way stands once its latency is over, and nothing stands before. -/
theorem Ctx.getS_pass_one {x : Ctx} {a : Nat} {d : Fin 32} {v : W64} (ha : 1 ≤ a) (h : x.late = [⟨a, .s d v⟩]) (k : Nat) (e : Fin 32) :
    (x.pass k).getS e = if a ≤ k then (x.setS d v).getS e else x.getS e := by
  induction k generalizing x a with
  | zero =>
    rw [if_neg (by omega)]
    rfl
  | succ k ih =>
    rw [Ctx.pass_succ]
    rcases Nat.lt_or_ge 1 a with hearly | hdue
    · have ht : x.tick = { x with late := [⟨a - 1, .s d v⟩] } := by simp [Ctx.tick, h, hearly]
      have hle : a - 1 ≤ k ↔ a ≤ k + 1 := by omega
      rw [ht, ih (by omega) rfl]
      simp only [hle, Ctx.setS_withLate, Ctx.getS_withLate]
    · have ht : x.tick = { x.setS d v with late := [] } := by simp [Ctx.tick, h, hdue, Ctx.put]
      rw [ht, Ctx.pass_of_late_nil rfl, if_pos (by omega), Ctx.getS_withLate]

/-- Of two results of one register on their way, once both latencies are over, the one that landed later stands, and of two that landed
together the one issued later (R320). -/
theorem Ctx.getS_pass_two {x : Ctx} {d : Fin 32} (hd : d.val ≠ 0) {v w : W64} {a b k : Nat} (ha : 1 ≤ a) (hb : 1 ≤ b)
    (h : x.late = [⟨a, .s d v⟩, ⟨b, .s d w⟩]) (hak : a ≤ k) (hbk : b ≤ k) : (x.pass k).getS d = if b < a then v else w := by
  induction k generalizing x a b with
  | zero => omega
  | succ k ih =>
    rw [Ctx.pass_succ]
    rcases Nat.lt_or_ge 1 a with ha' | ha' <;> rcases Nat.lt_or_ge 1 b with hb' | hb'
    case inl.inl =>
      have ht : x.tick = { x with late := [⟨a - 1, .s d v⟩, ⟨b - 1, .s d w⟩] } := by simp [Ctx.tick, h, ha', hb']
      have hlt : b - 1 < a - 1 ↔ b < a := by omega
      rw [ht, ih (by omega) (by omega) rfl (by omega) (by omega)]
      simp only [hlt]
    case inl.inr =>
      have ht : x.tick = { x.setS d w with late := [⟨a - 1, .s d v⟩] } := by simp [Ctx.tick, h, ha', hb', Ctx.put]
      rw [ht, Ctx.getS_pass_one (by omega) rfl, if_pos (by omega), if_pos (by omega), Ctx.getS_setS_self _ hd]
    case inr.inl =>
      have ht : x.tick = { x.setS d v with late := [⟨b - 1, .s d w⟩] } := by simp [Ctx.tick, h, ha', hb', Ctx.put]
      rw [ht, Ctx.getS_pass_one (by omega) rfl, if_pos (by omega), if_neg (by omega), Ctx.getS_setS_self _ hd]
    case inr.inr =>
      have ht : x.tick = { (x.setS d v).setS d w with late := [] } := by simp [Ctx.tick, h, ha', hb', Ctx.put]
      rw [ht, Ctx.pass_of_late_nil rfl, if_neg (by omega), Ctx.getS_withLate, Ctx.getS_setS_self _ hd]

/-! ### What a context's instruction leaves in the state -/

theorem State.setCtx_setCtx (s : State) (c : CtxId) (f g : Ctx → Ctx) : (s.setCtx c f).setCtx c g = s.setCtx c fun x => g (f x) := by
  simp [State.setCtx]

theorem State.pass_pass (s : State) (c : CtxId) (j k : Nat) : (s.pass c j).pass c k = s.pass c (j + k) := by
  simp only [State.pass, State.setCtx_setCtx, Ctx.pass_pass]

theorem State.nextPc_eq_jump (s : State) (c : CtxId) (n : Nat) : s.nextPc c n = s.jump c (s.ctxs[c].pc + BitVec.ofNat 48 n) := rfl

theorem State.pass_jump (s : State) (c : CtxId) (t : BitVec 48) (k : Nat) : (s.jump c t).pass c k = s.wentTo c t k := by
  simp only [State.jump, State.pass, State.setCtx_setCtx]
  rfl

theorem Fields.simm_zero (f : Fields) : f.simm 0 = signedOf 32 f.imm := by
  rw [Fields.simm, Nat.pow_zero, Nat.div_one]

theorem State.target_eq (s : State) (c : CtxId) (f : Fields) :
    s.target c f = s.ctxs[c].pc + BitVec.ofInt 48 (8 * signedOf 32 f.imm) := by
  rw [State.target, Fields.simm_zero]

/-- A branch goes to its target in two issue cycles where its condition holds, else on in one. -/
theorem branch_outcome {s : State} {c : CtxId} {f : Fields} {taken : Bool} {P : Prop} {o : Host.Outcome State Fault Refusal}
    (ho : o = .next ((s.branch c f taken).pass c 1)) (hP : taken = true ↔ P) :
    (P → o = .next (s.wentTo c (s.ctxs[c].pc + BitVec.ofInt 48 (8 * signedOf 32 f.imm)) 2)) ∧
    (¬ P → o = .next (s.wentTo c (s.ctxs[c].pc + 8))) := by
  subst ho
  refine ⟨fun h => ?_, fun h => ?_⟩
  · rw [State.branch, if_pos (hP.2 h), State.pass_pass, State.pass_jump, State.target_eq]
  · rw [State.branch, if_neg (mt hP.1 h)]
    exact congrArg Host.Outcome.next (State.pass_jump ..)

/-! ### Fixed-latency results (R284, R319, R345) -/

/-- The effect is on its way; a register read before it stands holds a free value. -/
def State.putLate (s : State) (c : CtxId) (lat : Nat) (e : Effect) : State :=
  if lat ≤ 1 then s.setCtx c fun x => { x with late := x.late ++ [⟨lat, e⟩] }
  else (s.freeEffect e).2.setCtx c fun x => { x.put (s.freeEffect e).1 with late := x.late ++ [⟨lat, e⟩] }

theorem State.result_of_allowed {s : State} {c : CtxId} {e : Effect} (h : s.clashes c e.namedBy = false) (lat : Nat) :
    s.result c lat e = s.putLate c lat e := by
  simp only [State.result, State.allowed, h, Bool.false_eq_true, if_false]
  rfl

theorem State.result_of_clashes {s : State} {c : CtxId} {e : Effect} (h : s.clashes c e.namedBy = true) (lat : Nat) :
    s.result c lat e = ((s.spoil c e.namedBy).freeEffect e).2.putLate c lat ((s.spoil c e.namedBy).freeEffect e).1 := by
  simp only [State.result, State.allowed, h, if_true]
  rfl

theorem Effect.isReg_of_like {e u : Effect} (h : e.like u) : u.isReg = true := by
  cases e <;> cases u <;> simp_all [Effect.like, Effect.isReg]

/-- Putting an effect on its way leaves the pc. -/
theorem State.pc_putLate (s : State) (c : CtxId) (lat : Nat) {e : Effect} (hr : e.isReg = true) :
    (s.putLate c lat e).ctxs[c].pc = s.ctxs[c].pc := by
  unfold State.putLate
  split
  · simp [State.setCtx]
  · simp [State.setCtx, (s.freeEffect_like hr).2]

theorem State.pc_result (s : State) (c : CtxId) (lat : Nat) {e : Effect} (hr : e.isReg = true) :
    (s.result c lat e).ctxs[c].pc = s.ctxs[c].pc := by
  cases h : s.clashes c e.namedBy with
  | false => rw [State.result_of_allowed h, State.pc_putLate _ _ _ hr]
  | true =>
    obtain ⟨hl, hs⟩ := (s.spoil c e.namedBy).freeEffect_like hr
    rw [State.result_of_clashes h, State.pc_putLate _ _ _ (Effect.isReg_of_like hl), hs]
    rfl

theorem State.putLate_lands (s : State) (c : CtxId) (lat k : Nat) {e : Effect} (hr : e.isReg = true) (pc : BitVec 48) :
    Lands s ((s.putLate c lat e).jump c pc |>.pass c k) c lat k e pc := by
  refine ⟨fun hlat => ?_, fun hlat => ?_⟩
  · rw [State.putLate, if_pos hlat, State.jump, State.pass, State.setCtx_setCtx, State.setCtx_setCtx]
    rfl
  · obtain ⟨hl, hs⟩ := s.freeEffect_like hr
    refine ⟨_, hl, ?_⟩
    rw [State.putLate, if_neg (by omega), hs, State.jump, State.pass, State.setCtx_setCtx, State.setCtx_setCtx]
    rfl

/-- The result of a fixed-latency instruction, with the pc's move and the issue cycles that pass, as the statements say it. -/
theorem State.result_results (s : State) (c : CtxId) (lat k : Nat) {e : Effect} (hr : e.isReg = true) (pc : BitVec 48) :
    Results s c lat k e pc (.next (((s.result c lat e).jump c pc).pass c k)) := by
  refine ⟨fun h => ⟨_, rfl, ?_⟩, fun h => ?_⟩
  · rw [State.result_of_allowed h]
    exact s.putLate_lands c lat k hr pc
  · obtain ⟨hl, hs⟩ := (s.spoil c e.namedBy).freeEffect_like hr
    refine ⟨_, _, hl, rfl, ?_⟩
    rw [State.result_of_clashes h, hs]
    exact State.putLate_lands _ c lat k (Effect.isReg_of_like hl) pc

theorem State.result_nextPc_results (s : State) (c : CtxId) (lat : Nat) (d : Fin 32) (v : W64) (n : Nat) :
    Results s c lat 1 (.s d v) (s.ctxs[c].pc + BitVec.ofNat 48 n) (.next (((s.result c lat (.s d v)).nextPc c n).pass c 1)) := by
  rw [State.nextPc_eq_jump, State.pc_result _ _ _ rfl]
  exact s.result_results c lat 1 rfl _

/-- An instruction that gives s[d] a value and goes on to the next word. -/
theorem Results.of_setD {s : State} {c : CtxId} {f : Fields} {v : W64} {lat : Nat} {i : Instr}
    (h : exec i s = .next ((s.setD c f v lat).pass c 1)) : Results s c lat 1 (.s f.d v) (s.ctxs[c].pc + 8) (exec i s) := by
  rw [h]
  exact s.result_nextPc_results c lat f.d v 8

/-- A jump that links takes two issue cycles. -/
theorem Results.of_link {s : State} {c : CtxId} {d : Fin 32} {t : BitVec 48} {i : Instr}
    (h : exec i s = .next ((((s.result c 1 (.s d (s.link c))).jump c t).pass c 1).pass c 1)) :
    Results s c 1 2 (.s d ((s.ctxs[c].pc + 8).setWidth 64)) t (exec i s) := by
  rw [h, State.pass_pass]
  exact s.result_results c 1 2 rfl t

/-! ### Values (Tables 12-3 to 12-5) -/

/-- A legal word has one of its opcode's fn values. -/
theorem fn_le_of_legalWord {w x : W64} (h : legalWord w x = true) {op k : Nat} (hop : (fieldsOf w).op = op) {m : Option Form}
    (hform : ∀ fn, formOf op fn = formIf (fn ≤ k) m) : (fieldsOf w).fn ≤ k := by
  refine Decidable.byContradiction fun hk => ?_
  have hnone : formOf (fieldsOf w).op (fieldsOf w).fn = none := by rw [hop, hform, formIf, if_neg hk]
  have hillegal : legalWord w x = false := by simp only [legalWord, hnone]
  exact Bool.false_ne_true (hillegal.symm.trans h)

theorem aluOp_rule {fn : Nat} (h : fn ≤ 13) (a b : W64) : AluRule fn a b (aluOp fn a b) := by
  match fn with
  | 0 => exact BitVec.toNat_add a b
  | 1 =>
    change ((a - b).toNat + b.toNat) % 2 ^ 64 = a.toNat
    rw [← BitVec.toNat_add, BitVec.sub_add_cancel]
  | 2 => exact fun _ => BitVec.getLsbD_and
  | 3 => exact fun _ => BitVec.getLsbD_or
  | 4 => exact fun _ => BitVec.getLsbD_xor
  | 5 =>
    change (a <<< (b.toNat % 64)).toNat = _
    rw [BitVec.toNat_shiftLeft, Nat.shiftLeft_eq]
  | 6 =>
    change (a >>> (b.toNat % 64)).toNat = _
    rw [BitVec.toNat_ushiftRight, Nat.shiftRight_eq_div_pow]
  | 7 =>
    change (a.sshiftRight (b.toNat % 64)).toInt = _
    rw [BitVec.toInt_sshiftRight, Int.shiftRight_eq_div_pow]
    push_cast
    rfl
  | 8 =>
    change (if a.slt b then 1 else 0 : W64).toNat = if a.toInt < b.toInt then 1 else 0
    simp only [BitVec.slt_iff_toInt_lt, apply_ite BitVec.toNat]
    rfl
  | 9 =>
    change (if a.ult b then 1 else 0 : W64).toNat = if a.toNat < b.toNat then 1 else 0
    simp only [BitVec.ult_iff_toNat_lt, apply_ite BitVec.toNat]
    rfl
  | 10 =>
    change (if a.slt b then a else b).toInt = min a.toInt b.toInt
    simp only [BitVec.slt_iff_toInt_lt]
    split <;> omega
  | 11 =>
    change (if a.slt b then b else a).toInt = max a.toInt b.toInt
    simp only [BitVec.slt_iff_toInt_lt]
    split <;> omega
  | 12 =>
    change (if a.ult b then a else b).toNat = min a.toNat b.toNat
    simp only [BitVec.ult_iff_toNat_lt]
    split <;> omega
  | 13 =>
    change (if a.ult b then b else a).toNat = max a.toNat b.toNat
    simp only [BitVec.ult_iff_toNat_lt]
    split <;> omega

theorem mulOp_rule {fn : Nat} (h : fn ≤ 2) (a b : W64) : MulRule fn a b (mulOp fn a b) := by
  match fn with
  | 0 => exact BitVec.toNat_mul a b
  | 1 =>
    have hlo : -2 ^ 126 ≤ a.toInt * b.toInt := BitVec.le_toInt_mul_toInt
    have hhi : a.toInt * b.toInt ≤ 2 ^ 126 := BitVec.toInt_mul_toInt_le
    exact BitVec.toInt_ofInt_eq_self (by decide) (by omega) (by omega)
  | 2 =>
    have hlt : a.toNat * b.toNat < 2 ^ 64 * 2 ^ 64 := Nat.mul_lt_mul'' a.isLt b.isLt
    exact (BitVec.toNat_ofNat ..).trans (Nat.mod_eq_of_lt (Nat.div_lt_of_lt_mul hlt))

theorem eq_intMin_iff_toInt (a : W64) : a = BitVec.intMin 64 ↔ a.toInt = -(2 ^ 63) := by
  rw [← BitVec.toInt_inj]
  rfl

theorem eq_neg_one_iff_toInt (b : W64) : b = -1#64 ↔ b.toInt = -1 := by
  rw [← BitVec.toInt_inj]
  rfl

theorem eq_zero_iff_toNat (b : W64) : b = 0 ↔ b.toNat = 0 := by
  rw [← BitVec.toNat_inj]
  rfl

theorem ofInt_tdiv (a b : W64) : BitVec.ofInt 64 (a.toInt.tdiv b.toInt) = a.sdiv b := by
  rw [← BitVec.toInt_inj, BitVec.toInt_ofInt, BitVec.toInt_sdiv]

theorem ofInt_tmod (a b : W64) : BitVec.ofInt 64 (a.toInt.tmod b.toInt) = a.srem b := by
  rw [← BitVec.toInt_srem, BitVec.ofInt_toInt]

theorem divOp_rule {fn : Nat} (h : fn ≤ 3) (a b : W64) : DivRule fn a b (divOp fn a b) := by
  have hz := eq_zero_iff_toNat b
  match fn with
  | 0 =>
    simp only [DivRule, divOp, hz, ofInt_tdiv]
    split
    next => rfl
    next =>
      split
      next hover =>
        rw [(eq_intMin_iff_toInt a).2 hover.1, (eq_neg_one_iff_toInt b).2 hover.2]
        rfl
      next hover =>
        rw [← eq_intMin_iff_toInt, ← eq_neg_one_iff_toInt] at hover
        exact BitVec.toInt_sdiv_of_ne_or_ne a b (Classical.not_and_iff_not_or_not.1 hover)
  | 1 =>
    simp only [DivRule, divOp, hz]
    split
    next => rfl
    next => exact Nat.mod_eq_of_lt (Nat.lt_of_le_of_lt (Nat.div_le_self ..) a.isLt)
  | 2 =>
    simp only [DivRule, divOp, hz, ofInt_tmod]
    split
    next => rfl
    next =>
      rw [BitVec.toInt_srem]
      split
      next hover =>
        rw [hover.1, hover.2]
        rfl
      next => rfl
  | 3 =>
    simp only [DivRule, divOp, hz]
    split
    next => rfl
    next => exact Nat.mod_eq_of_lt (Nat.lt_of_le_of_lt (Nat.mod_le ..) a.isLt)

theorem brCond_iff (fn : Nat) (a b : W64) : brCond fn a b = true ↔ BrRule fn a b := by
  match fn with
  | 0 => simp [brCond, BrRule, BitVec.toNat_inj]
  | 1 => simp [brCond, BrRule, BitVec.toNat_inj]
  | 2 => simp [brCond, BrRule, BitVec.slt_iff_toInt_lt]
  | 3 => simp [brCond, BrRule, BitVec.slt_eq_decide]
  | 4 => simp [brCond, BrRule, BitVec.ult_iff_toNat_lt]
  | _ + 5 => simp [brCond, BrRule, BitVec.ult_eq_decide]

theorem eq_zero_iff_getLsbD (p : W64) : p = 0 ↔ ∀ i : Fin 64, p.getLsbD i.val = false := by
  rw [BitVec.eq_of_getLsbD_eq_iff, Fin.forall_iff]
  exact forall₂_congr fun _ _ => by rw [BitVec.ofNat_eq_ofNat, BitVec.getLsbD_zero]

theorem eq_allOnes_iff_getLsbD (p : W64) : p = BitVec.allOnes 64 ↔ ∀ i : Fin 64, p.getLsbD i.val = true := by
  rw [BitVec.eq_of_getLsbD_eq_iff, Fin.forall_iff]
  exact forall₂_congr fun _ hi => by rw [BitVec.getLsbD_allOnes, decide_eq_true hi]

theorem bpCond_iff (fn : Nat) (p : W64) : bpCond fn p = true ↔ BpRule fn p := by
  match fn with
  | 0 =>
    change (p != 0) = true ↔ ∃ i : Fin 64, p.getLsbD i.val = true
    rw [bne_iff_ne, Ne, eq_zero_iff_getLsbD, Classical.not_forall]
    simp only [Bool.not_eq_false]
  | 1 => exact beq_iff_eq.trans (eq_zero_iff_getLsbD p)
  | _ + 2 => exact beq_iff_eq.trans (eq_allOnes_iff_getLsbD p)

/-- csel chooses by whether s[c] is 0. -/
theorem ite_ne_zero (x a b : W64) : (if x ≠ 0 then a else b) = if x.toNat = 0 then b else a := by
  simp only [ne_eq, ite_not, eq_zero_iff_toNat]

/-! ### The instructions -/

theorem opRow_of {f : Fields} {op : Nat} (h : f.op = op) : opRow op f = true :=
  decide_eq_true h

section
variable {s : State} {n : CoreId} {c : CtxId} {w : W64} (h : Issues s n c w 0)
include h

theorem exec_alu (hop : (fieldsOf w).op = 0x10) : exec (.alu n w) s =
    .next ((s.setD c (fieldsOf w) (aluOp (fieldsOf w).fn (s.getS c (fieldsOf w).a) (s.getS c (fieldsOf w).b))).pass c 1) :=
  congrArg Host.Outcome.next (State.issue_of h (opRow_of hop) _)

theorem exec_alui (hop : (fieldsOf w).op = 0x11) : exec (.alui n w) s = .next ((s.setD c (fieldsOf w)
    (aluOp (fieldsOf w).fn (s.getS c (fieldsOf w).a) (BitVec.ofInt 64 (signedOf 32 (fieldsOf w).imm)))).pass c 1) := by
  rw [← Fields.simm_zero]
  exact congrArg Host.Outcome.next (State.issue_of h (opRow_of hop) _)

theorem exec_mul (hop : (fieldsOf w).op = 0x13) : exec (.mul n w) s =
    .next ((s.setD c (fieldsOf w) (mulOp (fieldsOf w).fn (s.getS c (fieldsOf w).a) (s.getS c (fieldsOf w).b)) 3).pass c 1) :=
  congrArg Host.Outcome.next (State.issue_of h (opRow_of hop) _)

theorem exec_div (hop : (fieldsOf w).op = 0x14) : exec (.div n w) s =
    .next ((s.setD c (fieldsOf w) (divOp (fieldsOf w).fn (s.getS c (fieldsOf w).a) (s.getS c (fieldsOf w).b)) 16).pass c 1) :=
  congrArg Host.Outcome.next (State.issue_of h (opRow_of hop) _)

theorem exec_csel (hop : (fieldsOf w).op = 0x15) : exec (.csel n w) s = .next ((s.setD c (fieldsOf w)
    (if (s.getS c (fieldsOf w).c).toNat = 0 then s.getS c (fieldsOf w).b else s.getS c (fieldsOf w).a)).pass c 1) := by
  rw [← ite_ne_zero]
  exact congrArg Host.Outcome.next (State.issue_of h (opRow_of hop) _)

theorem exec_sysr (hop : (fieldsOf w).op = 0x05) : exec (.sysr n w) s =
    .next ((s.setD c (fieldsOf w) (s.sysValue n c (fieldsOf w).fn) (if (fieldsOf w).fn = 5 then 2 else 1)).pass c 1) :=
  congrArg Host.Outcome.next (State.issue_of h (opRow_of hop) _)

theorem exec_nop (hop : (fieldsOf w).op = 0x00) : exec (.nop n w) s = .next (s.wentTo c (s.ctxs[c].pc + 8)) :=
  congrArg Host.Outcome.next ((State.issue_of h (opRow_of hop) _).trans (State.pass_jump ..))

theorem exec_br (hop : (fieldsOf w).op = 0x08) : exec (.br n w) s = .next
    ((s.branch c (fieldsOf w) (brCond (fieldsOf w).fn (s.getS c (fieldsOf w).a) (s.getS c (fieldsOf w).b))).pass c 1) :=
  congrArg Host.Outcome.next (State.issue_of h (opRow_of hop) _)

theorem exec_bp (hop : (fieldsOf w).op = 0x0B) : exec (.bp n w) s = .next
    ((s.branch c (fieldsOf w) (bpCond (fieldsOf w).fn (s.ctxs[c].getP (Fin.ofNat 8 (fieldsOf w).a.val)))).pass c 1) :=
  congrArg Host.Outcome.next (State.issue_of h (opRow_of hop) _)

theorem exec_jal (hop : (fieldsOf w).op = 0x09) : exec (.jal n w) s =
    .next ((((s.result c 1 (.s (fieldsOf w).d (s.link c))).jump c
      (s.ctxs[c].pc + BitVec.ofInt 48 (8 * signedOf 32 (fieldsOf w).imm))).pass c 1).pass c 1) := by
  rw [← State.target_eq]
  exact congrArg Host.Outcome.next (State.issue_of h (opRow_of hop) _)

theorem exec_jalr (hop : (fieldsOf w).op = 0x0A) : exec (.jalr n w) s =
    .next ((((s.result c 1 (.s (fieldsOf w).d (s.link c))).jump c
      ((s.getS c (fieldsOf w).a + BitVec.ofInt 64 (signedOf 32 (fieldsOf w).imm)).setWidth 48)).pass c 1).pass c 1) := by
  rw [← Fields.simm_zero]
  exact congrArg Host.Outcome.next (State.issue_of h (opRow_of hop) _)

/-- A stage of 2 or more: the mark is sent. -/
theorem exec_stage (hop : (fieldsOf w).op = 0x06) (hst : 2 ≤ (fieldsOf w).imm % 16) : exec (.stage n w) s =
    .next { s.wentTo c (s.ctxs[c].pc + 8) with
      mon := { s.mon with
        marksSent := s.mon.marksSent ++ [(n, c, (fieldsOf w).imm % 16, (s.ctxs[c].getS (fieldsOf w).a).setWidth 32)] } } := by
  refine congrArg Host.Outcome.next ((State.issue_of h (opRow_of hop) _).trans ?_)
  simp only [if_neg (Nat.not_lt.2 hst)]
  exact State.pass_jump ..

end

theorem exec_li {s : State} {n : CoreId} {c : CtxId} {w x : W64} (h : Issues s n c w x) (hop : (fieldsOf w).op = 0x12) :
    exec (.li n w x) s = .next (((s.result c 1 (.s (fieldsOf w).d x)).nextPc c 16).pass c 1) :=
  congrArg Host.Outcome.next (State.issue_of h (opRow_of hop) _)

/-- Settles O12: each instruction's equation, its value by its table, and the landing of results. -/
theorem scalarAndControl : Obligations.ScalarAndControl := by
  unfold Obligations.ScalarAndControl
  refine ⟨⟨fun s n c w h => ?_, fun s n c w x h hop => ?_, fun x i => rfl, fun x d v a k hd ha hl => ?_,
    fun x d v w a b k hd ha hb hl hak hbk => Ctx.getS_pass_two hd ha hb hl hak hbk⟩, fun s n c w h => ?_⟩
  · obtain ⟨-, -, -, -, hlegal⟩ := id h
    exact ⟨fun hop => ⟨_, aluOp_rule (fn_le_of_legalWord hlegal hop fun _ => rfl) _ _, .of_setD (exec_alu h hop)⟩,
      fun hop => ⟨_, aluOp_rule (fn_le_of_legalWord hlegal hop fun _ => rfl) _ _, .of_setD (exec_alui h hop)⟩,
      fun hop => ⟨_, mulOp_rule (fn_le_of_legalWord hlegal hop fun _ => rfl) _ _, .of_setD (exec_mul h hop)⟩,
      fun hop => ⟨_, divOp_rule (fn_le_of_legalWord hlegal hop fun _ => rfl) _ _, .of_setD (exec_div h hop)⟩,
      fun hop => .of_setD (exec_csel h hop)⟩
  · rw [exec_li h hop]
    exact s.result_nextPc_results ..
  · refine ⟨?_, fun e he => ?_⟩
    · rw [Ctx.getS_pass_one ha hl, Ctx.getS_setS_self x hd]
    · rw [Ctx.getS_pass_one ha hl, Ctx.getS_setS_ne x he, ite_self]
  · exact ⟨exec_nop h, fun hop => branch_outcome (exec_br h hop) (brCond_iff ..), fun hop => branch_outcome (exec_bp h hop) (bpCond_iff ..),
      fun hop => .of_link (exec_jal h hop), fun hop => .of_link (exec_jalr h hop),
      fun hop => ⟨_, .of_setD (exec_sysr h hop), BitVec.toNat_ofNat ..⟩, exec_stage h⟩

end Sys2Proof.Machine

/-! PROOFS. begin, commit and rollback of a partition's configuration transaction (R419, R421, R424). -/
namespace Sys2Proof.Machine
open Reg

/-! ### What a write of CFG_TXN hands on (R12, R15, R419) -/

/-- A write of `v` to every field of CFG_TXN. -/
def txnWr (a : Agent) (v : BitVec 32) : Wr :=
  ⟨a, [CFG_TXN.begin, CFG_TXN.commit, CFG_TXN.rollback, CFG_TXN.when, CFG_TXN.staged], v.toNat⟩

/-- A one-bit field of CFG_TXN is set where its bit is written 1. -/
theorem txnWr_sets (a : Agent) (v : BitVec 32) {f : Fld} (hf : f ∈ (txnWr a v).taken) (hw : f.width = 1) :
    (txnWr a v).sets f = v.getLsbD f.lo := by
  have hget : decide ((txnWr a v).get f ≠ 0) = v.getLsbD f.lo := by
    rw [Bool.eq_iff_iff, decide_eq_true_iff, getLsbD_iff_div_mod, Wr.get, hw, Nat.pow_one]
    exact Nat.mod_two_ne_zero
  rw [Wr.sets, Wr.has, List.contains_iff_mem.2 hf, Bool.true_and, hget]

/-- No gate and no mode turns the blocks below the point front end's off. -/
theorem State.blockOff_low (s : State) {off : Nat} (h : off < 0x400000) : s.blockOff off = false := by
  unfold State.blockOff
  rw [if_neg (by omega), decide_eq_false (by omega), Bool.and_false]

theorem State.writeTxn_of_live {s : State} {a : Agent} (h : s.agentLive a = true) (v : BitVec 32) :
    s.writeTxn a v = onCfgTxn (s.noHalves a 0x100000 4) (txnWr a v) [(s.partOf a).val] := by
  have hwr : txnWr a v = ⟨a, (txnWr a v).taken, v.toNat % 2 ^ 32⟩ := by rw [Nat.mod_eq_of_lt v.isLt]; rfl
  rw [hwr]
  exact State.writeNamed_word
    (r := ⟨.CFG_TXN, 0x100000, [], 4, true, (txnWr a v).taken, .device, .any, .all⟩) rfl (Nat.le_refl 4) h rfl
    (s.blockOff_low (by decide : 0x100000 + 0 < 0x400000)) .whole v.toNat onCfgTxn

/-- The state once a write of CFG_TXN has stored its when field, before its action. -/
def State.tookWhen (s : State) (a : Agent) (v : BitVec 32) : State :=
  (s.noHalves a 0x100000 4).setReg CFG_TXN.when [(s.partOf a).val] ((txnWr a v).get CFG_TXN.when)

/-- Of the fields of CFG_TXN a plain write stores when alone. -/
theorem plainWrite_txnWr (s : State) (a : Agent) (v : BitVec 32) :
    plainWrite (s.noHalves a 0x100000 4) (txnWr a v) [(s.partOf a).val] = s.tookWhen a v := rfl

@[simp] theorem State.tookWhen_txns (s : State) (a : Agent) (v : BitVec 32) : (s.tookWhen a v).txns = s.txns := rfl

theorem State.tookWhen_same (s : State) (a : Agent) (v : BitVec 32) :
    SameRegsBut s (s.tookWhen a v) [(CFG_TXN.when, [(s.partOf a).val])] :=
  SameRegsBut.set _ _ _ List.mem_cons_self (.of_csr rfl)

/-- The effect of CFG_TXN by its three action bits: more than one is ignored as a whole (R419), none acts while a commit is validated
(R424). -/
theorem State.writeTxn_eq {s : State} {a : Agent} (h : s.agentLive a = true) (v : BitVec 32) :
    s.writeTxn a v =
      if (v.getLsbD 31 && v.getLsbD 30) || (v.getLsbD 31 && v.getLsbD 29) || (v.getLsbD 30 && v.getLsbD 29) then
        s.noHalves a 0x100000 4
      else if s.txns[s.partOf a].validating then s.tookWhen a v
      else if v.getLsbD 31 then (s.tookWhen a v).txnBegin (s.partOf a)
      else if v.getLsbD 30 then (s.tookWhen a v).txnCommit (s.partOf a) (v.getLsbD 28)
      else if v.getLsbD 29 then (s.tookWhen a v).txnRollback (s.partOf a)
      else s.tookWhen a v := by
  have hp : Fin.ofNat 4 (s.partOf a).val = s.partOf a := Fin.ext (Nat.mod_eq_of_lt (s.partOf a).isLt)
  have hbegin : (txnWr a v).sets CFG_TXN.begin = v.getLsbD 31 := txnWr_sets a v (by simp [txnWr]) rfl
  have hcommit : (txnWr a v).sets CFG_TXN.commit = v.getLsbD 30 := txnWr_sets a v (by simp [txnWr]) rfl
  have hrollback : (txnWr a v).sets CFG_TXN.rollback = v.getLsbD 29 := txnWr_sets a v (by simp [txnWr]) rfl
  have hwhen : decide ((txnWr a v).get CFG_TXN.when = 1) = v.getLsbD 28 := by
    rw [Bool.eq_iff_iff, decide_eq_true_iff, getLsbD_iff_div_mod]
    rfl
  rw [State.writeTxn_of_live h, onCfgTxn]
  simp only [hbegin, hcommit, hrollback, hwhen, plainWrite_txnWr, List.headD_cons, hp, State.tookWhen_txns]

/-! ### The three actions (R419, R421, R424) -/

@[simp] theorem State.report_txns (s : State) (p : PartId) (st c o : Nat) : (s.report p st c o).txns = s.txns := rfl

theorem State.txns_setTxn_self (s : State) (p : PartId) (f : Txn → Txn) : (s.setTxn p f).txns[p] = f s.txns[p] :=
  Vector.getElem_set_self _

theorem State.reg_report_status (s : State) (p : PartId) (st c o : Nat) :
    (s.report p st c o).reg CFG_TXN_STATUS.status [p.val] = st % 16 := by
  have hoff : CFG_TXN_STATUS.fail_off.key [p.val] ≠ CFG_TXN_STATUS.status.key [p.val] := by
    simp only [Fld.key, CFG_TXN_STATUS.fail_off, CFG_TXN_STATUS.status]
    omega
  have hcause : CFG_TXN_STATUS.cause.key [p.val] ≠ CFG_TXN_STATUS.status.key [p.val] := by
    simp only [Fld.key, CFG_TXN_STATUS.cause, CFG_TXN_STATUS.status]
    omega
  rw [State.report, State.reg_setReg_ne hoff, State.reg_setReg_ne hcause, State.reg_setReg_self]
  rfl

/-- A report leaves CFG_TXN. -/
theorem State.reg_report_staged (s : State) (p : PartId) (st c o : Nat) :
    (s.report p st c o).reg CFG_TXN.staged [p.val] = s.reg CFG_TXN.staged [p.val] := by
  have hkey : ∀ f ∈ [CFG_TXN_STATUS.fail_off, CFG_TXN_STATUS.cause, CFG_TXN_STATUS.status],
      f.key [p.val] ≠ CFG_TXN.staged.key [p.val] := by
    simp only [List.forall_mem_cons, Fld.key, strideSum, CFG_TXN_STATUS.fail_off, CFG_TXN_STATUS.cause, CFG_TXN_STATUS.status,
      CFG_TXN.staged]
    exact ⟨by omega, by omega, by omega, nofun⟩
  rw [State.report, State.reg_setReg_ne (hkey _ (by simp)), State.reg_setReg_ne (hkey _ (by simp)), State.reg_setReg_ne (hkey _ (by simp))]

/-- A transaction of partition `p` gives way to `x` with no entry staged, and a status is reported. -/
def State.restartTxn (s : State) (p : PartId) (x : Txn) (st : Nat) : State :=
  ((s.setTxn p fun _ => x).setReg CFG_TXN.staged [p.val] 0).report p st 0 0

theorem State.restartTxn_txns (s : State) (p : PartId) (x : Txn) (st : Nat) : (s.restartTxn p x st).txns = s.txns.set p x := rfl

theorem State.reg_restartTxn_status (s : State) (p : PartId) (x : Txn) (st : Nat) :
    (s.restartTxn p x st).reg CFG_TXN_STATUS.status [p.val] = st % 16 :=
  State.reg_report_status ..

theorem State.reg_restartTxn_staged (s : State) (p : PartId) (x : Txn) (st : Nat) :
    (s.restartTxn p x st).reg CFG_TXN.staged [p.val] = 0 := by
  rw [State.restartTxn, State.reg_report_staged, State.reg_setReg_self, Nat.zero_mod]

/-- An open transaction once its commit hands it to validation, immediate or at the boundary. -/
def Txn.committed (x : Txn) (boundary idle : Bool) : Txn :=
  { x with opened := false, validating := true, boundary := boundary, idle := idle }

section
variable {s : State} {p : PartId}

theorem State.txnBegin_of_opened (h : s.txns[p].opened = true) : s.txnBegin p = s.setReg CFG_TXN_STATUS.status [p.val] 6 :=
  if_pos h

theorem State.txnBegin_of_closed (h : s.txns[p].opened = false) :
    s.txnBegin p = s.restartTxn p { Txn.fresh with opened := true } 2 :=
  if_neg (Bool.eq_false_iff.1 h)

/-- A commit closes the transaction to staging and hands it to validation. -/
theorem State.txnCommit_of_opened (h : s.txns[p].opened = true) (b : Bool) :
    s.txnCommit p b = (s.setTxn p fun x => x.committed b s.idle).report p 1 0 0 :=
  if_pos h

theorem State.txnCommit_txn_of_opened (h : s.txns[p].opened = true) (b : Bool) :
    (s.txnCommit p b).txns[p] = s.txns[p].committed b s.idle := by
  rw [State.txnCommit_of_opened h]
  exact s.txns_setTxn_self p fun x => x.committed b s.idle

theorem State.txnCommit_of_closed (h : s.txns[p].opened = false) (b : Bool) : s.txnCommit p b = s.report p 5 0 0 :=
  if_neg (Bool.eq_false_iff.1 h)

theorem State.txnRollback_of_opened (h : s.txns[p].opened = true) : s.txnRollback p = s.restartTxn p Txn.fresh 4 :=
  if_pos h

theorem State.txnRollback_of_closed (h : s.txns[p].opened = false) : s.txnRollback p = s.report p 5 0 0 :=
  if_neg (Bool.eq_false_iff.1 h)

end

/-- `t` differs from `s` in registers, held lower parts and transactions alone. -/
def TxnFrame (s t : State) : Prop := t = { s with csr := t.csr, halves := t.halves, txns := t.txns }

theorem TxnFrame.txnBegin {s t : State} (h : TxnFrame s t) (p : PartId) : TxnFrame s (t.txnBegin p) := by
  unfold TxnFrame at h ⊢
  rw [h]
  unfold State.txnBegin
  split <;> rfl

theorem TxnFrame.txnCommit {s t : State} (h : TxnFrame s t) (p : PartId) (b : Bool) : TxnFrame s (t.txnCommit p b) := by
  unfold TxnFrame at h ⊢
  rw [h]
  unfold State.txnCommit
  split <;> rfl

theorem TxnFrame.txnRollback {s t : State} (h : TxnFrame s t) (p : PartId) : TxnFrame s (t.txnRollback p) := by
  unfold TxnFrame at h ⊢
  rw [h]
  unfold State.txnRollback
  split <;> rfl

theorem TxnFrame.tookWhen (s : State) (a : Agent) (v : BitVec 32) : TxnFrame s (s.tookWhen a v) := rfl

/-! ### The commands -/

theorem getLsbD_or_of_set {n k : Nat} {w : BitVec n} (h : w.getLsbD k = true) (v : BitVec n) : (v ||| w).getLsbD k = true := by
  rw [BitVec.getLsbD_or, h, Bool.or_true]

theorem getLsbD_or_of_clear {n k : Nat} {w : BitVec n} (h : w.getLsbD k = false) (v : BitVec n) :
    (v ||| w).getLsbD k = v.getLsbD k := by
  rw [BitVec.getLsbD_or, h, Bool.or_false]

section
variable {s : State} {a : Agent} {v : BitVec 32} (hl : s.agentLive a = true)
include hl

theorem exec_cfgBegin_alone (hv : s.txns[s.partOf a].validating = false) (h30 : v.getLsbD 30 = false) (h29 : v.getLsbD 29 = false) :
    exec (.cfgBegin a v) s = .next ((s.tookWhen a (v ||| 0x80000000)).txnBegin (s.partOf a)) := by
  refine congrArg Host.Outcome.next ((State.writeTxn_eq hl _).trans ?_)
  simp (disch := decide) only [getLsbD_or_of_set, getLsbD_or_of_clear, h30, h29, hv]
  rfl

theorem exec_cfgCommit_alone (hv : s.txns[s.partOf a].validating = false) (h31 : v.getLsbD 31 = false) (h29 : v.getLsbD 29 = false) :
    exec (.cfgCommit a v) s = .next ((s.tookWhen a (v ||| 0x40000000)).txnCommit (s.partOf a) (v.getLsbD 28)) := by
  refine congrArg Host.Outcome.next ((State.writeTxn_eq hl _).trans ?_)
  simp (disch := decide) only [getLsbD_or_of_set, getLsbD_or_of_clear, h31, h29, hv]
  rfl

theorem exec_cfgRollback_alone (hv : s.txns[s.partOf a].validating = false) (h31 : v.getLsbD 31 = false) (h30 : v.getLsbD 30 = false) :
    exec (.cfgRollback a v) s = .next ((s.tookWhen a (v ||| 0x20000000)).txnRollback (s.partOf a)) := by
  refine congrArg Host.Outcome.next ((State.writeTxn_eq hl _).trans ?_)
  simp (disch := decide) only [getLsbD_or_of_set, getLsbD_or_of_clear, h31, h30, hv]
  rfl

theorem exec_cfgBegin_with_commit (h30 : v.getLsbD 30 = true) : exec (.cfgBegin a v) s = .next (s.noHalves a 0x100000 4) := by
  refine congrArg Host.Outcome.next ((State.writeTxn_eq hl _).trans ?_)
  simp (disch := decide) only [getLsbD_or_of_set, getLsbD_or_of_clear, h30]
  rfl

/-- While a commit is validated a write of CFG_TXN stores when at most (R419, R424). -/
theorem State.writeTxn_of_validating (hv : s.txns[s.partOf a].validating = true) (w : BitVec 32) :
    SameRegsBut s (s.writeTxn a w) [(CFG_TXN.when, [(s.partOf a).val])] ∧
      s.writeTxn a w = { s with csr := (s.writeTxn a w).csr, halves := (s.writeTxn a w).halves } := by
  rw [State.writeTxn_eq hl, if_pos hv]
  split
  · exact ⟨.of_csr rfl, rfl⟩
  · exact ⟨s.tookWhen_same a w, rfl⟩

end

/-- Settles O45: each command is one action on the state that has taken when, and the actions' outcomes are written out. -/
theorem transactionActions : Obligations.TransactionActions := by
  unfold Obligations.TransactionActions
  intro s a v hl p i x
  refine ⟨fun h30 h29 hv => ?_, fun h31 h29 hv => ?_, fun h31 h30 hv => ?_, fun h30 => ?_, fun hv c hc => ?_⟩
  · refine ⟨_, exec_cfgBegin_alone hl hv h30 h29, (TxnFrame.tookWhen ..).txnBegin p, fun ho => ?_, fun ho => ?_⟩
    · rw [State.txnBegin_of_opened (s := s.tookWhen a _) ho]
      exact ⟨rfl, State.reg_setReg_self ..⟩
    · rw [State.txnBegin_of_closed (s := s.tookWhen a _) ho]
      exact ⟨State.restartTxn_txns .., State.reg_restartTxn_status .., State.reg_restartTxn_staged ..⟩
  · refine ⟨_, exec_cfgCommit_alone hl hv h31 h29, (TxnFrame.tookWhen ..).txnCommit p _, fun ho => ?_, fun ho => ?_⟩
    · rw [State.txnCommit_of_closed (s := s.tookWhen a _) ho]
      exact ⟨rfl, State.reg_report_status ..⟩
    · have hx := State.txnCommit_txn_of_opened (s := s.tookWhen a (v ||| 0x40000000)) ho (v.getLsbD 28)
      refine ⟨congrArg Txn.opened hx, congrArg Txn.validating hx, (congrArg Txn.entries hx).trans rfl, congrArg Txn.boundary hx, ?_⟩
      rw [State.txnCommit_of_opened (s := s.tookWhen a _) ho]
      exact State.reg_report_status ..
  · refine ⟨_, exec_cfgRollback_alone hl hv h31 h30, (TxnFrame.tookWhen ..).txnRollback p, fun ho => ?_, fun ho => ?_⟩
    · rw [State.txnRollback_of_closed (s := s.tookWhen a _) ho]
      exact ⟨rfl, State.reg_report_status ..⟩
    · rw [State.txnRollback_of_opened (s := s.tookWhen a _) ho]
      exact ⟨State.restartTxn_txns .., State.reg_restartTxn_status .., State.reg_restartTxn_staged ..⟩
  · exact ⟨_, exec_cfgBegin_with_commit hl h30, rfl⟩
  · simp only [List.mem_cons, List.not_mem_nil, or_false] at hc
    rcases hc with rfl | rfl | rfl <;> exact ⟨_, rfl, State.writeTxn_of_validating hl hv _⟩

end Sys2Proof.Machine
